-- ==== Sys2Proof/Word.lean ====
section
/-! DEFINITION. The word types of the AQ-7716 (R4, R5) and the two container shapes the state is written with:
a vector of lanes and a table of entries keyed by a number. Arithmetic on them stands in Machine/Bits.lean. -/

namespace Sys2Proof

/-- A byte is 8 bits (R4). -/
abbrev Byte := BitVec 8
/-- A lane is 32 bits (R4). -/
abbrev Word := BitVec 32
/-- A scalar register, a key, a time stamp: 64 bits (R17, R29, R299). -/
abbrev Dword := BitVec 64
/-- A lane-valid mask: bit i is lane i of 192 (R17). -/
abbrev Mask := BitVec 192
/-- A rule-table entry (R41). -/
abbrev RuleEntry := BitVec 96

/-- A vector of lanes, lane 0 first (R5, R14). A lane the list does not hold reads as zero, so the payload of a
token with no lanes is the empty list. -/
structure Vec where
  lanes : List Word
  deriving DecidableEq, Repr, Inhabited

/-- A table keyed by a number, keys strictly rising; a key that is absent has the table's default. -/
abbrev SMap (α : Type) := List (Nat × α)

end Sys2Proof
end

