-- ==== Sys2Proof/Config.lean ====
section
/-! DEFINITION. What an implementation fixes and the manual does not give: constants with no body, so that a statement about
them holds whatever they are. -/

namespace Sys2Proof

/-- The SM4 keys the trust engine draws for memory key slots, by the count of draws (R433, R436). -/
opaque Config.freeKey : Nat → BitVec 128

/-- Whether an SM2 signature verifies: public key, distinguishing identifier, digest, and the two halves (R433, R70). -/
opaque Config.sm2Verify : List Byte → List Byte → List Byte → List Byte → List Byte → Bool

/-- The identity key's SM2 signature over a byte string under a distinguishing identifier: 64 bytes, SIGA then SIGB (R433, R439). -/
opaque Config.sm2Sign : List Byte → List Byte → List Byte

/-- The identity's public key (R433). -/
opaque Config.identityKey : List Byte

/-- Krabetric's public key, whose SM3 digest is the firmware root (R433). -/
opaque Config.krabetricKey : List Byte

/-- The firmware image in the device at power-on, which bring-up step 2 verifies (R435). -/
opaque Config.firmware : List Byte

/-- The seal key drawn at the n-th reset (R433). -/
opaque Config.sealKey : Nat → BitVec 256

/-- The body of a save record: its layout is internal to the device (R221); by sorus source and save count. -/
opaque Config.saveBody : Nat → Nat → List Byte

/-- The key under which the n-th memory key's blocks have their tweaks enciphered: XTS needs one beside the slot's key, and R436 names none. -/
opaque Config.tweakKey : Nat → BitVec 128

/-- The DRAM place of a physical address: HBM channel of the package (0-1,023), bank and row (R267). -/
opaque Config.hbmPlace : Nat → Nat × Nat × Nat

/-- The frond on which a fabric port lies (R258, R312): the manual does not place the 48 ports. -/
opaque Config.portFrond : Nat → Nat

/-- The fabric hops beyond the first between two packages, by their ids, and the frond of the far package at which its accesses arrive
(R258, R448): the pod's wiring is its own. -/
opaque Config.fabricPath : Nat → Nat → Nat × Nat

/-- A repair map as the control port returns it, by map number 3-7 and the count of tests so far, at training and in repair windows
(R440, R443, R446, R447): the outcome of the tests and the encoding are the part's own. -/
opaque Config.repairMap : Nat → Nat → List Byte

/-- Whether a repair window found spares for every unit of a region, by region and window count (R440). -/
opaque Config.regionSound : Nat → Nat → Bool

/-- What a byte of a granule that is declared live again reads until it is written: its refresh was elided (R270, R426); by address and the
counter of free values. -/
opaque Config.staleByte : Nat → Nat → Byte

/-- A granule of the package's HBM, by number, belongs to a patch store, whose place the manual leaves open (R332, R426, R443). -/
opaque Config.inPatchStore : Nat → Bool

/-- A listed package's host queue is full, as the fabric reports it (R384, R444); by package id and the counter of free values. -/
opaque Config.remoteFull : Nat → Nat → Bool

/-- Some reachable package lies more than 3 hops away under a route table (R448): the pod's wiring is its own. -/
opaque Config.fabricFar : List Nat → Bool

/-- The form letter, D, P or M (R1, R443). -/
opaque Config.form : Byte

/-- The bytes of a firmware image that Krabetric's signature covers, and the two halves of that signature (R435): the image's layout is not
given. -/
opaque Config.firmwareParts : List Byte → List Byte × List Byte × List Byte

/-- Nanoseconds by which the arithmetic-clock cycle of a number is stretched while the core current is near its peak (R450). -/
opaque Config.stretchNs : Nat → Nat

end Sys2Proof
end

