-- ==== Sys2Proof/Machine/Bits.lean ====
section
/-! DEFINITION. Operations on the plain shapes of Word.lean: bit fields, lanes, masks, byte strings, tables keyed by
a number, and small list helpers. Nothing here knows the machine. -/

namespace Sys2Proof

/-- Bits [hi:lo] of a number, as a number. -/
def bitsN (w hi lo : Nat) : Nat := w / 2 ^ lo % 2 ^ (hi + 1 - lo)

/-- Bits [hi:lo] of a bit vector, as a number. -/
def fld {n : Nat} (w : BitVec n) (hi lo : Nat) : Nat := bitsN w.toNat hi lo

/-- A truth value as a bit. -/
def bit01 (b : Bool) : Nat := if b then 1 else 0

/-- A truth value as a one-bit vector. -/
def bv1 (b : Bool) : BitVec 1 := BitVec.ofNat 1 (bit01 b)

/-- `a` with bits [hi:lo] replaced by the low bits of `v`. -/
def putField {n : Nat} (a : BitVec n) (hi lo v : Nat) : BitVec n :=
  BitVec.ofNat n (a.toNat - bitsN a.toNat hi lo * 2 ^ lo + v % 2 ^ (hi + 1 - lo) * 2 ^ lo)

/-- Bit k of a bit vector replaced. -/
def putBit {n : Nat} (a : BitVec n) (k : Nat) (b : Bool) : BitVec n :=
  if b then a ||| BitVec.ofNat n (2 ^ k) else a &&& ~~~ BitVec.ofNat n (2 ^ k)

/-- The number whose bit i is `f i`, for i below n. -/
def natOfBits (f : Nat → Bool) : Nat → Nat
  | 0 => 0
  | n + 1 => natOfBits f n + bit01 (f n) * 2 ^ n

/-! ### Tables keyed by a number -/

/-- The entry of key k, or the default. -/
def SMap.get {α : Type} (m : SMap α) (k : Nat) (dflt : α) : α :=
  match m with
  | [] => dflt
  | (j, v) :: t => if j = k then v else SMap.get t k dflt

/-- The entry of key k, if the table lists one. -/
def SMap.find {α : Type} (m : SMap α) (k : Nat) : Option α :=
  match m with
  | [] => none
  | (j, v) :: t => if j = k then some v else SMap.find t k

/-- The table lists key k. -/
def SMap.has {α : Type} (m : SMap α) (k : Nat) : Bool := (SMap.find m k).isSome

/-- The table with key k set, keys kept rising. -/
def SMap.set {α : Type} (m : SMap α) (k : Nat) (v : α) : SMap α :=
  match m with
  | [] => [(k, v)]
  | (j, w) :: t => if k < j then (k, v) :: (j, w) :: t else if k = j then (k, v) :: t else (j, w) :: SMap.set t k v

/-- The table without key k. -/
def SMap.del {α : Type} (m : SMap α) (k : Nat) : SMap α :=
  match m with
  | [] => []
  | (j, w) :: t => if k = j then SMap.del t k else (j, w) :: SMap.del t k

/-- Key k changed by a function of its entry (the default where absent). -/
def SMap.upd {α : Type} (m : SMap α) (k : Nat) (dflt : α) (f : α → α) : SMap α :=
  SMap.set m k (f (SMap.get m k dflt))

/-- The keys in rising order. -/
def SMap.keys {α : Type} (m : SMap α) : List Nat := m.map Prod.fst

/-- The keys are strictly rising. -/
def SMap.ordered {α : Type} : SMap α → Bool
  | [] => true
  | [_] => true
  | (j, _) :: (k, w) :: t => decide (j < k) && SMap.ordered ((k, w) :: t)

/-! ### Lanes and masks -/

/-- Lane i; zero where the vector holds none. -/
def Vec.get (v : Vec) (i : Nat) : Word := v.lanes.getD i 0

/-- The vector whose lane i is `f i`. -/
def Vec.gen (f : Nat → Word) : Vec := ⟨(List.range 192).map f⟩

/-- Every lane the same. -/
def Vec.splat (w : Word) : Vec := ⟨List.replicate 192 w⟩

/-- No lanes; every lane reads as zero. -/
def Vec.nil : Vec := ⟨[]⟩

/-- The mask whose bit i is `f i`. -/
def Mask.gen (f : Nat → Bool) : Mask := BitVec.ofNat 192 (natOfBits f 192)

/-- Every lane valid. -/
def Mask.full : Mask := BitVec.allOnes 192

/-- The first n lanes valid (all of them from 192 on). -/
def Mask.first (n : Nat) : Mask := BitVec.ofNat 192 (2 ^ (min n 192) - 1)

/-- The valid lanes of a mask, ascending. -/
def Mask.list (m : Mask) : List Nat := (List.range 192).filter fun i => m.getLsbD i

/-- How many lanes are valid. -/
def Mask.count (m : Mask) : Nat := (Mask.list m).length

/-- Lanes of `new` where the mask is set, lanes of `old` elsewhere. -/
def Vec.merge (m : Mask) (new old : Vec) : Vec := Vec.gen fun i => if m.getLsbD i then new.get i else old.get i

/-- Lanes outside the mask read as zero (R85). -/
def Vec.clear (m : Mask) (v : Vec) : Vec := Vec.gen fun i => if m.getLsbD i then v.get i else 0

/-- A vector from the low lanes of a list. -/
def Vec.ofList (l : List Word) : Vec := Vec.gen fun i => l.getD i 0

/-! ### Numbers and byte strings (R5: little-endian) -/

/-- The n low bytes of a number, lowest first. -/
def bytesLE : Nat → Nat → List Byte
  | 0, _ => []
  | n + 1, v => BitVec.ofNat 8 v :: bytesLE n (v / 256)

/-- The number a little-endian byte string holds. -/
def natLE : List Byte → Nat
  | [] => 0
  | b :: t => b.toNat + 256 * natLE t

/-- The number a big-endian byte string holds. -/
def natBE (l : List Byte) : Nat := natLE l.reverse

/-- The n low bytes of a number, highest first. -/
def bytesBE (n v : Nat) : List Byte := (bytesLE n v).reverse

/-- `n` bytes of a string from offset `o`, short of them zero. -/
def sliceB (l : List Byte) (o n : Nat) : List Byte := ((l.drop o).take n) ++ List.replicate (n - ((l.drop o).take n).length) 0

/-- The little-endian number at offset `o`, n bytes long. -/
def leAt (l : List Byte) (o n : Nat) : Nat := natLE (sliceB l o n)

/-! ### Signed numbers -/

/-- The integer an n-bit number stands for in two's complement. -/
def signedN (n v : Nat) : Int := if v % 2 ^ n < 2 ^ (n - 1) then (v % 2 ^ n : Nat) else ((v % 2 ^ n : Nat) : Int) - 2 ^ n

/-- An integer narrowed to n bits by wrapping. -/
def wrapN (n : Nat) (v : Int) : BitVec n := BitVec.ofInt n v

/-- An integer clamped to a range. -/
def clampI (lo hi v : Int) : Int := if v < lo then lo else if hi < v then hi else v

/-! ### Lists -/

/-- Entry i of a list replaced, if it is there. -/
def listSet {α : Type} : List α → Nat → α → List α
  | [], _, _ => []
  | _ :: t, 0, v => v :: t
  | h :: t, i + 1, v => h :: listSet t i v

/-- The list without its entry i. -/
def listDrop {α : Type} : List α → Nat → List α
  | [], _ => []
  | _ :: t, 0 => t
  | h :: t, i + 1 => h :: listDrop t i

/-- Insertion before the first element that must not come earlier; equal keys keep their order. -/
def insertBy {α : Type} (lt : α → α → Bool) (a : α) : List α → List α
  | [] => [a]
  | b :: t => if lt a b then a :: b :: t else b :: insertBy lt a t

/-- A stable sort by a strict order. -/
def sortBy {α : Type} (lt : α → α → Bool) : List α → List α
  | [] => []
  | a :: t => insertBy (fun x y => !lt y x) a (sortBy lt t)

/-- The position of the first entry that passes. -/
def findIdx {α : Type} (p : α → Bool) : List α → Option Nat
  | [] => none
  | a :: t => if p a then some 0 else (findIdx p t).map (· + 1)

/-- Numbers a, a+1, …, n of them. -/
def rangeFrom (a n : Nat) : List Nat := (List.range n).map (a + ·)

/-- Entries grouped n at a time; `fuel` bounds the number of groups. -/
def chunks {α : Type} (n : Nat) : Nat → List α → List (List α)
  | 0, _ => []
  | fuel + 1, l => if l.isEmpty then [] else l.take n :: chunks n fuel (l.drop n)

end Sys2Proof
end

