-- ==== Sys2Proof/Syntax.lean ====
section
/-! DEFINITION. The instruction set of the AQ-7716 (R48, R49) and the part's own events and control-port commands,
one constructor per row of the opcode table. Register specifiers are decoded (R38); a source that reads the literal
slot carries that slot's bits [25:0] (R35). Events carry what the outside world or an agent's choice supplies. -/

namespace Sys2Proof

/-- A destination specifier (R38). -/
inductive Dst where
  /-- v0-v15. -/
  | v (k : BitVec 4)
  /-- out0-out7: a token is emitted. -/
  | out (k : BitVec 3)
  /-- x0-x3. -/
  | x (k : BitVec 2)
  /-- NULL: the result is discarded. -/
  | null
  deriving DecidableEq, Repr

/-- A source specifier (R38). -/
inductive Src where
  /-- v0-v15. -/
  | v (k : BitVec 4)
  /-- in0-in7: the payload of the head. -/
  | inp (k : BitVec 3)
  /-- x0-x3. -/
  | x (k : BitVec 2)
  /-- LANE: lane i holds i. -/
  | lane
  /-- ZERO. -/
  | zero
  /-- The literal slot's bits [25:0] (R35): LF in [25:24], LV in [23:0]. -/
  | lit (w : BitVec 26)
  deriving DecidableEq, Repr

/-- What a control-port frame carries beside its payload (R442): the port it came in on (0 primary, 1 redundant)
and its SEQ. -/
structure Frame where
  port : Nat
  seq : BitVec 32
  deriving DecidableEq, Repr

/-- What a fabric flit of another package carries to this one (R448): the messages the manual gives a meaning. -/
inductive FabMsg where
  /-- A store to this package's memory (R328, R448): physical address (a vault's has 2^52 added), key slot of the leaf, bytes, the package that
  asks and its tag. -/
  | store (pa : Nat) (kslot : Nat) (bytes : List Byte) (src : Nat) (tag : Nat)
  /-- A load from this package's memory by another package: physical address, key slot, length, the requester and its tag, and
  whether a context S made it (R329). -/
  | load (pa : Nat) (kslot : Nat) (len : Nat) (src : Nat) (tag : Nat) (sys : Bool)
  /-- A packet of SUBMIT forwarded by the package at position 0 (R444). -/
  | packet (asid : Nat) (pkt : List Byte) (pkgs : List Nat)
  /-- A kill that began in another package (R414). -/
  | kill (lid : Nat) (code : Nat)
  /-- A package's part of a launch is complete (R444): its flags and sink counts. -/
  | report (lid : Nat) (src : Nat) (code : Nat) (flags : Nat) (poison : Nat) (stranded : Nat)
  /-- An arrival at a pod barrier by a context of another package (R371). -/
  | arrive (b : Nat) (count : Nat) (lid : Nat)
  /-- The bytes of a load of this package from another's memory (R448): its tag. -/
  | data (tag : Nat) (bytes : List Byte)
  /-- The poison code such a load or a store met (R271, R342): its tag. -/
  | fail (tag : Nat) (code : Nat)
  /-- A Sync message of the time master (R449): the offset measured. -/
  | sync (off : Int)
  /-- A translation instruction of another package for an ASID whose root lies in this one (R325): what it is, its operands, and the package,
  context and tag that the answer names. -/
  | xevent (kind : Nat) (asid : Nat) (va : Nat) (arg : Nat) (src : Nat) (cid : Nat) (tag : Nat)
  /-- The word that completes such an event (R345): its tag. -/
  | xanswer (tag : Nat) (word : Nat)
  /-- The root of an ASID as its home package has set it, or none (R325). -/
  | xroot (asid : Nat) (root : Option Nat) (src : Nat)
  /-- A package holds an ASID of this home agent (R336). -/
  | xshare (asid : Nat) (src : Nat)
  /-- An invalidation (1 to be held), or a repatch (2 the stale entries, 3 the held ones, 4 those not present), of a range of an ASID that
  other packages' generators hold (R336; 5 ADREAD.CLRA's, R352): the event and the package that is to be told. 6 is an
  invalidation and 7 a repatch of the stale entries, answered once the accesses there through the range have come to rest: writes for 6 (R352),
  every access for 7 (R339). -/
  | xmark (what : Nat) (asid : Nat) (lo : Nat) (len : Nat) (event : Nat) (src : Nat)
  /-- A package has done so for an event. -/
  | xack (event : Nat) (src : Nat)
  /-- A launch has been queued at the package at position 0 of its list (R384, R385): its range of RAND counters (R378), its packages, and
  what it lends to its predecessors (R388): its base priority and their ids. -/
  | launched (lid : Nat) (seed : Nat) (clo : Nat) (ccount : Nat) (pkgs : List Nat) (prio : Nat) (preds : List Nat)
  /-- PRIO has set a launch's base priority (R388, R403). -/
  | reprio (lid : Nat) (prio : Nat)
  /-- A launch has been accepted there (R378). -/
  | accepted (lid : Nat)
  /-- A launch is complete, or was refused (R384, R385, R387). -/
  | ended (lid : Nat)
  deriving DecidableEq, Repr

/-- One constructor per row of the opcode table. The first 177 are instructions that fire from a slot; the rest are
the part's own steps. `c` is a context, numbered region × 1024 + element × 8 + context; `e` an element, region × 128 +
element; `r` a region, 16 × frond + region; `x` a context of a region, 0-4; `so` a sorus; `n` the number of a request,
a translation event or a link transfer. -/
inductive Instr where
  /-- NOP (R97): Fires with no effect of its own; only its rule's dequeues, updates and the counter step apply. -/
  | nop
  /-- IDLE (R100): Suspends its context for n cycles after the firing. -/
  | idle (i : BitVec 13)
  /-- HALT (R101): Makes the context halted at the end of the firing cycle. -/
  | halt
  /-- PSET (R102): Writes a constant 0 or 1 to a predicate. -/
  | pset (k : BitVec 2) (d : BitVec 5) (v : BitVec 1)
  /-- PLOG (R102): Writes the XOR of two predicates of one bank, optionally inverted. -/
  | plog (k : BitVec 2) (d : BitVec 5) (a : BitVec 5) (b : BitVec 5) (v : BitVec 1)
  /-- PANY (R102): Writes the OR of a range of predicates, optionally inverted. -/
  | pany (k : BitVec 2) (d : BitVec 5) (a : BitVec 5) (b : BitVec 5) (v : BitVec 1)
  /-- PALL (R102): Writes the AND of a range of predicates, optionally inverted. -/
  | pall (k : BitVec 2) (d : BitVec 5) (a : BitVec 5) (b : BitVec 5) (v : BitVec 1)
  /-- MOV (R103): Copies a source to a register, output or NULL, masked or all lanes. -/
  | mov (d : Dst) (a : Src) (m : BitVec 3)
  /-- MOVI (R104): Writes a sign-extended 13-bit immediate. -/
  | movi (d : Dst) (i : BitVec 13)
  /-- LIT (R105): Writes a 32-bit value built from IMM13 and its literal slot. -/
  | lit (d : Dst) (zx : BitVec 1) (hi : BitVec 8) (lo : BitVec 24)
  /-- SEL (R106): Blends two sources lane by lane under the lane-valid mask. -/
  | sel (d : Dst) (a : Src) (b : Src) (m : BitVec 3)
  /-- DEQ (R107): Removes the head of an input at the end of the cycle. -/
  | deq (a : Src)
  /-- EMIT (R108): Emits a DATA, MARK or EOS token on an output. -/
  | emit (d : Dst) (a : Src) (g : BitVec 4) (c : BitVec 4)
  /-- TAGSET (R109): Sets, copies or increments an output tag OTAG. -/
  | tagset (d : Dst) (a : Src) (g : BitVec 4) (c : BitVec 4)
  /-- HDREAD (R110): Reads a field of an input head's header into an x register without removing it. -/
  | hdread (d : Dst) (a : Src) (c : BitVec 4)
  /-- FCOUNT (R111): Reads the context's firing counter. -/
  | fcount (d : Dst)
  /-- MASKSET (R112): Sets the lane-valid mask by SET, AND, OR, FIRST or HEAD. -/
  | maskset (a : Src) (m : BitVec 3)
  /-- BRK (R113): Retires and puts the context in trap state with a BREAK record. -/
  | brk (i : BitVec 8)
  /-- IADD (R118): Integer add with wrap or signed or unsigned saturation. -/
  | iadd (d : Dst) (a : Src) (b : Src) (m : BitVec 3)
  /-- ISUB (R118): Integer subtract with wrap or saturation. -/
  | isub (d : Dst) (a : Src) (b : Src) (m : BitVec 3)
  /-- IMUL (R118): Integer multiply, low result, with wrap or saturation. -/
  | imul (d : Dst) (a : Src) (b : Src) (m : BitVec 3)
  /-- IMULH (R119): Upper half of the exact integer product. -/
  | imulh (d : Dst) (a : Src) (b : Src) (m : BitVec 3)
  /-- IMAD (R118): Integer multiply-add into the destination, narrowed once. -/
  | imad (d : Dst) (a : Src) (b : Src) (m : BitVec 3)
  /-- IADDI (R118): Adds a signed 8-bit immediate, wrapping. -/
  | iaddi (d : Dst) (a : Src) (i : BitVec 8)
  /-- IMIN (R120): Signed or unsigned integer minimum. -/
  | imin (d : Dst) (a : Src) (b : Src) (m : BitVec 3)
  /-- IMAX (R120): Signed or unsigned integer maximum. -/
  | imax (d : Dst) (a : Src) (b : Src) (m : BitVec 3)
  /-- AND (R121): Bitwise AND, or AND-NOT. -/
  | and (d : Dst) (a : Src) (b : Src) (m : BitVec 3)
  /-- OR (R121): Bitwise OR, or OR-NOT. -/
  | or (d : Dst) (a : Src) (b : Src) (m : BitVec 3)
  /-- XOR (R121): Bitwise XOR, or XNOR. -/
  | xor (d : Dst) (a : Src) (b : Src) (m : BitVec 3)
  /-- SHL (R122): Shift left by the full count. -/
  | shl (d : Dst) (a : Src) (b : Src)
  /-- SHR (R122): Logical or arithmetic shift right. -/
  | shr (d : Dst) (a : Src) (b : Src) (m : BitVec 3)
  /-- ROT (R122): Rotate left or right. -/
  | rot (d : Dst) (a : Src) (b : Src) (m : BitVec 3)
  /-- ICMP (R123): Integer compare giving all ones or zero per lane. -/
  | icmp (d : Dst) (a : Src) (b : Src) (m : BitVec 3)
  /-- ISAT (R124): Clamps to a signed or unsigned W-bit range. -/
  | isat (d : Dst) (a : Src) (s : BitVec 1) (w : BitVec 6)
  /-- BITC (R125): Population count, leading or trailing zeros, bit or byte reverse. -/
  | bitc (d : Dst) (a : Src) (m : BitVec 3)
  /-- BFX (R126): Extracts a bit field, zero- or sign-extended. -/
  | bfx (d : Dst) (a : Src) (b : Src) (m : BitVec 3)
  /-- BFI (R126): Inserts a bit field into the destination. -/
  | bfi (d : Dst) (a : Src) (b : Src)
  /-- ADDR (R127): Forms scaled 64-bit addresses or an address-pair vector. -/
  | addr (d : Dst) (a : Src) (b : Src) (h : BitVec 1) (n : BitVec 2)
  /-- CCHAIN (R131): Stages a counter-chain extent and optionally arms the chain. -/
  | cchain (a : Src) (g : BitVec 4) (p : BitVec 1)
  /-- CSTEP (R132): Emits the next DATA, MARK or EOS token of the counter chain. -/
  | cstep (d : Dst) (w : BitVec 2) (m : BitVec 2)
  /-- LSCAN (R129): Lane prefix scan with a carry-in. -/
  | lscan (d : Dst) (a : Src) (b : Src) (m : BitVec 3)
  /-- IDIV (R128): Integer quotient or remainder on the shared divider. -/
  | idiv (d : Dst) (a : Src) (b : Src) (m : BitVec 3)
  /-- FADD (R159): FP32 add rounded once. -/
  | fadd (d : Dst) (a : Src) (b : Src) (m : BitVec 3)
  /-- FSUB (R159): FP32 subtract rounded once. -/
  | fsub (d : Dst) (a : Src) (b : Src) (m : BitVec 3)
  /-- FMUL (R159): FP32 multiply rounded once. -/
  | fmul (d : Dst) (a : Src) (b : Src) (m : BitVec 3)
  /-- FFMA (R160): Fused FP32 multiply-add into the destination register. -/
  | ffma (d : Dst) (a : Src) (b : Src) (m : BitVec 3)
  /-- FMIN (R163): FP32 minimum, NaN-propagating. -/
  | fmin (d : Dst) (a : Src) (b : Src)
  /-- FMAX (R163): FP32 maximum, NaN-propagating. -/
  | fmax (d : Dst) (a : Src) (b : Src)
  /-- FMINN (R163): FP32 minimum preferring the number operand. -/
  | fminn (d : Dst) (a : Src) (b : Src)
  /-- FMAXN (R163): FP32 maximum preferring the number operand. -/
  | fmaxn (d : Dst) (a : Src) (b : Src)
  /-- FCMP (R164): FP32 compare giving all ones or zero per lane. -/
  | fcmp (d : Dst) (a : Src) (b : Src) (m : BitVec 3)
  /-- FSGN (R165): Replaces the sign bit by copy, negated copy, XOR, abs or neg. -/
  | fsgn (d : Dst) (a : Src) (b : Src) (m : BitVec 3)
  /-- FRCP (R161): Correctly rounded reciprocal on the special-function unit. -/
  | frcp (d : Dst) (a : Src) (m : BitVec 3)
  /-- FRSQ (R161): Correctly rounded reciprocal square root. -/
  | frsq (d : Dst) (a : Src) (m : BitVec 3)
  /-- FSQRT (R161): Correctly rounded square root. -/
  | fsqrt (d : Dst) (a : Src) (m : BitVec 3)
  /-- FDIV (R159): FP32 divide rounded once. -/
  | fdiv (d : Dst) (a : Src) (b : Src) (m : BitVec 3)
  /-- FEXP2 (R161): Correctly rounded base-2 exponential. -/
  | fexp2 (d : Dst) (a : Src) (m : BitVec 3)
  /-- FLOG2 (R161): Correctly rounded base-2 logarithm. -/
  | flog2 (d : Dst) (a : Src) (m : BitVec 3)
  /-- FRED (R167): Sums the valid lanes in a fixed tree order. -/
  | fred (d : Dst) (a : Src)
  /-- FRMAX (R168): Lane maximum giving value, index or both. -/
  | frmax (d : Dst) (a : Src) (m : BitVec 3)
  /-- FRMIN (R168): Lane minimum giving value, index or both. -/
  | frmin (d : Dst) (a : Src) (m : BitVec 3)
  /-- CVTF (R170): Narrows FP32 to FP16, BF16 or FP8, or widens them to FP32. -/
  | cvtf (d : Dst) (a : Src) (r : BitVec 1) (f : BitVec 2) (p : BitVec 2) (n : BitVec 3)
  /-- CVTI (R171): Converts FP32 to INT32 or packed INT8. -/
  | cvti (d : Dst) (a : Src) (s : BitVec 1) (p : BitVec 2) (n : BitVec 3)
  /-- CVTIF (R172): Converts INT32 or packed INT8 to FP32. -/
  | cvtif (d : Dst) (a : Src) (s : BitVec 1) (u : BitVec 1) (p : BitVec 2) (n : BitVec 3)
  /-- CVT4 (R175): Expands 4-bit elements to FP8. -/
  | cvt4 (d : Dst) (a : Src) (k : BitVec 2) (s : BitVec 1) (h : BitVec 1)
  /-- MXPACK (R176): Packs six blocks of lanes into MXFP4 elements and E8M0 scales. -/
  | mxpack (d : Dst) (a : Src) (p : BitVec 4) (x : BitVec 2)
  /-- MXUNPK (R177): Unpacks MXFP4 elements with their scales to FP32. -/
  | mxunpk (d : Dst) (a : Src) (p : BitVec 4) (x : BitVec 2)
  /-- SCPACK (R179): Packs scaled FP8 elements or their S24 scales. -/
  | scpack (d : Dst) (a : Src) (k : BitVec 1) (f : BitVec 1) (s : BitVec 1) (p : BitVec 2) (n : BitVec 2)
  /-- SCUNPK (R180): Unpacks scaled FP8 elements to FP32. -/
  | scunpk (d : Dst) (a : Src) (b : Src) (f : BitVec 1) (p : BitVec 2)
  /-- FCLASS (R166): Writes a one-hot class of each FP32 lane. -/
  | fclass (d : Dst) (a : Src)
  /-- FROUND (R173): Rounds each lane to an integral FP32 value. -/
  | fround (d : Dst) (a : Src) (b : Src) (m : BitVec 3)
  /-- FSCALE (R174): Multiplies each lane by 2^n, rounded once. -/
  | fscale (d : Dst) (a : Src) (b : Src) (m : BitVec 3)
  /-- PCARVE (R198): Checks a carve word and sends it to its sorus carve queue. -/
  | pcarve (a : Src)
  /-- PCOMMIT (R199): Sends a commit of the staged set to one or all carve queues. -/
  | pcommit (d : Dst) (l : BitVec 1) (s : BitVec 2)
  /-- PMAP (R198): Checks a map word and sends it to the carve queue. -/
  | pmap (a : Src)
  /-- PSTAT (R200): Reads sorus node, group or latch state. -/
  | pstat (d : Dst) (a : Src) (g : BitVec 4) (s : BitVec 2)
  /-- PGATHER (R201): Adds logical rows to a latch lane and hands the gather to the gather unit. -/
  | pgather (d : Dst) (a : Src) (l : BitVec 3) (s : BitVec 2) (tile : BitVec 12) (col : BitVec 7) (wid : BitVec 7)
  /-- PISSUE (R202): Enqueues n multiply or load passes. -/
  | pissue (d : Dst) (s : BitVec 2) (all : BitVec 1) (load : BitVec 1) (n : BitVec 16)
  /-- PISSUEX (R202): Enqueues n streaming load-and-multiply passes. -/
  | pissuex (d : Dst) (s : BitVec 2) (all : BitVec 1) (b : BitVec 3) (n : BitVec 16)
  /-- PDRAIN (R213): Checks a drain descriptor and enqueues a drain. -/
  | pdrain (d : Dst) (a : Src) (clr : BitVec 1) (to_ : BitVec 1) (s : BitVec 2) (gid : BitVec 10)
  /-- PCLEAR (R215): Enqueues a clear of accumulator entries or sort keys. -/
  | pclear (d : Dst) (a : Src) (s : BitVec 2) (gid : BitVec 10)
  /-- PSORT (R218): Enqueues the appending of keys to a sort group. -/
  | psort (d : Dst) (a : Src) (s : BitVec 2) (gid : BitVec 10)
  /-- PSORTK (R219): Enqueues the sort and emission of a sort group's keys. -/
  | psortk (d : Dst) (idx : BitVec 1) (desc : BitVec 1) (s : BitVec 2) (gid : BitVec 10)
  /-- PSAVE (R220): Saves and resets a sorus node's whole state to a save area. -/
  | psave (d : Dst) (a : Src) (s : BitVec 2)
  /-- PRESTORE (R222): Restores a sealed save record into an unowned sorus. -/
  | prestore (d : Dst) (a : Src) (c : BitVec 2) (s : BitVec 2)
  /-- PQSTAT (R223): Reads the state of one sorus queue. -/
  | pqstat (d : Dst) (g : BitVec 4) (s : BitVec 2)
  /-- STEER (R237): Sends the data head to the false or true output, whole or by lane. -/
  | steer (d : Dst) (a : Src) (b : Src) (m : BitVec 1)
  /-- MERGE (R240): Forwards the head of the input a control selects. -/
  | merge (d : Dst) (a : Src) (b : Src) (m : BitVec 3)
  /-- LEXIT (R239): Sends the data head to the loop exit or back edge. -/
  | lexit (d : Dst) (a : Src) (b : Src)
  /-- GATE (R241): Lets a counted number of data tokens pass. -/
  | gate (d : Dst) (a : Src) (b : Src)
  /-- DUP (R242): Copies the head to 2 to 4 outputs. -/
  | dup (d : Dst) (a : Src) (n : BitVec 2)
  /-- ZIPT (R243): Interleaves two streams strictly with alternating tags. -/
  | zipt (d : Dst) (a : Src) (b : Src)
  /-- TALLOC (R244): Allocates the next tag of the ordered window. -/
  | talloc (d : Dst) (g : BitVec 4) (s : BitVec 1)
  /-- TFREE (R245): Frees an outstanding tag. -/
  | tfree (a : Src) (g : BitVec 4)
  /-- TROUTE (R246): Forwards a DATA head with a fixed or payload tag. -/
  | troute (d : Dst) (a : Src) (g : BitVec 4) (v : BitVec 1)
  /-- ISECT (R247): Intersects two coordinate fibres. -/
  | isect (d : Dst) (a : Src) (b : Src) (q : BitVec 1) (p : BitVec 1)
  /-- UNION (R247): Unites two coordinate fibres. -/
  | union (d : Dst) (a : Src) (b : Src) (q : BitVec 1) (p : BitVec 1)
  /-- FIBRE (R248): Cuts a stream into fibres of given lengths closed by MARKs. -/
  | fibre (d : Dst) (a : Src) (b : Src) (m : BitVec 3)
  /-- PACKV (R249): Packs valid lanes into full tokens. -/
  | packv (d : Dst) (a : Src)
  /-- SPLITV (R250): Splits a vector token into W-lane pieces. -/
  | splitv (d : Dst) (a : Src) (w : BitVec 2)
  /-- COMPACT (R251): Compacts the selected lanes to the low lanes. -/
  | compact (d : Dst) (a : Src)
  /-- ORDER (R252): Stably sorts the selected lanes, optionally with indices. -/
  | order (d : Dst) (a : Src) (c : BitVec 4)
  /-- SWITCH (R238): Sends the data head to one of n outputs. -/
  | switch (d : Dst) (a : Src) (b : Src) (m : BitVec 3)
  /-- POISON (R253): Emits a user POISON token. -/
  | poison (d : Dst) (i : BitVec 8)
  /-- ENDS (R254): Acts as a sink, consuming heads until EOS completes it. -/
  | ends (d : Dst) (a : Src) (s : BitVec 1)
  /-- CHOCC (R255): Reads the state of one of the context's channels. -/
  | chocc (d : Dst) (c : BitVec 4)
  /-- VLD (R273): Loads consecutive words from V-space. -/
  | vld (d : Dst) (a : Src)
  /-- VST (R273): Stores lanes to consecutive V-space words. -/
  | vst (d : Dst) (a : Src) (b : Src)
  /-- VLDX (R273): Indexed load from V-space. -/
  | vldx (d : Dst) (a : Src) (b : Src) (n : BitVec 2)
  /-- VSTX (R273): Indexed store to V-space. -/
  | vstx (d : Dst) (a : Src) (b : Src) (n : BitVec 2)
  /-- GLD (R274): Gathers words from G-space address pairs through a port. -/
  | gld (d : Dst) (a : Src) (h : BitVec 1) (p : BitVec 2)
  /-- GST (R274): Scatters words to G-space address pairs through a port. -/
  | gst (d : Dst) (a : Src) (b : Src) (h : BitVec 1) (p : BitVec 2)
  /-- SPORT (R275): Checks a stream descriptor and starts a read, write or gather stream on a port. -/
  | sport (a : Src) (p : BitVec 2) (u : BitVec 1) (m : BitVec 2)
  /-- SREQ (R277): Moves a read-stream token out or feeds a write stream. -/
  | sreq (d : Dst) (a : Src) (p : BitVec 2) (w : BitVec 1)
  /-- SGATH (R279): Gathers indexed rows through a .G port. -/
  | sgath (d : Dst) (a : Src) (p : BitVec 2)
  /-- TILEST (R280): Writes header, data or scales into a tile of the region's vault. -/
  | tilest (d : Dst) (a : Src) (b : Src) (m : BitVec 3) (tile : BitVec 12)
  /-- TILEQ (R281): Reads or opens, closes or frees a tile table entry. -/
  | tileq (d : Dst) (o : BitVec 4) (tile : BitVec 12)
  /-- VALLOC (R282): Allocates vault space for the configuration. -/
  | valloc (d : Dst) (a : Src) (v : BitVec 4) (f : BitVec 4) (at_ : BitVec 1) (off : BitVec 14)
  /-- VFREE (R283): Frees a vault allocation. -/
  | vfree (a : Src)
  /-- PREF (R284): Asks a port's channels to open rows in the bulk class. -/
  | pref (a : Src) (p : BitVec 2) (n : BitVec 4)
  /-- GLDA (R285): Single acquire load at a scope. -/
  | glda (d : Dst) (a : Src) (g : BitVec 4) (w : BitVec 1) (v : BitVec 1) (p : BitVec 2)
  /-- GSTR (R285): Single release store at a scope. -/
  | gstr (d : Dst) (a : Src) (g : BitVec 4) (w : BitVec 1) (v : BitVec 1) (p : BitVec 2)
  /-- FENCE (R306): Acquire, release or both at a scope. -/
  | fence (g : BitVec 4) (k : BitVec 2)
  /-- FENCEX (R307): Waits for the context's translation events and A/D updates. -/
  | fencex (d : Dst)
  /-- FENCEP (R308): Orders the context's stores against loader and configuration-network reads. -/
  | fencep (d : Dst)
  /-- SEQKEY (R309): Sets, adds to or reads the key register. -/
  | seqkey (d : Dst) (a : Src) (k : BitVec 2)
  /-- PERFW (R310): Waits until the context's or configuration's stores have performed. -/
  | perfw (c : BitVec 1)
  /-- MCSYNC (R311): Waits until the emitter's stores before a head have performed. -/
  | mcsync (a : Src)
  /-- AADD (R317): Atomic integer add. -/
  | aadd (d : Dst) (a : Src) (h : BitVec 1) (w : BitVec 1) (v : BitVec 1) (n : BitVec 1) (p : BitVec 2)
  /-- AAND (R317): Atomic AND. -/
  | aand (d : Dst) (a : Src) (h : BitVec 1) (w : BitVec 1) (v : BitVec 1) (n : BitVec 1) (p : BitVec 2)
  /-- AOR (R317): Atomic OR. -/
  | aor (d : Dst) (a : Src) (h : BitVec 1) (w : BitVec 1) (v : BitVec 1) (n : BitVec 1) (p : BitVec 2)
  /-- AXOR (R317): Atomic XOR. -/
  | axor (d : Dst) (a : Src) (h : BitVec 1) (w : BitVec 1) (v : BitVec 1) (n : BitVec 1) (p : BitVec 2)
  /-- AMIN (R317): Atomic signed or unsigned integer minimum. -/
  | amin (d : Dst) (a : Src) (h : BitVec 1) (w : BitVec 1) (v : BitVec 1) (n : BitVec 1) (p : BitVec 2) (s : BitVec 1)
  /-- AMAX (R317): Atomic signed or unsigned integer maximum. -/
  | amax (d : Dst) (a : Src) (h : BitVec 1) (w : BitVec 1) (v : BitVec 1) (n : BitVec 1) (p : BitVec 2) (s : BitVec 1)
  /-- AXCHG (R317): Atomic exchange. -/
  | axchg (d : Dst) (a : Src) (h : BitVec 1) (w : BitVec 1) (v : BitVec 1) (n : BitVec 1) (p : BitVec 2)
  /-- ACAS (R320): Atomic compare-and-swap. -/
  | acas (d : Dst) (a : Src) (h : BitVec 1) (w : BitVec 1) (v : BitVec 1) (n : BitVec 1) (p : BitVec 2)
  /-- AFADD (R317): Atomic FP32 add. -/
  | afadd (d : Dst) (a : Src) (h : BitVec 1) (v : BitVec 1) (n : BitVec 1) (p : BitVec 2)
  /-- AFMIN (R317): Atomic FP32 minimum. -/
  | afmin (d : Dst) (a : Src) (h : BitVec 1) (v : BitVec 1) (n : BitVec 1) (p : BitVec 2)
  /-- AFMAX (R317): Atomic FP32 maximum. -/
  | afmax (d : Dst) (a : Src) (h : BitVec 1) (v : BitVec 1) (n : BitVec 1) (p : BitVec 2)
  /-- AWADD (R319): Atomic 128-bit wrapping add. -/
  | awadd (d : Dst) (a : Src) (v : BitVec 1) (n : BitVec 1) (p : BitVec 2)
  /-- AINC (R317): Atomic wrapping, saturating or decrementing counter. -/
  | ainc (d : Dst) (a : Src) (h : BitVec 1) (w : BitVec 1) (v : BitVec 1) (n : BitVec 1) (p : BitVec 2) (s : BitVec 2)
  /-- ABIT (R317): Atomic set, clear or flip of one bit. -/
  | abit (d : Dst) (a : Src) (h : BitVec 1) (w : BitVec 1) (v : BitVec 1) (n : BitVec 1) (p : BitVec 2) (s : BitVec 2)
  /-- MAP (R347): Sends a map of a leaf, table or root to the home agent. -/
  | map (d : Dst) (a : Src) (kind : BitVec 2) (level : BitVec 2) (asid : BitVec 12)
  /-- UNMAP (R348): Sends an unmap of a leaf, table or root to the home agent. -/
  | unmap (d : Dst) (a : Src) (kind : BitVec 2) (level : BitVec 2) (asid : BitVec 12)
  /-- PROTECT (R349): Sends a rights change of a leaf to the home agent. -/
  | protect (d : Dst) (a : Src) (level : BitVec 2) (usr : BitVec 1) (wr : BitVec 1) (rd : BitVec 1) (asid : BitVec 12)
  /-- MIGRATE (R350): Sends a migration of a leaf to a new frame. -/
  | migrate (d : Dst) (a : Src) (level : BitVec 2) (asid : BitVec 12)
  /-- XINVAL (R351): Drops, holds or releases patch entries of a range. -/
  | xinval (d : Dst) (a : Src) (o : BitVec 2) (asid : BitVec 12)
  /-- ADREAD (R352): Reads a leaf and optionally clears its A or D bit. -/
  | adread (d : Dst) (a : Src) (level : BitVec 2) (clrd : BitVec 1) (clra : BitVec 1) (asid : BitVec 12)
  /-- XPROBE (R353): Walks the tables for a VA and returns the result. -/
  | xprobe (d : Dst) (a : Src) (asid : BitVec 12)
  /-- XSYNC (R354): Emits a token once all earlier translation events of the ASID completed. -/
  | xsync (d : Dst) (asid : BitVec 12)
  /-- COPY (R362): Checks a copy descriptor and enqueues it in a copy queue. -/
  | copy (d : Dst) (a : Src) (q : BitVec 2) (tben : BitVec 1) (tbid : BitVec 6) (bulk : BitVec 1) (dep2 : BitVec 4) (dep1 : BitVec 4) (dep0 : BitVec 4)
  /-- DTOKEN (R366): Joins dependence tokens or turns performed stores into one. -/
  | dtoken (d : Dst) (a : Src) (b : Src) (m : BitVec 1)
  /-- TBARR (R368): Initialises, seals or announces copies on a transaction barrier. -/
  | tbarr (d : Dst) (a : Src) (b : BitVec 6) (k : BitVec 2)
  /-- TBWAIT (R369): Waits until a transaction barrier generation has closed. -/
  | tbwait (d : Dst) (a : Src) (b : BitVec 6)
  /-- TBANY (R370): Returns the next ready transaction barrier in rotation. -/
  | tbany (d : Dst) (a : Src)
  /-- NBAR (R372): Arrives at a named region barrier. -/
  | nbar (d : Dst) (a : Src) (i : BitVec 5) (k : BitVec 3)
  /-- GBAR (R372): Arrives at a package or pod barrier. -/
  | gbar (d : Dst) (a : Src) (i : BitVec 3) (o : BitVec 1) (k : BitVec 1)
  /-- TIMEW (R377): Suspends the context until the counter reaches a target time. -/
  | timew (d : Dst) (a : Src) (r : BitVec 1)
  /-- TIMER (R376): Reads the time-stamp counter or the discipline status. -/
  | timer (d : Dst) (k : BitVec 1)
  /-- RAND (R378): Draws counter-based SM4 random numbers. -/
  | rand (d : Dst) (a : Src) (b : Src)
  /-- LAUNCH (R396): Reads a packet and queues it as a child launch. -/
  | launch (d : Dst) (a : Src) (v : BitVec 1)
  /-- JOINC (R397): Waits for a child's completion record and reports it. -/
  | joinc (d : Dst) (a : Src)
  /-- CFGNEXT_STEP (R398): Records the next SEQ step choice. -/
  | cfgnextStep (k : BitVec 4)
  /-- CFGNEXT_POST (R399): Appends a strand word to a WHEN 2 step's entry queue. -/
  | cfgnextPost (a : Src) (cfg : BitVec 12)
  /-- STRAND (R400): Reads extents, coordinates, parameters, the LID, or takes an entry word. -/
  | strand (d : Dst) (a : Src) (g : BitVec 4) (c : BitVec 4)
  /-- RETIRE (R401): Retires vault allocations and stops copies into them. -/
  | retire (d : Dst) (a : Src) (l : BitVec 1)
  /-- PRIO (R402): Sets or reads the launch's base priority. -/
  | prio (d : Dst) (a : Src) (g : BitVec 4) (c : BitVec 4)
  /-- TRAP (R422): Raises a precise USER trap. -/
  | trap (a : Src) (i : BitVec 8)
  /-- TRET (R423): Resumes, skips or kills a trapped context. -/
  | tret (d : Dst) (a : Src) (c : BitVec 4)
  /-- CTXSW (R424): Writes RANK, RFCTL, MCCTL or clears FSTAT bits. -/
  | ctxsw (a : Src) (c : BitVec 4)
  /-- QSTOP (R425): Stops and reports, or restarts, region queues. -/
  | qstop (d : Dst) (a : Src) (c : BitVec 4)
  /-- ERRLOG (R426): Pops the error log or declares HBM granules live or dead. -/
  | errlog (d : Dst) (a : Src) (c : BitVec 4)
  /-- MCMP (R427): Compares a stored manifest with the present one. -/
  | mcmp (d : Dst) (a : Src)
  /-- ATTEST (R428): Requests a signed quote from the trust engine. -/
  | attest (d : Dst) (a : Src)
  /-- CFGLD (R429): Reloads and checks a target context's element record. -/
  | cfgld (d : Dst) (a : Src)
  /-- CFGSIG (R430): Checks or reads the digest of an element record. -/
  | cfgsig (d : Dst) (a : Src) (c : BitVec 4)
  /-- SYSRD (R431): Reads FSTAT, snapshot, control registers, sinks or trap queue state. -/
  | sysrd (d : Dst) (a : Src) (g : BitVec 4)
  /-- RESULT_WRITEBACK (R80): A result of latency L is written back, or its token emitted, at the end of cycle c+L-1. -/
  | resultWriteback (c : Nat)
  /-- IDLE_EXPIRY (R100): An IDLE countdown ends and the context becomes a candidate again. -/
  | idleExpiry (c : Nat)
  /-- TIMEW_WAKE (R377): The sampled counter reaches the target and the waiting context wakes. -/
  | timewWake (c : Nat)
  /-- SHARED_UNIT_FREE (R128): The busy interval of the divider, special-function unit or SM4 unit ends. -/
  | sharedUnitFree (e : Nat) (u : Nat)
  /-- TOKEN_SEND (R86): A link takes a token from an output register, round-robin, and moves its beats. -/
  | tokenSend (e : Nat) (k : Nat)
  /-- TOKEN_ARRIVAL (R87): A token's last beat arrives and it becomes a head in the consumer's buffer. -/
  | tokenArrival (n : Nat)
  /-- DEADLOCK (R96): The watchdog count reaches WDLIMIT, sets DLK, writes a snapshot and sends a trap token. -/
  | deadlock (r : Nat)
  /-- MCAST_STALL (R234): A multicast output register held full for MCLIMIT cycles raises a trap token. -/
  | mcastStall (c : Nat) (k : Nat)
  /-- TRAP_QUEUE_DELIVERY (R405): The trap queue delivers its head record as a token to the trap channel when it has space. -/
  | trapQueueDelivery (r : Nat)
  /-- PACKET_ACCEPTANCE (R385): A queued packet is accepted once its predecessors complete and its parameter block is snapshot. -/
  | packetAcceptance (lid : Nat)
  /-- REGION_GRANT (R388): The scheduler grants P regions to the first launch in grant order. -/
  | regionGrant (lid : Nat)
  /-- PRIORITY_RANK_UPDATE (R390): The scheduler rewrites RANK fields after an effective priority or resident set change. -/
  | priorityRankUpdate (r : Nat)
  /-- IMAGE_LOAD (R71): The loader reads and checks an image, patches ports and writes DATA records, or refuses it. -/
  | imageLoad (lid : Nat)
  /-- CONFIGURATION_LOAD (R74): A configuration's element records are written into an empty context and confirmed by CFGSIG. -/
  | configurationLoad (r : Nat) (x : Nat)
  /-- STEP_PLACEMENT (R393): The sequencer places the next SEQ step or an open-mode candidate into the region. -/
  | stepPlacement (r : Nat) (x : Nat)
  /-- STEP_DRAIN (R392): A finished configuration's drain token passes elements 0 to 95, discarding stranded tokens, and empties the context. -/
  | stepDrain (r : Nat) (x : Nat)
  /-- LAUNCH_COMPLETION (R28): The scheduler declares a launch complete and writes its completion record. -/
  | launchCompletion (lid : Nat)
  /-- COMPLETION_REPORT (R444): A package reports its part of a multi-package launch to the package at position 0. -/
  | completionReport (lid : Nat)
  /-- EVICTION (R412): Sources of an evictable configuration inject DRAIN and freeze. -/
  | eviction (r : Nat) (x : Nat)
  /-- EVICTION_SAVE (R412): After quiescence the configuration's state is saved and its context emptied. -/
  | evictionSave (r : Nat) (x : Nat)
  /-- RESTORE (R413): Saved state is reinstated in a granted region and frozen sources resume. -/
  | restore (lid : Nat)
  /-- QUIESCENT_POINT (R338): A region reaches 64 cycles with no firing and no beat. -/
  | quiescentPoint (r : Nat)
  /-- ACCESS_PERFORM (R265): A load or store performs at its memory node. -/
  | accessPerform (n : Nat) (lane : Nat)
  /-- KEYED_APPLY (R301): A memory node applies a placed keyed access once its key lies below every watermark. -/
  | keyedApply (n : Nat) (lane : Nat)
  /-- PORT_RETURN (R268): Returned data reaches a port's reorder buffer and is released in sequence order. -/
  | portReturn (c : Nat) (p : Nat)
  /-- STREAM_REQUEST (R276): A stream's address generator issues its next request. -/
  | streamRequest (c : Nat) (p : Nat)
  /-- SGATH_ROW_EMIT (R279): A gathered row token leaves when the output register empties. -/
  | sgathRowEmit (c : Nat) (p : Nat)
  /-- MERGE_WINDOW_CLOSE (R267): A rhizoid merge window entry closes after 32 cycles, 64 accesses or a conflicting row. -/
  | mergeWindowClose (ch : Nat) (row : Nat)
  /-- BULK_AGEING (R269): A bulk request that has waited 4,096 cycles becomes eligible for service. -/
  | bulkAgeing (n : Nat)
  /-- TILE_CLOSE_DONE (R262): An opened tile becomes ready once the stores before CLOSE have performed. -/
  | tileCloseDone (r : Nat) (t : Nat)
  /-- TILE_FREE_DONE (R262): A draining tile becomes empty once accesses before FREE have performed. -/
  | tileFreeDone (r : Nat) (t : Nat)
  /-- POOL_QUEUE_ENTRY (R185): A pool command enters its sorus queue 2 cycles after firing, stamped with GEN. -/
  | poolQueueEntry (r : Nat)
  /-- CARVE_STAGE (R191): A carve or map word at the carve queue head is appended to the staged set. -/
  | carveStage (r : Nat) (so : Nat)
  /-- COMMIT_CHECK (R191): A commit at the queue head checks the staged set and installs the new generation. -/
  | commitCheck (r : Nat) (so : Nat)
  /-- GROUP_RELEASE (R192): An old group is released once its passes have started and its entries are drained or cleared. -/
  | groupRelease (r : Nat) (so : Nat) (gid : Nat)
  /-- LEAF_JOIN (R192): Leaves join their new group 4 cycles after release, with zero stationary values. -/
  | leafJoin (r : Nat) (so : Nat) (gid : Nat)
  /-- GATHER_ROW_FETCH (R204): The gather unit fetches a tile row into a latch lane. -/
  | gatherRowFetch (r : Nat) (so : Nat) (l : Nat)
  /-- PASS_START (R202): A pass starts when rows have arrived and groups are live, pops head rows and loads or multiplies. -/
  | passStart (r : Nat) (so : Nat)
  /-- PASS_ROOT_APPLY (R208): A pass sum reaches the root and is added into an accumulator entry chain. -/
  | passRootApply (r : Nat) (so : Nat) (gid : Nat)
  /-- DRAIN_START (R214): A drain at the queue head reads entries, converts them and builds its packet or tile write. -/
  | drainStart (r : Nat) (so : Nat)
  /-- DRAIN_PACKET_EMIT (R214): A drain packet token leaves a packet buffer each time the output register empties. -/
  | drainPacketEmit (r : Nat) (so : Nat)
  /-- DRAIN_TILE_WRITE_DONE (R225): A drain's last tile write performs and the tile becomes ready. -/
  | drainTileWriteDone (r : Nat) (so : Nat)
  /-- CLEAR_START (R215): A clear at the queue head clears entries, keys or the poison flag. -/
  | clearStart (r : Nat) (so : Nat)
  /-- SORT_APPEND (R218): A PSORT at the queue head appends keys to a sort group. -/
  | sortAppend (r : Nat) (so : Nat)
  /-- SORT_EMIT (R219): A PSORTK at the queue head sorts and emits keys and indices. -/
  | sortEmit (r : Nat) (so : Nat)
  /-- COPY_QUEUE_ENTRY (R359): A COPY enters its copy queue 2 cycles after firing. -/
  | copyQueueEntry (r : Nat)
  /-- COPY_RUN (R364): A copy at its queue head checks and copies its rows. -/
  | copyRun (r : Nat) (q : Nat)
  /-- COPY_COMPLETION (R364): A copy's writes have performed; OWED falls and its token or poison is delivered. -/
  | copyCompletion (r : Nat) (q : Nat)
  /-- GENERATION_CLOSE (R367): A transaction barrier generation closes the cycle after SEALS and OWED are zero. -/
  | generationClose (r : Nat) (b : Nat)
  /-- BARRIER_INSTANCE_COMPLETE (R371): A named, global or pod barrier instance completes and its SYNC arrivals depart. -/
  | barrierInstanceComplete (b : Nat)
  /-- TRANSLATION_EVENT_ENTRY (R330): A translation event reaches the home agent and enters translation order. -/
  | translationEventEntry (n : Nat)
  /-- INVALIDATION_ACK (R336): A generator marks overlapping patch entries stale and acknowledges. -/
  | invalidationAck (n : Nat)
  /-- REPATCH (R336): The walker repatches stale entries after the table write and paused generators resume. -/
  | repatch (n : Nat)
  /-- PATCH_FETCH (R333): A generator fetches a patch entry that missed its window. -/
  | patchFetch (r : Nat) (x : Nat) (p : Nat)
  /-- DIRTY_UPDATE (R335): The generator's atomic D update performs, sets D-done and releases the held write. -/
  | dirtyUpdate (r : Nat) (x : Nat) (p : Nat)
  /-- MIGRATE_FREEZE (R340): Memory nodes of the old frame acknowledge the freeze. -/
  | migrateFreeze (n : Nat)
  /-- MIGRATE_COPY (R340): The migration engine finishes copying the frame. -/
  | migrateCopy (n : Nat)
  /-- MIGRATE_REMAP (R340): The leaf is remapped to the new frame and entries repatched. -/
  | migrateRemap (n : Nat)
  /-- MIGRATE_REPLAY (R341): Refused accesses are replayed against the new frame and the old frame retires. -/
  | migrateReplay (n : Nat)
  /-- TRANSLATION_COMPLETION (R331): A translation event completes and emits its completion token or status. -/
  | translationCompletion (n : Nat)
  /-- CFGECC_THAW (R417): The rewritten record matches its digest and the region thaws, or the launch is killed. -/
  | cfgeccThaw (r : Nat) (readable : Bool)
  /-- REPAIR_WINDOW_START (R440): A repair window starts once no launch holds a region of the frond, tests and remaps units. -/
  | repairWindowStart (f : Nat)
  /-- TRAPREC (R443): The device sends an unsolicited trap, refusal or completion record over the control port. -/
  | traprec
  /-- PACKET_DELIVERY (R384): A launch packet reaches a package scheduler and is queued or answered with BADPKT or DUPLID. -/
  | packetDelivery
  /-- DLMISS (R269): A deadline request misses its time, is served at once and logged. -/
  | dlmiss (n : Nat)
  /-- HBMUE (R415): An uncorrectable HBM error found by a rhizoid read kills the access's launch and marks the block. -/
  | hbmue (n : Nat) (lane : Nat)
  /-- POOLECC (R224): An uncorrectable soft error in pool storage stops a queue or poisons a group. -/
  | poolecc (r : Nat) (so : Nat) (q : Nat) (gid : Nat)
  /-- KILL_PROPAGATION (R416): A kill takes effect in another package, aborting collectives with COLL_ABORT. -/
  | killPropagation (lid : Nat) (code : Nat)
  /-- CFGECC (R417): An uncorrectable configuration-store error freezes the region and starts a reload. -/
  | cfgecc (c : Nat)
  /-- STATEECC (R418): An uncorrectable soft error in dynamic state kills the owning launch. -/
  | stateecc (c : Nat)
  /-- ATTEST_QUOTE_DONE (R439): The trust engine writes the quote and ATTEST's result is delivered. -/
  | attestQuoteDone
  /-- PTP_SYNC (R449): A 1588 Sync message is received and the counter offset measured. -/
  | ptpSync (off : Int)
  /-- LOCKED_ENTRY (R449): After 64 Sync intervals within 8 ns the package enters LOCKED. -/
  | lockedEntry
  /-- HOLDOVER_ENTRY (R449): After 16 intervals with no Sync the package enters HOLDOVER. -/
  | holdoverEntry
  /-- FABRIC_FLIT (R448): A fabric flit is received and routed by its destination package. -/
  | fabricFlit (dst : Nat) (m : FabMsg)
  /-- POWER_ON (R451): Rails rise in order with reset held. -/
  | powerOn
  /-- FIRMWARE_VERIFY (R435): The trust engine derives its identity and verifies the firmware. -/
  | firmwareVerify
  /-- HBM_TRAINING (R447): HBM training and lane repair complete. -/
  | hbmTraining (ok : Bool)
  /-- VAULT_ROW_TEST (R451): The vault row test completes. -/
  | vaultRowTest (ok : Bool)
  /-- UCIE_TRAINING (R446): UCIe edges train with lane repair. -/
  | ucieTraining (ok : Bool)
  /-- FABRIC_TRAINING (R451): Fabric training completes after SETPKG. -/
  | fabricTraining (ports : BitVec 48)
  /-- REGION_RELEASE (R451): Regions are released and the device enters RUN. -/
  | regionRelease
  /-- IDENT (R443): Returns device identity and states. -/
  | ident (fr : Frame)
  /-- FWLOAD (R435): Verifies a firmware image for the next reset. -/
  | fwload (fr : Frame) (img : List Byte)
  /-- RESET (R443): Full reset restarting bring-up at step 2. -/
  | reset (fr : Frame)
  /-- SETPKG (R443): Sets the pod package id. -/
  | setpkg (fr : Frame) (id : Nat)
  /-- ROUTE (R448): Sets the fabric route table. -/
  | route (fr : Frame) (ents : List Nat)
  /-- TMASTER (R449): Names the pod's 1588 time master. -/
  | tmaster (fr : Frame) (id : Nat)
  /-- SYSLOAD (R445): Loads a system image into context S of named regions. -/
  | sysload (fr : Frame) (pa : Nat) (len : Nat) (asid : Nat) (flags : Nat) (regs : Nat)
  /-- SUBMIT (R444): Delivers a launch packet to a list of packages. -/
  | submit (fr : Frame) (pkgs : List Nat) (asid : Nat) (pkt : List Byte)
  /-- RESUME (R443): Control-port form of TRET: resume, skip or kill a context. -/
  | resume (fr : Frame) (src : Nat) (act : Nat)
  /-- KILL (R414): Kills a launch by LID with code KILLCMD. -/
  | kill (fr : Frame) (lid : Nat)
  /-- MEMRD (R443): Reads host-visible memory. -/
  | memrd (fr : Frame) (pa : Nat) (len : Nat)
  /-- MEMWR (R443): Writes host-visible memory, acknowledged once performed. -/
  | memwr (fr : Frame) (pa : Nat) (bytes : List Byte)
  /-- KEYADD (R434): Enrols a customer public key. -/
  | keyadd (fr : Frame) (key : List Byte)
  /-- KEYDEL (R434): Removes a customer public key. -/
  | keydel (fr : Frame) (keyid : List Byte)
  /-- KSNEW (R436): Creates a memory key slot for an ASID. -/
  | ksnew (fr : Frame) (asid : Nat)
  /-- KSDEL (R436): Deletes a memory key slot that no leaf names. -/
  | ksdel (fr : Frame) (slot : Nat)
  /-- QUOTE (R439): Returns a signed quote for a nonce and LID. -/
  | quote (fr : Frame) (nonce : List Byte) (lid : Nat)
  /-- MANIF (R438): Returns the present manifest. -/
  | manif (fr : Frame) (lid : Nat)
  /-- RMAP (R443): Returns a repair map. -/
  | rmap (fr : Frame) (n : Nat)
  /-- REPAIR (R440): Requests a repair window for a frond. -/
  | repair (fr : Frame) (f : Nat) (evict : Bool)
  /-- BADFRAME (R442): A control-port frame arrives with a wrong MAGIC or CRC and is dropped, or with a bad field or an unknown command and is answered BADFRAME or BADSTATE with no effect. -/
  | badframe (port : Nat) (bytes : List Byte)
  /-- CONTROL_PORT_LINK_CHANGE (R443): The primary control-port link goes down or comes back up, which moves unsolicited frames between the primary and redundant ports. -/
  | controlPortLinkChange (up : Bool)
  /-- CORE_CURRENT_PEAK (R450): The core current nears its peak and the package begins, or later stops, stretching arithmetic-clock cycles. -/
  | coreCurrentPeak (on : Bool)
  /-- SYNC_TRANSMIT (R449): At each Sync interval (128 per second) the time master, and each boundary clock, sends a one-step Sync message over the fabric ports. -/
  | syncTransmit
  deriving DecidableEq, Repr

end Sys2Proof
end

