-- ==== Sys2Proof/Machine/State.lean ====
section
/-! DEFINITION. The state of one AQ-7716 package and of the memory that is addressable from it, as plain data: every
register, queue, table and counter the manual names, the firing in hand, and what moves next in the cycle. Numbering:
a region is 16 × frond + region (R14); a context is region × 1024 + element × 8 + context, the low 18 bits of its source
number (R29); an element is region × 128 + element. A table entry that is absent has the value after load or reset. -/

namespace Sys2Proof.Machine

/-- Why the machine stops with a fault. No meaning of an instruction raises one: every trap, poison, stop and kill of
the manual is a next state. -/
inductive Fault where
  /-- Raised by no rule of the manual; kept so that the type of the outcome is inhabited. Safe. -/
  | stuck
  deriving DecidableEq, Repr

/-- Why the model gives a step no meaning. -/
inductive Refusal where
  /-- The arm of the dispatcher has no meaning yet. Safe. -/
  | notModelled (mnemonic : String)
  /-- The slot selected holds an assigned opcode with an operand field that R39, R50 and the encoding tables refuse, so
  the loader would never have placed it (R51) and the manual gives it no effect. Raised by the step. Safe. -/
  | illFormed (w : BitVec 32)
  deriving DecidableEq, Repr

/-! ### Tokens and results -/

/-- A token: its header (R83, R84), its lanes (R85), and what travels beside the beats: the DEP bit (R356), the emitting
context and its count of issued stores (R311). -/
structure Token where
  kind : BitVec 3 := 0
  tag : BitVec 4 := 0
  ctx : BitVec 2 := 0
  sys : Bool := false
  sc : Bool := false
  scalar : Dword := 0
  mask : Mask := 0
  psrc : BitVec 29 := 0
  pcount : BitVec 48 := 0
  pcode : BitVec 8 := 0
  lanes : Vec := ⟨[]⟩
  dep : Bool := false
  emitter : Nat := 0
  stores : Nat := 0
  deriving DecidableEq, Repr

/-- One part of a result that takes effect at its writeback (R80). -/
inductive Eff where
  /-- Lanes of vk under a mask. -/
  | vec (k : Nat) (m : Mask) (v : Vec)
  /-- xk. -/
  | sreg (k : Nat) (w : Dword)
  /-- A predicate. -/
  | pred (k : Nat) (b : Bool)
  /-- A token on outk. -/
  | emit (k : Nat) (t : Token)
  /-- The lane-valid mask. -/
  | mask (m : Mask)
  /-- Flags raised in FSTAT (R147). -/
  | flags (f : BitVec 32)
  /-- An output tag. -/
  | otag (k : Nat) (t : BitVec 4)
  deriving DecidableEq, Repr

/-- A firing's result that has not been written back: what it reserves (R77 conditions 4 to 6, R81, R116) and, once it is
known, the cycle at whose end it is written and its parts. -/
structure Pend where
  id : Nat
  due : Option Nat
  vs : List Nat
  xs : List Nat
  ps : List Nat
  os : List Nat
  effs : List Eff
  deriving DecidableEq, Repr

/-- Why a context is not a candidate for a while. -/
inductive Wait where
  | none
  /-- IDLE: a candidate again from this cycle on (R100). -/
  | idle (cycle : Nat)
  /-- Resumed by TRET: a candidate again from this cycle on (R423). -/
  | resumed (cycle : Nat)
  /-- TIMEW: waits for the counter to reach a target; the result number (R377). -/
  | timew (target : Dword) (pend : Option Nat)
  /-- Stopped before its decision point (R93): the slot, and the address whose page it waits for, or none if it is tried in every cycle. -/
  | held (slot : Nat) (va : Option Nat)
  deriving DecidableEq, Repr

/-- Trap state: the slot that trapped or broke, and whether it was a break (R92, R113, R423). -/
structure TrapState where
  slot : Nat
  brk : Bool
  deriving DecidableEq, Repr

/-- The state of a slot of GATE, ZIPT, ISECT, UNION, FIBRE, PACKV or SPLITV (R228): each uses the fields its entry
names. -/
structure SlotState where
  rem : Nat := 0
  loaded : Bool := false
  pending : Bool := false
  side : Bool := false
  cur : Nat := 0
  ord : Nat := 0
  ca : Nat := 0
  cb : Nat := 0
  pa : Nat := 0
  pb : Nat := 0
  la : Nat := 0
  lb : Nat := 0
  ha : Bool := false
  hb : Bool := false
  buf : List Word := []
  deriving DecidableEq, Repr

/-- The counter chain of a context (R130); a stream port's generator counts with one as well (R276). A pending item is
a MARK level, or 8 for EOS. Before the first CCHAIN.TOP the level count `n` stands at 1 and E, C and LI at 0 (log entry 3). -/
structure Chain where
  se : List Nat := [0, 0, 0, 0, 0, 0, 0, 0]
  e : List Nat := [0, 0, 0, 0, 0, 0, 0, 0]
  c : List Nat := [0, 0, 0, 0, 0, 0, 0, 0]
  n : Nat := 1
  li : Nat := 0
  pending : List Nat := []
  armed : Bool := false
  spent : Bool := false
  deriving DecidableEq, Repr

/-- An issue point (R300, R301): whether the configuration uses it, the last key it sent, its request number, the
successor floor of its last request, and the cycles of its last read and of its last write, each also with 40 for every UCIe link it crosses
(R312). -/
structure IssuePoint where
  live : Bool := false
  last : Option Dword := none
  reqs : Nat := 0
  floor : Nat := 0
  readAt : Option Nat := none
  wroteAt : Option Nat := none
  readFar : Nat := 0
  wroteFar : Nat := 0
  deriving DecidableEq, Repr

/-- What a stream port runs (R275). -/
inductive PortMode where
  | idle
  | read
  | write
  | gath
  deriving DecidableEq, Repr

/-- A token of a port's buffer: the requests whose data it still awaits, and whether more of them are still to be made (R264). -/
structure PortTok where
  tok : Token
  reqs : List Nat := []
  more : Bool := false
  deriving DecidableEq, Repr

/-- A stream port of an M-strip context (R263, R275 to R279): its mode and class, the descriptor, the generator's
counters, its buffer, the element position of a write stream, the SGATH in progress (output, result, rows to request),
the next sequence number (R268), the firing count of the SPORT, the cycle of its first request (R286), and the lanes and addresses of its
last token that no request covers yet (R264). -/
structure SPort where
  mode : PortMode := .idle
  bulk : Bool := false
  offset : Nat := 0
  counts : List Nat := []
  strides : List Int := []
  roww : Nat := 0
  chain : Chain := {}
  buf : List PortTok := []
  pos : Nat := 0
  gath : Option (Nat × Nat) := none
  rows : List Int := []
  todo : List (Nat × Nat) := []
  seq : Nat := 0
  firing : Nat := 0
  start : Nat := 0
  key : Dword := 0
  frozen : Bool := false
  draining : Bool := false
  deriving DecidableEq, Repr

/-- The registers of a context (R17, R99, R147, R299, R370). -/
structure Regs where
  v : SMap Vec := []
  x : SMap Dword := []
  p : BitVec 128 := 0
  mask : Mask := 0
  otag : SMap (BitVec 4) := []
  kr : Dword := 0
  fstat : BitVec 32 := 0
  fcount : BitVec 48 := 0
  seen : SMap (BitVec 32) := []
  rp : Nat := 0
  deriving DecidableEq, Repr

/-- The channels of a context (R86, R232, R234, R255). -/
structure Chans where
  inb : SMap (List Token) := []
  outr : SMap Token := []
  deqd : SMap (BitVec 16) := []
  emtd : SMap (BitVec 16) := []
  stall : SMap Nat := []
  deriving DecidableEq, Repr

/-- Whether and when a context may fire (R76, R82, R92, R100, R101); while CFGLD reloads its record it is no candidate before a cycle
(R429); the cycle at whose end a LAUNCH under way has read its packet (R396). -/
structure Ctl where
  released : Bool := false
  halted : Bool := false
  trap : Option TrapState := none
  wait : Wait := .none
  starve : Nat := 0
  reload : Nat := 0
  readAt : Option Nat := none
  deriving DecidableEq, Repr

/-- One context of one element. `fenceMark` is the number of the next request when it last fired a release at lane or elem (R289). -/
structure Ctx where
  slots : List Word := []
  rules : List RuleEntry := []
  regs : Regs := {}
  ch : Chans := {}
  ctl : Ctl := {}
  chain : Chain := {}
  slotSt : SMap SlotState := []
  sinkCnt : SMap Nat := []
  sinkDone : SMap Bool := []
  pend : List Pend := []
  stIssued : Nat := 0
  points : SMap IssuePoint := []
  ports : SMap SPort := []
  drained : SMap Bool := []
  fenceMark : Nat := 0
  deriving DecidableEq, Repr

/-- What the contexts of an element share: the busy ends of the divider, the special-function unit and the SM4 unit
(R128, R162, R379), the context each link served last, and the cycle until which each link moves beats (R86). -/
structure Elem where
  divBusy : Option Nat := none
  sfuBusy : Option Nat := none
  sm4Busy : Option Nat := none
  rr : SMap Nat := []
  link : SMap Nat := []
  deriving DecidableEq, Repr

/-! ### Links -/

/-- A token on its way to a consumer (R87): the consumer's context and input, the first cycle in which it may become a
head, the producer, and for a multicast its place in the channel's order. -/
structure Flight where
  id : Nat
  src : Nat
  out : Nat
  dst : Nat
  inp : Nat
  at_ : Nat
  tok : Token
  multi : Bool
  deriving DecidableEq, Repr

/-- A multicast channel's counts of tokens taken, by consumer (R232). -/
structure Fan where
  src : Nat
  out : Nat
  taken : SMap Nat
  sent : Nat
  deriving DecidableEq, Repr

/-- A wire of a resident configuration (R64). -/
structure Wire where
  selem : Nat
  sout : Nat
  delem : Nat
  din : Nat
  multi : Bool
  deriving DecidableEq, Repr

/-! ### Address generators and residents -/

/-- The outcome a patch entry records (R332). -/
inductive Patch where
  /-- A present frame: base of the page's frame, RD, WR, USR, SP, KSLOT. -/
  | frame (base : Nat) (rd wr usr sp : Bool) (kslot : Nat)
  /-- The leaf is smaller than the port's page size. -/
  | pg
  /-- Not present. -/
  | np
  deriving DecidableEq, Repr

/-- A patch entry with its D-done, stale and held marks (R335, R336, R351), and whether ADREAD.CLRA left it to be
repatched at its next fetch (R352). -/
structure PatchEntry where
  p : Patch
  dDone : Bool := false
  stale : Bool := false
  held : Bool := false
  lazy : Bool := false
  deriving DecidableEq, Repr

/-- An address generator: a port's binding (R66), its patch table by page (R332), the window of fetched entries, and the cycle at whose end
the entries it fetches are there (R333). Where it stops on a page that is not present (R337), the request at its head says so. -/
structure Gen where
  page : Nat
  access : Nat
  base : Nat
  extent : Nat
  table : SMap PatchEntry
  window : List Nat := []
  fetchAt : Option Nat := none
  deriving DecidableEq, Repr

/-- An element record as the image holds it (R63). -/
structure ElemRec where
  elem : Nat
  preds : BitVec 128
  mask : Mask
  slots : List Word
  rules : List RuleEntry
  deriving DecidableEq, Repr

/-- A tile record (R65). -/
structure TileRec where
  tile : Nat
  state : Nat
  offset : Nat
  bytes : Nat
  deriving DecidableEq, Repr

/-- A configuration of an image (R62). -/
structure Cfg where
  num : Nat
  route : Bool
  window : Nat
  homectx : Nat
  elems : List ElemRec
  wires : List Wire
  tiles : List TileRec
  deriving DecidableEq, Repr

/-- A PORT entry (R66). -/
structure PortRec where
  cfg : Nat
  pinna : Nat
  sport : Nat
  page : Nat
  access : Nat
  param : Bool
  base : Nat
  extent : Nat
  deriving DecidableEq, Repr

/-- A SEQ step (R67). -/
structure SeqStep where
  step : Nat
  cfg : Nat
  region : Nat
  when_ : Nat
  deriving DecidableEq, Repr

/-- A DATA record (R68). -/
structure DataRec where
  param : Bool
  region : Nat
  where_ : Nat
  bytes : List Byte
  off : Nat
  deriving DecidableEq, Repr

/-- An image that the loader has read and checked (R59 to R71): its id, parts, stored manifest and signed digest. -/
structure Image where
  id : Dword
  cfgs : List Cfg
  ports : List PortRec
  seq : List SeqStep
  data : List DataRec
  mani : List Byte
  digest : List Byte
  deriving DecidableEq, Repr

/-- Where a resident stands: being written, running, finished, draining (the element the drain token has reached; R392), being
evicted. -/
inductive ResPhase where
  | loading (done : Nat)
  | running
  | finished
  | draining (at_ : Nat)
  | evicting
  deriving DecidableEq, Repr

/-- A tag of the ordered window (R90): issued, and whether it has been freed behind an older one. -/
structure TagSlot where
  tag : BitVec 4
  freed : Bool
  deriving DecidableEq, Repr

/-- A resident configuration of a region's context: launch (0 for a system configuration), address space, mode, the
configuration, the place of its step in the region's sequence and its number, whether it was placed as a candidate, its generators by 4 × pinna + port, the tag allocator with the
cycle tags last left its window in and how many (R78, R90), the recorded choice (R398), and the
store-acknowledgement count (R265). -/
structure Resident where
  lid : Nat
  asid : Nat
  keyed : Bool
  g : Nat
  cfg : Cfg
  pos : Nat
  step : Nat
  pick : Bool
  gens : SMap Gen
  nextTag : BitVec 4 := 0
  tags : List TagSlot := []
  gone : Nat × Nat := (0, 0)
  choice : Option Nat := none
  stAck : Nat := 0
  phase : ResPhase := .running
  deriving DecidableEq, Repr

/-! ### Regions -/

/-- A trap record (R407). -/
structure Rec where
  code : Nat
  kind : Nat
  slot : Nat
  flags : Nat
  source : Nat
  fcount : Nat
  time : Dword
  lid : Nat
  asid : Nat
  seq : Nat
  addr : Nat
  key : Dword
  detail : Nat
  detail2 : Nat
  deriving DecidableEq, Repr

/-- A record on its way into a region's queue: the cycle of its cause, and the context it waits in when it is a precise
trap or a break. -/
structure RecIn where
  cycle : Nat
  rec_ : Rec
  deriving DecidableEq, Repr

/-- A context's poison sink in its region (R410). -/
structure Sink where
  poison : Nat := 0
  stranded : Nat := 0
  origin : Option (BitVec 29 × BitVec 8 × BitVec 48) := none
  deriving DecidableEq, Repr

/-- An arrival of .SYNC that has not departed: its context, its result, whether it departs on an output (and its tag), and the number of its
firing. -/
structure Arrival where
  cid : Nat
  pend : Option Nat
  out : Option (Nat × BitVec 4)
  fcount : BitVec 48
  deriving DecidableEq, Repr

/-- A named, package or pod barrier (R371): the launch that claimed it, instances completed, the count of the open
instance, its arrivals, whether a count breached, and the cycle its departures are due once it is complete. -/
structure Barrier where
  owner : Option Nat := none
  inst : Nat := 0
  count : Nat := 0
  arrived : Nat := 0
  bad : Bool := false
  syncs : List Arrival := []
  leaving : List (Nat × Nat × Bool × List Arrival) := []
  deriving DecidableEq, Repr

/-- A transaction barrier (R367), with the record of which of the last generations closed with POIS set and whether a close
is due. -/
structure TBar where
  gen : Nat := 0
  nseal : Nat := 0
  seals : Nat := 0
  owed : Int := 0
  pois : Bool := false
  owner : Option Nat := none
  poisGens : List Nat := []
  deriving DecidableEq, Repr

/-- The states of a tile (R262). -/
inductive TileState where
  | empty
  | filling
  | opened
  | ready
  | draining
  deriving DecidableEq, Repr

/-- What waits at a tile's table entry (R262): an operation of TILEQ (1 OPEN, 2 CLOSE, 3 FREE), the request of a TILEST, a drain or a copy
into the tile by its command's number, or a PGATHER by its command's number. -/
inductive TileWait where
  | op (o : Nat)
  | store (req : Nat)
  | drain (id : Nat)
  | copy (id : Nat)
  | gather (id : Nat)
  deriving DecidableEq, Repr

/-- A tile-table entry (R261): its owner context, place, state, the firings that hold it ready (R262), the request number before which
accesses must perform for a CLOSE or a FREE that waits, and what waits at the table, in its order. -/
structure Tile where
  owner : Nat
  offset : Nat
  bytes : Nat
  st : TileState
  holders : Nat := 0
  mark : Option Nat := none
  waitq : List TileWait := []
  deriving DecidableEq, Repr

/-- An allocation of V-space (R259, R282): the vault, place, the configuration that holds it (launch, region, configuration
number), and, once freed or retired, the request and copy marks its bytes wait for and the result RETIRE owes. -/
structure Alloc where
  id : Nat
  vault : Nat
  offset : Nat
  bytes : Nat
  lid : Nat
  region : Nat
  cfg : Nat
  freed : Option Nat := none
  retired : Bool := false
  owes : Option (Nat × Nat × Nat × BitVec 4) := none
  deriving DecidableEq, Repr

/-- A copy command (R362): the firing that issued it, its descriptor, its progress, the cycle its present piece came up, and its result. -/
structure CopyCmd where
  cid : Nat
  fcount : Nat
  key : Dword
  reqs : Nat
  d : BitVec 384
  tb : Option Nat
  bulk : Bool
  pend : Option Nat
  out : Option (Nat × BitVec 4)
  lid : Nat
  cfg : Nat
  row : Nat := 0
  piece : Nat := 0
  result : Option (BitVec 8) := none
  finished : Bool := false
  dropTok : Bool := false
  cut : Bool := false
  arrives : Nat := 0
  id : Nat := 0
  q : Nat := 0
  since : Nat := 0
  deriving DecidableEq, Repr

/-- A copy queue (R359, R360): its commands, the count of commands completed, the stop code, and the stopped mark of its
generator. -/
structure CopyQ where
  cmds : List CopyCmd := []
  done : Nat := 0
  stop : Option Nat := none
  qstop : Bool := false
  reported : Option Nat := none
  deriving DecidableEq, Repr

/-! ### Pool -/

/-- An exact term of a sum: sign, magnitude and power of two (R206). -/
structure Term where
  neg : Bool
  mag : Nat
  exp : Int
  deriving DecidableEq, Repr

/-- A row of a latch lane (R195): the number of its PGATHER among the node's operand commands, whether it has arrived, its width in
chunks, format, block code, ENTRY, poison code, and its elements' encodings and scales, lowest first. -/
structure LatchRow where
  num : Nat
  here : Bool
  width : Nat
  fmt : Nat
  blk : Nat
  entry : Nat
  code : Nat
  elems : List Nat
  scales : List Nat
  deriving DecidableEq, Repr

/-- A row the gather unit has yet to bring in (R201, R204): its command, the sorus and lane it goes to, its PGATHER's number, its place in its tile,
its index word, the firing and its key, what completes with the last row, and the cycle it is in the latch once its fetch has started. -/
structure GatherRow where
  id : Nat
  fcount : Nat
  so : Nat
  lane : Nat
  num : Nat
  tile : Nat
  col : Nat
  width : Nat
  ix : Word
  cid : Nat
  last : Bool
  pend : Option Nat
  out : Option (Nat × BitVec 4)
  key : Dword
  reqs : Nat
  due : Option Nat := none
  deriving DecidableEq, Repr

/-- An accumulator entry (R208): chains, pass count and flags, and whether it has been accumulated since its last read or
clear (R192). -/
structure AccEntry where
  chain0 : Word := 0
  chain1 : Word := 0
  pc : BitVec 32 := 0
  flags : BitVec 32 := 0
  owed : Bool := false
  deriving DecidableEq, Repr

/-- What a part sends to the root for one pass (R202): nothing, a poison code, or its products for an entry: whether one is NaN, whether
invalid was raised, the infinities, whether every product is −0, and its terms. -/
inductive Send where
  | hole
  | flag (code : Nat)
  | prods (entry : Nat) (nan inv posInf negInf allNegZero : Bool) (ts : List Term)
  deriving DecidableEq, Repr

/-- A part's contribution to a pass, waiting at the root: the sorus it comes from (region × 4 + sorus), its operand command there, the
cycle it reaches the root. -/
structure PassPart where
  node : Nat
  num : Nat
  due : Nat
  send : Send
  deriving DecidableEq, Repr

/-- A group's part of a carving (R189 to R194): its word, the generations it belongs to (first, and last once it is old), whether
it is released, the cycle its leaves join and whether they have, its stationary values by leaf (elements and scales), passes run,
poison code, entries, sort keys, and the contributions that wait at the root by pass number. -/
structure Group where
  word : Dword
  gFrom : Nat
  gTo : Option Nat := none
  released : Bool := false
  joinAt : Option Nat := none
  joined : Bool := false
  stat : SMap (List Nat × List Nat) := []
  npass : Nat := 0
  poison : Nat := 0
  entries : SMap AccEntry := []
  keys : List Word := []
  sends : SMap (List PassPart) := []
  deriving DecidableEq, Repr

/-- What a pool command is: a PISSUEX carries its lane. -/
inductive PoolOp where
  | carve (w : Dword)
  | map (w : Dword)
  | commit
  | gather (lane : Nat) (rows : List GatherRow)
  | issue (load : Bool) (ex : Option Nat) (n : Nat)
  | drain (desc : Dword) (clr : Bool) (tile : Bool) (gid : Nat)
  | clear (w : Dword) (gid : Nat)
  | sort (keys : List Word) (gid : Nat)
  | sortk (idx : Bool) (desc : Bool) (gid : Nat)
  deriving DecidableEq, Repr

/-- A queued or travelling pool command: its number, the firing and its key, the sori it goes to and the cycle it enters, its generation stamp
(R188), its number among the node's operand commands (for a drain-queue command, how many entered before it; R187), its result, progress
(R223), the cycle it started, and the values and flags a drain has read. -/
structure PoolCmd where
  id : Nat
  op : PoolOp
  cid : Nat
  fcount : Nat
  key : Dword
  reqs : Nat
  sori : List Nat
  arrives : Nat
  stamp : Nat := 0
  num : Nat := 0
  pend : Option Nat := none
  out : Option (Nat × BitVec 4) := none
  prog : Nat := 0
  startAt : Option Nat := none
  got : List Word := []
  fl : BitVec 32 := 0
  deriving DecidableEq, Repr

/-- A queue of a sorus node (R185, R223, R224): its commands, the count completed, a stop code, and whether QSTOP stopped
it. -/
structure PoolQ where
  cmds : List PoolCmd := []
  done : Nat := 0
  stop : Option Nat := none
  qstop : Bool := false
  deriving DecidableEq, Repr

/-- Tokens on their way out of a node (R214, R219): the context, output and result, the tokens left, the cycle of the first, and whether
the drain queue waits for them. -/
structure Packet where
  cid : Nat
  out : Nat
  pend : Option Nat
  toks : List Token
  due : Nat
  holds : Bool
  deriving DecidableEq, Repr

/-- An operand command that has not completed (R202): its numbers, the passes not yet applied at their roots, whether all have started, and
the cycle before which it does not complete. -/
structure OpRun where
  num : Nat
  id : Nat
  left : Nat
  started : Bool
  until_ : Nat
  deriving DecidableEq, Repr

/-- A command's completion token that waits for its sori (R199, R202): how many are left, and for a commit each sorus's status and
generation. -/
structure PoolWait where
  id : Nat
  left : Nat
  cid : Nat
  pend : Option Nat
  out : Option (Nat × BitVec 4)
  commit : Bool
  results : List (Nat × Nat × Nat) := []
  deriving DecidableEq, Repr

/-- A drain's write to its tile on the way (R214): the tile, the bytes, the cycle it performs, and the token it owes. -/
structure TileWrite where
  cid : Nat
  tile : Nat
  bytes : List Byte
  due : Nat
  pend : Option Nat
  out : Option (Nat × BitVec 4)
  deriving DecidableEq, Repr

/-- A sorus node (R185 to R195): owner and keyed issuers, GEN, the status of the last commit, the queues, the staged set, the generation
installed, whether a carving was ever committed, map words by generation, the parts of the current and the older carving, the latch, what
is on its way out, operand commands entered and not complete, the count of saves, and whether ownership ends with the older carving
(R186). -/
structure Node where
  owner : Option Nat := none
  issuer : SMap Nat := []
  gen : Nat := 0
  lstat : Nat := 0
  cq : PoolQ := {}
  oq : PoolQ := {}
  dq : PoolQ := {}
  staged : List Dword := []
  stagedMaps : List Dword := []
  installed : Nat := 0
  everCommitted : Bool := false
  maps : SMap (List Dword) := []
  groups : List Group := []
  latch : SMap (List LatchRow) := []
  packets : List Packet := []
  tileWrites : List TileWrite := []
  runs : List OpRun := []
  opsIn : Nat := 0
  passFree : Nat := 0
  saves : Nat := 0
  ending : Bool := false
  deriving DecidableEq, Repr

/-- A read of a node's state (R200, R223) by a firing of the last cycle: 0 .NODE, 1 .GROUP, 2 .LATCH, 3 + q a queue. -/
structure Probe where
  cid : Nat
  pend : Nat
  x : Nat
  so : Nat
  sel : Nat
  gid : Nat
  deriving DecidableEq, Repr

/-! ### Regions, continued -/

/-- A region (R14): its control registers, watchdog (its count; whether an access completed, or an element fired or a beat moved, in the
present cycle; the completions counted at the last tick; R95) and cycles of quiet (R338), snapshot (R96), trap queue, sinks, barriers, tiles, copy node, sorus nodes, gather
unit, residents, what the scheduler last ranked (context, launch, effective priority; R390, R411), and the sinks and tiles as they stood
when the cycle began, which a firing of the cycle sees (R7). -/
structure Region where
  rfctl : Dword := 0x0001000080001B00#64
  mcctl : Dword := 0x0000000100010000#64
  wdCount : Nat := 0
  progress : Bool := false
  moved : Bool := false
  dones : Nat := 0
  quiet : Nat := 0
  snap : List (List Byte) := []
  trapQ : List Rec := []
  trapIn : List RecIn := []
  trapOut : List (Nat × Rec) := []
  lost : Nat := 0
  recSeq : Nat := 0
  sinks : SMap Sink := []
  nbar : SMap Barrier := []
  tbs : SMap TBar := []
  tiles : SMap Tile := []
  copyQ : SMap CopyQ := []
  copyIn : List CopyCmd := []
  poolIn : List PoolCmd := []
  nodes : SMap Node := []
  gather : List GatherRow := []
  waits : List PoolWait := []
  probes : List Probe := []
  res : SMap Resident := []
  ranked : List (Nat × Nat × Nat) := []
  freeze : Option (Nat × Nat) := none
  withdrawn : Bool := false
  sinksSeen : SMap Sink := []
  tilesSeen : SMap Tile := []
  ctlLater : List (Nat × Nat × Dword) := []
  deriving DecidableEq, Repr

/-! ### Memory requests -/

/-- What one access does at its node. -/
inductive AccOp where
  | rd
  | wr (v : Nat)
  /-- An atomic of R317: opcode, SUB and operand. -/
  | atom (op : Nat) (sub : Nat) (b : Nat)
  | cas (e : Nat) (n : Nat)
  | wadd (b : Nat)
  deriving DecidableEq, Repr

/-- Where one access stands: still at its port, on its way, placed at its node (keyed), performed, or discarded. -/
inductive AccSt where
  | wait
  | flight
  | placed
  | done
  | dropped
  deriving DecidableEq, Repr

/-- One access: its lane, its address as the program gave it, its size, its physical place once translated, what it does,
where it stands, the value read, the cycle from which it may perform, the key slot of its leaf, the poison code it met, and whether a
freeze returned it after it had performed (R341). -/
structure Acc where
  lane : Nat
  va : Nat
  size : Nat
  pa : Option Nat := none
  op : AccOp
  st : AccSt := .wait
  val : Nat := 0
  due : Nat := 0
  kslot : Nat := 0
  code : Nat := 0
  kept : Bool := false
  deriving DecidableEq, Repr

/-- How a request's result is delivered. -/
inductive Deliver where
  | none
  | vreg (k : Nat)
  | vout (k : Nat) (tag : BitVec 4)
  | sreg (k : Nat)
  | sout (k : Nat) (tag : BitVec 4)
  | pair (k : Nat)
  | dep (k : Nat) (tag : BitVec 4)
  /-- A token of a stream port's buffer. -/
  | port
  deriving DecidableEq, Repr

/-- A memory request (R263, R268, R299, R300): the firing that issued it, its port (0-3, 4 the vault path, 5 the save path), its accesses,
its key and extended key, class (0 normal, 1 bulk, 2 deadline; R269) and delivery, the scope a release waits at, the tile it fills, whether
it is an acquire, the number of stores its context had issued before it, whether a running stream made it, the pages whose entries have been fetched for it (R333), and
whether its stores have performed and been delivered, so that only their application is left (R301), and the earlier requests of its element
that a release at lane or elem keeps before it (R289). -/
structure Req where
  id : Nat
  cid : Nat
  port : Nat
  vspace : Bool
  accs : List Acc
  deliver : Deliver
  pend : Option Nat
  fcount : Nat
  lid : Nat
  keyed : Bool
  key : Dword
  ext : Nat
  cls : Nat
  release : Option Nat
  tile : Option Nat
  seq : Nat
  cycle : Nat
  issued : Bool
  stopped : Bool
  reported : Option Nat
  acquire : Bool
  serial : Nat
  stream : Bool := false
  fetched : List Nat := []
  settled : Bool := false
  behind : List Nat := []
  deriving DecidableEq, Repr

/-- What a vault bank or a rhizoid unit serves (R257, R324): the request and the line of its present cycle, and the last cycle it is busy. -/
structure Service where
  until_ : Nat
  req : Nat
  line : Nat
  deriving DecidableEq, Repr

/-- An open row of an HBM bank, and how many row hits in a row its channel has served (R269). -/
structure OpenRow where
  ch : Nat
  bank : Nat
  row : Nat
  hits : Nat
  deriving DecidableEq, Repr

/-- An open entry of a rhizoid unit's merge window (R267). -/
structure MergeEntry where
  ch : Nat
  bank : Nat
  row : Nat
  opened : Nat
  cols : Nat
  deriving DecidableEq, Repr

/-! ### Translation -/

/-- The kinds of translation instruction (R330, R344). -/
inductive XKind where
  | map (kind level : Nat)
  | unmap (kind level : Nat)
  | protect (level : Nat) (usr wr rd : Bool)
  | migrate (level : Nat)
  | xinval (o : Nat)
  | adread (level : Nat) (clrd clra : Bool)
  | xprobe
  | xsync
  deriving DecidableEq, Repr

/-- The stages of an event at its home agent. -/
inductive XStage where
  /-- On its way to the agent, from the cycle it arrives. -/
  | sent (at_ : Nat)
  /-- In translation order, waiting for earlier overlapping events. -/
  | queued
  /-- Invalidations (for MIGRATE also the freeze) sent; the cycle from which they may be acknowledged. -/
  | inval (at_ : Nat)
  /-- Acknowledged; the table write and the repatch follow. -/
  | acked (at_ : Nat)
  /-- MIGRATE: frozen, the copy may run. -/
  | frozen (at_ : Nat)
  /-- MIGRATE: copied. -/
  | copied (at_ : Nat)
  /-- MIGRATE: remapped; repatched, and replaying, from that cycle on. -/
  | replay (at_ : Nat)
  /-- Repatched, waiting for R339. -/
  | settle (at_ : Nat)
  /-- Complete but for its token. -/
  | done (at_ : Nat)
  deriving DecidableEq, Repr

/-- A translation event (R330, R345): of a context of this package or of another (package, context and tag of the answer), or, away, one that
another package's home agent serves; the packages whose generators have still to answer, and the word the answer brought. -/
structure Xev where
  id : Nat
  cid : Nat
  asid : Nat
  kind : XKind
  va : Nat
  arg : Nat
  pend : Option Nat
  out : Option (Nat × BitVec 4)
  stage : XStage
  status : Nat := 0
  level : Nat := 0
  result : Nat := 0
  leafAt : Nat := 0
  oldBase : Nat := 0
  mark : Nat := 0
  origin : Option (Nat × Nat × Nat) := none
  away : Bool := false
  acks : List Nat := []
  answer : Option Nat := none
  deriving DecidableEq, Repr

/-- An answer this package owes to another's translation event: it leaves once every access through the range that was on its way has come to
rest (R339), those of a request before `mark`, or writes alone for ADREAD (R352). -/
structure OwedAck where
  event : Nat
  src : Nat
  asid : Nat
  lo : Nat
  len : Nat
  mark : Nat
  writes : Bool
  deriving DecidableEq, Repr

/-- The translation state of the package (R325, R329, R342, R351), with the packages that hold an ASID of its home agent (R336) and the
answers it owes. -/
structure Xlat where
  xroot : SMap Nat := []
  tableGran : SMap Nat := []
  evs : List Xev := []
  retired : List (Nat × Nat) := []
  sharers : SMap (List Nat) := []
  owed : List OwedAck := []
  deriving DecidableEq, Repr

/-! ### Launches -/

/-- A launch packet, taken apart (R381). -/
structure Pkt where
  lid : Nat
  nlev : Nat
  keyed : Bool
  prio : Nat
  paramLen : Nat
  imageVa : Nat
  paramVa : Nat
  compVa : Nat
  seed : Dword
  clo : Nat
  ccount : Nat
  preds : List Nat
  levels : List Dword
  deriving DecidableEq, Repr

/-- The life of a launch in this package. -/
inductive LState where
  | queued
  | accepted
  | granted
  | loaded
  /-- Refused, faulted before it ran, or killed: only its record is left to write. -/
  | ending
  deriving DecidableEq, Repr

/-- A saved context of an evicted launch (R412): everything R413 reinstates, by region index, with the region it left and the lowest watermark
of its issue points as it was evicted (R301). -/
structure Saved where
  g : Nat
  region : Nat
  res : Resident
  ctxs : SMap Ctx
  sink : Sink
  nodes : SMap Node
  tiles : SMap Tile
  bytes : List (Nat × List Byte)
  mark : Nat
  deriving DecidableEq, Repr

/-- A launch's sequence in one granted region (R389, R392 to R394): the region's user context, the SEQ entry to place next (its index
in the image's table; none once the sequence has ended) with its STEP number, the entry queues of its WHEN 2 configurations
with the cycle since which each is non-empty, the words posted in the present cycle with their configurations, and the generators of its steps'
configurations, patched at load (R27 step 4, R332), by configuration number. -/
structure RegSeq where
  region : Nat
  x : Nat
  pos : Option Nat
  phase : Option Nat
  queues : SMap (List Dword)
  since : SMap Nat
  posted : List (Nat × Dword) := []
  gens : SMap (SMap Gen) := []
  deriving DecidableEq, Repr

/-- A launch (R384 to R391): its packet and what the scheduler keeps of it. `waits` are predecessors not yet complete, `order` its place
in the queue and then in the order of acceptance, `kids` the first two bytes of the records of its complete children, `reports` what the
other packages reported (package, code, flags, sink counts), `joiners` the contexts that wait in JOINC for it, `reported` whether this
package has told the one at position 0 that its part is complete (R444), `nextPrio` a base priority set in the present cycle (R403), `sinks` the
sinks of an evicted launch's regions that held no configuration (R410, R413), by region index. -/
structure Launch where
  pkt : Pkt
  asid : Nat
  parent : Option Nat
  pkgs : List Nat
  st : LState
  waits : List Nat
  order : Nat
  accTime : Dword := 0
  snapshot : List Byte := []
  basePrio : Nat := 0
  seqs : SMap RegSeq := []
  image : Option Image := none
  randOvl : Bool := false
  childErr : Bool := false
  headErr : Bool := false
  killed : Option Nat := none
  poison : Nat := 0
  stranded : Nat := 0
  refusal : List Byte := []
  code : Nat := 0
  saved : List Saved := []
  evicted : Bool := false
  reports : List (Nat × Nat × Nat × Nat × Nat) := []
  effPrio : Nat := 0
  joiners : List Nat := []
  kids : SMap (Nat × Nat) := []
  reported : Bool := false
  nextPrio : Option Nat := none
  sinks : SMap Sink := []
  deriving DecidableEq, Repr

/-- A launch of the pod that this package has no part in (R378, R384, R385): its range of RAND counters, whether it has been accepted, and its
base priority and predecessors (R388). -/
structure Away where
  seed : Dword
  clo : Nat
  ccount : Nat
  accepted : Bool := false
  prio : Nat := 0
  preds : List Nat := []
  deriving DecidableEq, Repr

/-- A packet on its way to the scheduler (R384): its source (0 for the control node), address space, bytes, packages and the parent of a
child. -/
structure Delivery where
  source : Nat
  asid : Nat
  bytes : List Byte
  pkgs : List Nat
  parent : Option Nat
  host : Bool
  deriving DecidableEq, Repr

/-- A system image in a region's context S (R445): its sequence, address space, region index and image. -/
structure SysRun where
  seq : RegSeq
  asid : Nat
  g : Nat
  image : Image
  deriving DecidableEq, Repr

/-- The package scheduler: packets on their way, launches by id, the next place in the order, system images by region, and the launches of the
pod that run in other packages alone. -/
structure Sched where
  deliveries : List Delivery := []
  launches : SMap Launch := []
  nextOrder : Nat := 0
  sys : SMap SysRun := []
  away : SMap Away := []
  deriving DecidableEq, Repr

/-! ### Trust, time, port and power -/

/-- A memory key slot (R436): its ASID, which draw gave its key, counted from 1, and the leaves that name it. -/
structure KSlot where
  asid : Nat
  serial : Nat
  refs : Nat
  deriving DecidableEq, Repr

/-- A request of ATTEST in the trust engine's queue (R428): the buffer, and the cycle before which its quote is not taken (R432). -/
structure AttReq where
  cid : Nat
  va : Nat
  asid : Nat
  due : Nat
  pend : Option Nat
  out : Option (Nat × BitVec 4)
  fcount : Nat
  key : Dword
  reported : Bool := false
  deriving DecidableEq, Repr

/-- A save the trust engine has recorded (R222): launch, source, sorus, number, whether restored, and the node saved. -/
structure SaveRec where
  lid : Nat
  source : Nat
  sorus : Nat
  seqno : Nat
  used : Bool
  node : Node
  sealed : List Byte
  deriving DecidableEq, Repr

/-- The trust engine (R433 to R440): customer keys, memory key slots, firmware running and for the next reset, quotes and resets so far, its
request queue, the saves it has recorded, the tests that may have changed the repair maps, the open repair windows by frond (1 evict; 2
started), and the keys drawn. -/
structure Trust where
  keys : List (List Byte) := []
  kslots : SMap KSlot := []
  fwRun : List Byte := []
  fwNext : List Byte := []
  fwOk : Bool := false
  quotes : Nat := 0
  resets : Nat := 0
  attQ : List AttReq := []
  saves : List SaveRec := []
  tests : Nat := 0
  windows : SMap (Bool × Bool) := []
  draws : Nat := 0
  deriving DecidableEq, Repr

/-- States of the time discipline (R374). -/
inductive Disc where
  | free
  | acquiring
  | locked
  | holdover
  deriving DecidableEq, Repr

/-- The time-stamp counter and its discipline (R374 to R376, R449): nanoseconds, the 21sts of one beyond them, state, entries into LOCKED, last
offset, the master, Sync intervals within bound, nanoseconds since a Sync came and since one was sent, the correction still to be slewed
in with the nanoseconds since its last one (R374), and the nanoseconds since an interval was last counted. -/
structure Time where
  tsc : Dword := 0
  frac : Nat := 0
  disc : Disc := .free
  locks : Nat := 0
  off : Int := 0
  tmaster : Option Nat := none
  inBound : Nat := 0
  sinceSync : Nat := 0
  sinceTx : Nat := 0
  slew : Int := 0
  slewAcc : Nat := 0
  sinceIn : Nat := 0
  deriving DecidableEq, Repr

/-- A response or an unsolicited frame sent over the control port (R442): port, command, FLAGS bit 0, SEQ, TIME, STATUS and
payload. -/
structure FrameOut where
  port : Nat
  cmd : Nat
  seq : BitVec 32
  time : Dword
  status : Nat
  payload : List Byte
  deriving DecidableEq, Repr

/-- The control port (R442 to R445). -/
structure CtlPort where
  linkUp : Bool := true
  resp : List FrameOut := []
  sent : List FrameOut := []
  pending : List (List Byte) := []
  sysloads : List (Frame × List Nat) := []
  deriving DecidableEq, Repr

/-- The fabric (R448): the route table, the trained ports, and what has left: the port, the package it goes to (2,048 for the peer of the
port), and the message. -/
structure Fabric where
  route : List Nat := []
  up : BitVec 48 := 0
  sent : List (Nat × Nat × FabMsg) := []
  deriving DecidableEq, Repr

/-- An access of the control node or of another package that a freeze has refused: it is tried again in every cycle until the replay (R340,
R341). -/
inductive Retry where
  | read (f : Frame) (pa len : Nat)
  | write (f : Frame) (pa : Nat) (bytes : List Byte)
  | flit (m : FabMsg)
  | sysload (f : Frame) (pa len asid flags regs : Nat)
  deriving DecidableEq, Repr

/-- A request of the deadline class that has not ended (R269): of a PSAVE or a context save, for a context's firing, over HBM pieces. -/
structure Deadline where
  id : Nat
  cid : Nat
  fcount : Nat
  key : Dword
  pas : List Nat
  until_ : Nat
  deriving DecidableEq, Repr

/-- An uncorrectable HBM error that a read has found in the present cycle, and whose kill follows (R415): the launch, the context of the access if
it had one, its firing count, the address and the key. -/
structure Found where
  lid : Nat
  cid : Option Nat
  fcount : Nat
  addr : Nat
  key : Dword
  deriving DecidableEq, Repr

/-- Rows a PREF has asked for and that its channels have still to open (R284): the units of 4,096 bytes that are present in HBM, and the cycle
in which they were asked for. -/
structure Pref where
  units : List Nat
  since : Nat
  deriving DecidableEq, Repr

/-- The error log on frond 0 (R426). -/
structure ErrLog where
  recs : List Rec := []
  lost : Nat := 0
  deriving DecidableEq, Repr

/-- The bring-up states (R451): the step reached, whether it failed there, and in step 7 whether the fabric has trained. -/
structure Bring where
  step : Nat := 1
  failed : Bool := false
  trained : Bool := false
  deriving DecidableEq, Repr

/-- The package. `bankAsks` are the vault banks that engines have lines to move at in the present cycle, each with the context whose firing
issued the command (R257). -/
structure Pkg where
  bring : Bring := {}
  pkgId : Nat := 0
  time : Time := {}
  xlat : Xlat := {}
  sched : Sched := {}
  trust : Trust := {}
  port : CtlPort := {}
  fabric : Fabric := {}
  errLog : ErrLog := {}
  gbar : SMap Barrier := []
  allocs : List Alloc := []
  dead : List Nat := []
  marked : List Nat := []
  encTag : SMap Nat := []
  merge : List MergeEntry := []
  rows : List OpenRow := []
  served : SMap Service := []
  retries : List Retry := []
  deadlines : List Deadline := []
  bankAsks : List (Nat × Nat) := []
  prefs : List Pref := []
  found : List Found := []
  stretch : Bool := false
  deriving DecidableEq, Repr

/-! ### The machine -/

/-- The firing in hand: its context, its slot and its rule entry. -/
structure Cur where
  cid : Nat := 0
  slot : Nat := 0
  rule : RuleEntry := 0
  deriving DecidableEq, Repr

/-- What moves next in the cycle: the firing of an element, an event, or one of the model's own points of the cycle (log entry 2). -/
inductive Act where
  /-- The first of the slots listed (context, slot) that still has what it needs fires: those of one element whose rules hold, in the order
  of R79. The other contexts of the element that hold a rule are listed for R82. -/
  | fire (l : List (Nat × Nat)) (held : List Nat)
  | ev (i : Instr)
  /-- The rules of every context are evaluated on the state as it stands, and the firings of the cycle follow (R76 to R82). -/
  | choose
  /-- The events that are due by the end of the cycle follow. -/
  | close
  /-- The writebacks and arrivals of the cycle follow, once its accesses have performed (R10, R286). -/
  | back
  /-- The cycle is over: progress, quiet and stalls are counted (R95, R234, R338). -/
  | tally
  deriving DecidableEq, Repr

/-- The machine: one package, the memory addressable from it, and the model's own fields (log entry 2): the firing in hand,
the agenda of the present cycle, the events of the outside world still to land with their cycles, the uncorrectable vault errors still to be
met (the cycle from which, and the 128-byte line by the model's address; R270), those of HBM (the cycle, and the block; R415), the images'
copies of an element record that cannot be read or fail their digest (the cycle, and the context; R417, R429), the cycle number, the
counter of free values and the numbers given to results, requests and link transfers. -/
structure State where
  ctxs : SMap Ctx
  elems : SMap Elem
  regions : SMap Region
  flight : List Flight
  fans : List Fan
  reqs : List Req
  mem : List Host.Cell
  pkg : Pkg
  cur : Cur
  agenda : List Act
  env : List (Nat × Instr)
  vaultErrs : List (Nat × Nat)
  hbmErrs : List (Nat × Nat)
  badCopies : List (Nat × Nat)
  cycle : Nat
  free : Nat
  pendNo : Nat
  reqNo : Nat
  deriving DecidableEq, Repr

/-- The machine right after reset: power not yet up (R451 step 1), nothing loaded, memory listing nothing (log entry 7), the
counter at 0 (R374); every register absent from a table reads the value its structure gives it (log entry 3). -/
def State.reset : State where
  ctxs := []
  elems := []
  regions := []
  flight := []
  fans := []
  reqs := []
  mem := []
  pkg := {}
  cur := {}
  agenda := []
  env := []
  vaultErrs := []
  hbmErrs := []
  badCopies := []
  cycle := 0
  free := 0
  pendNo := 0
  reqNo := 0

end Sys2Proof.Machine
end

