-- ==== Sys2Proof/Machine/Ops.lean ====
section
/-! DEFINITION. The operations every family shares: reading and writing a context, a region and an element; heads, tokens and
their emission; results and their writeback (R80); the retirement of a firing; poison and its sinks (R89, R410); taking a
precise trap or a break (R92, R113) and returning from one (R423); trap records and where they go (R404 to R407). -/

namespace Sys2Proof.Machine

/-- What a meaning answers. -/
abbrev Out := Host.Outcome State Fault Refusal

/-! ### Numbering (R14, R29) -/

/-- The region of a context. -/
def regionOf (c : Nat) : Nat := c / 1024
/-- The element of a context within its region. -/
def elemOf (c : Nat) : Nat := c / 8 % 128
/-- The context's number within its element: 0-3 user, 4 system. -/
def ctxOf (c : Nat) : Nat := c % 8
/-- A context from its region, element and number. -/
def mkCid (r e x : Nat) : Nat := r * 1024 + e * 8 + x
/-- The element number (region × 128 + element) of a context. -/
def eidOf (c : Nat) : Nat := c / 8
/-- The frond of a region. -/
def frondOf (r : Nat) : Nat := r / 16
/-- The pinna of an element of a region. -/
def pinnaOf (e : Nat) : Nat := e / 8

/-- The four kinds of element (R15). -/
inductive Kind where
  | a | f | m | c
  deriving DecidableEq, Repr

/-- An element's kind is fixed by its position in its pinna (R15). -/
def kindOf (e : Nat) : Kind :=
  if e % 8 < 2 then .a else if e % 8 < 5 then .f else if e % 8 = 5 then .m else .c

/-! ### Reading and writing the parts of the state -/

/-- A context; one that was never loaded reads as empty. -/
def State.ctx (s : State) (c : Nat) : Ctx := SMap.get s.ctxs c {}
/-- A context replaced. -/
def State.setCtx (s : State) (c : Nat) (k : Ctx) : State := { s with ctxs := SMap.set s.ctxs c k }
/-- A context changed. -/
def State.updCtx (s : State) (c : Nat) (f : Ctx → Ctx) : State := s.setCtx c (f (s.ctx c))
/-- A region. -/
def State.region (s : State) (r : Nat) : Region := SMap.get s.regions r {}
/-- A region replaced. -/
def State.setRegion (s : State) (r : Nat) (g : Region) : State := { s with regions := SMap.set s.regions r g }
/-- A region changed. -/
def State.updRegion (s : State) (r : Nat) (f : Region → Region) : State := s.setRegion r (f (s.region r))
/-- An element. -/
def State.elem (s : State) (e : Nat) : Elem := SMap.get s.elems e {}
/-- An element changed. -/
def State.updElem (s : State) (e : Nat) (f : Elem → Elem) : State := { s with elems := SMap.set s.elems e (f (s.elem e)) }
/-- The package changed. -/
def State.updPkg (s : State) (f : Pkg → Pkg) : State := { s with pkg := f s.pkg }

/-- The resident configuration of a context. -/
def State.res (s : State) (c : Nat) : Option Resident := SMap.find (s.region (regionOf c)).res (ctxOf c)
/-- The resident of a context changed, if there is one. -/
def State.updRes (s : State) (c : Nat) (f : Resident → Resident) : State :=
  match s.res c with
  | none => s
  | some p => s.updRegion (regionOf c) fun g => { g with res := SMap.set g.res (ctxOf c) (f p) }

/-- The launch of a context; 0 for a system configuration or an empty context. -/
def State.lidOf (s : State) (c : Nat) : Nat := match s.res c with | some p => p.lid | none => 0
/-- The address space of a context. -/
def State.asidOf (s : State) (c : Nat) : Nat := match s.res c with | some p => p.asid | none => 0
/-- The context runs in keyed mode (R26). -/
def State.keyed (s : State) (c : Nat) : Bool := match s.res c with | some p => p.keyed | none => false
/-- The context's configuration is in route-tag mode (R91). -/
def State.routeMode (s : State) (c : Nat) : Bool := match s.res c with | some p => p.cfg.route | none => false

/-- The context of the firing in hand. -/
def State.me (s : State) : Nat := s.cur.cid
/-- The present context. -/
def State.my (s : State) : Ctx := s.ctx s.cur.cid
/-- The source number of a context (R29). -/
def State.source (s : State) (c : Nat) : BitVec 29 := BitVec.ofNat 29 (s.pkg.pkgId * 2 ^ 18 + c)
/-- The time stamp (R29, R374). -/
def State.now (s : State) : Dword := s.pkg.time.tsc

/-- A vector register; zero where it was never written (R63). -/
def Ctx.v (k : Ctx) (i : Nat) : Vec := SMap.get k.regs.v i ⟨[]⟩
/-- A scalar register. -/
def Ctx.x (k : Ctx) (i : Nat) : Dword := SMap.get k.regs.x i 0
/-- A predicate. -/
def Ctx.p (k : Ctx) (i : Nat) : Bool := k.regs.p.getLsbD i
/-- The output tag of an output (R99). -/
def Ctx.otag (k : Ctx) (i : Nat) : BitVec 4 := SMap.get k.regs.otag i 0
/-- The tokens of an input buffer, head first (R86). -/
def Ctx.buf (k : Ctx) (i : Nat) : List Token := SMap.get k.ch.inb i []
/-- The output register of an output (R86). -/
def Ctx.outReg (k : Ctx) (i : Nat) : Option Token := SMap.find k.ch.outr i
/-- The state of a slot (R228). -/
def Ctx.slotState (k : Ctx) (i : Nat) : SlotState := SMap.get k.slotSt i {}
/-- A context's registers changed. -/
def Ctx.updRegs (k : Ctx) (f : Regs → Regs) : Ctx := { k with regs := f k.regs }
/-- A context's channels changed. -/
def Ctx.updCh (k : Ctx) (f : Chans → Chans) : Ctx := { k with ch := f k.ch }
/-- A context's control marks changed. -/
def Ctx.updCtl (k : Ctx) (f : Ctl → Ctl) : Ctx := { k with ctl := f k.ctl }
/-- A vector register written. -/
def Ctx.setV (k : Ctx) (i : Nat) (v : Vec) : Ctx := k.updRegs fun r => { r with v := SMap.set r.v i v }
/-- A scalar register written. -/
def Ctx.setX (k : Ctx) (i : Nat) (w : Dword) : Ctx := k.updRegs fun r => { r with x := SMap.set r.x i w }
/-- A predicate written. -/
def Ctx.setP (k : Ctx) (i : Nat) (b : Bool) : Ctx := k.updRegs fun r => { r with p := putBit r.p i b }
/-- An output tag written. -/
def Ctx.setOtag (k : Ctx) (i : Nat) (t : BitVec 4) : Ctx := k.updRegs fun r => { r with otag := SMap.set r.otag i t }
/-- A slot's state written. -/
def Ctx.setSlot (k : Ctx) (i : Nat) (t : SlotState) : Ctx := { k with slotSt := SMap.set k.slotSt i t }

/-! ### Rule entries (R41) -/

/-- Predicate term i of an entry: enable, polarity, index. -/
def ruleP (r : RuleEntry) (i : Nat) : Bool × Bool × Nat :=
  (r.getLsbD (9 * i + 8), r.getLsbD (9 * i + 7), fld r (9 * i + 6) (9 * i))
/-- Channel term i: enable, kind, channel, tag. -/
def ruleC (r : RuleEntry) (i : Nat) : Bool × Nat × Nat × Nat :=
  (r.getLsbD (36 + 12 * i + 11), fld r (36 + 12 * i + 10) (36 + 12 * i + 8), fld r (36 + 12 * i + 7) (36 + 12 * i + 4),
    fld r (36 + 12 * i + 3) (36 + 12 * i))
/-- The dequeue mask names input k. -/
def ruleDq (r : RuleEntry) (k : Nat) : Bool := r.getLsbD (60 + k)
/-- Predicate update i: enable, value, index. -/
def ruleU (r : RuleEntry) (i : Nat) : Bool × Bool × Nat :=
  (r.getLsbD (68 + 9 * i + 8), r.getLsbD (68 + 9 * i + 7), fld r (68 + 9 * i + 6) (68 + 9 * i))

/-! ### Heads (R40, R90, R91) -/

/-- Kind codes of tokens (R83). -/
def kDATA : BitVec 3 := 0
/-- MARK. -/
def kMARK : BitVec 3 := 1
/-- EOS. -/
def kEOS : BitVec 3 := 2
/-- POISON. -/
def kPOISON : BitVec 3 := 3
/-- DRAIN. -/
def kDRAIN : BitVec 3 := 4

/-- The tag of an enabled kind-001 term on input k: of two, that of CT0 (log entry 10). -/
def tagTerm (r : RuleEntry) (k : Nat) : Option Nat :=
  if (ruleC r 0).1 && (ruleC r 0).2.1 == 1 && (ruleC r 0).2.2.1 == k then some (ruleC r 0).2.2.2
  else if (ruleC r 1).1 && (ruleC r 1).2.1 == 1 && (ruleC r 1).2.2.1 == k then some (ruleC r 1).2.2.2
  else none

/-- The place of the oldest DATA token of a tag that no token of another kind precedes (R91). -/
def taggedPos (t : Nat) : List Token → Option Nat
  | [] => none
  | a :: l => if a.kind = kDATA then (if a.tag.toNat = t then some 0 else (taggedPos t l).map (· + 1)) else none

/-- The place in the buffer of the token that a slot under rule r reads and removes on input k. -/
def headPos (route : Bool) (r : RuleEntry) (k : Nat) (b : List Token) : Option Nat :=
  match (if route then tagTerm r k else none) with
  | some t => taggedPos t b
  | none => if b.isEmpty then none else some 0

/-- The head of input k of context c under rule r. -/
def State.headAt (s : State) (c : Nat) (r : RuleEntry) (k : Nat) : Option Token :=
  let b := (s.ctx c).buf k
  match headPos (s.routeMode c) r k b with
  | none => none
  | some n => b[n]?

/-- The head of input k for the firing in hand. -/
def State.headOpt (s : State) (k : Nat) : Option Token := s.headAt s.cur.cid s.cur.rule k
/-- The same, where a head is guaranteed (R40). -/
def State.head (s : State) (k : Nat) : Token := (s.headOpt k).getD {}

/-- The token at place n of an input removed, and the count of removed tokens raised (R255). -/
def Ctx.removeAt (k : Ctx) (i n : Nat) : Ctx :=
  k.updCh fun c => { c with inb := SMap.set c.inb i (listDrop (SMap.get c.inb i []) n),
                            deqd := SMap.upd c.deqd i 0 (· + 1) }

/-- The head of input k of the firing in hand removed. -/
def State.dequeue (s : State) (k : Nat) : State :=
  match headPos (s.routeMode s.cur.cid) s.cur.rule k (s.my.buf k) with
  | none => s
  | some n => s.updCtx s.cur.cid fun c => c.removeAt k n

/-- Several inputs' heads removed. -/
def State.dequeues (s : State) : List Nat → State
  | [] => s
  | k :: t => (s.dequeue k).dequeues t

/-! ### Building tokens (R84, R227) -/

/-- The fields that name the emitting context, and what travels beside the token (R227, R311). -/
def State.stamp (s : State) (c : Nat) (t : Token) : Token :=
  { t with ctx := BitVec.ofNat 2 (if ctxOf c < 4 then ctxOf c else 0), sys := decide (ctxOf c = 4), emitter := c,
           stores := (s.ctx c).stIssued }

/-- A vector DATA token; lanes that are not valid carry zero (R85). -/
def vecTok (tag : BitVec 4) (m : Mask) (v : Vec) : Token := { kind := kDATA, tag, mask := m, lanes := Vec.clear m v }
/-- A scalar DATA token. -/
def scaTok (tag : BitVec 4) (w : Dword) : Token := { kind := kDATA, tag, sc := true, scalar := w }
/-- A dependence token (R356). -/
def depTok (tag : BitVec 4) (w : Dword := 1) : Token := { kind := kDATA, tag, sc := true, scalar := w, dep := true }
/-- A MARK (R84), its scalar if it has one. -/
def markTok (level : Nat) (sc : Bool) (w : Dword) : Token := { kind := kMARK, tag := BitVec.ofNat 4 level, sc, scalar := w }
/-- An EOS. -/
def eosTok (tag : BitVec 4) : Token := { kind := kEOS, tag }
/-- A POISON with a given origin (R84). -/
def poisTok (tag : BitVec 4) (src : BitVec 29) (count : BitVec 48) (code : BitVec 8) : Token :=
  { kind := kPOISON, tag, psrc := src, pcount := count, pcode := code }
/-- Poison(code) of a firing of context c with firing count n (R8). -/
def State.poison (s : State) (c : Nat) (n : BitVec 48) (code : Nat) : Token :=
  poisTok 0 (s.source c) n (BitVec.ofNat 8 code)
/-- The firing count of the firing in hand: the counter plus 1 (R92). -/
def State.firing (s : State) : BitVec 48 := s.my.regs.fcount + 1
/-- Poison(code) of the firing in hand. -/
def State.myPoison (s : State) (code : Nat) : Token := s.poison s.cur.cid s.firing code

/-- How many beats a token takes: the header and one for each group of 32 lanes with a valid lane (R85). -/
def Token.beats (t : Token) : Nat :=
  if t.kind = kDATA ∧ t.sc = false then 1 + ((List.range 6).filter fun j => fld t.mask (32 * j + 31) (32 * j) ≠ 0).length else 1

/-- The 1,024-bit header beat of a token (R84). -/
def Token.header (t : Token) : BitVec 1024 :=
  BitVec.ofNat 1024 (t.kind.toNat + t.tag.toNat * 2 ^ 3 + t.ctx.toNat * 2 ^ 7 + bit01 t.sys * 2 ^ 9 + bit01 t.sc * 2 ^ 10
    + t.mask.toNat * 2 ^ 16 + t.scalar.toNat * 2 ^ 208 + t.psrc.toNat * 2 ^ 272 + t.pcount.toNat * 2 ^ 301
    + t.pcode.toNat * 2 ^ 349)

/-- A token put into an output register, and the count of emitted tokens raised (R255). -/
def Ctx.putOut (k : Ctx) (i : Nat) (t : Token) : Ctx :=
  k.updCh fun c => { c with outr := SMap.set c.outr i t, emtd := SMap.upd c.emtd i 0 (· + 1) }

/-- An agent's token for output i of context c, stamped. -/
def State.putTok (s : State) (c i : Nat) (t : Token) : State := s.updCtx c fun k => k.putOut i (s.stamp c t)

/-! ### Results and their writeback (R77, R80, R81, R116) -/

/-- The vector registers a result part writes. -/
def Eff.vs : Eff → List Nat | .vec k _ _ => [k] | _ => []
/-- The scalar registers a result part writes. -/
def Eff.xs : Eff → List Nat | .sreg k _ => [k] | _ => []
/-- The predicates a result part writes. -/
def Eff.ps : Eff → List Nat | .pred k _ => [k] | _ => []
/-- The outputs a result part emits on. -/
def Eff.os : Eff → List Nat | .emit k _ => [k] | _ => []

/-- One result part takes effect in its context. -/
def Ctx.apply (k : Ctx) : Eff → Ctx
  | .vec i m v => k.setV i (Vec.merge m v (k.v i))
  | .sreg i w => k.setX i w
  | .pred i b => k.setP i b
  | .emit i t => k.putOut i t
  | .mask m => k.updRegs fun r => { r with mask := m }
  | .flags f => k.updRegs fun r => { r with fstat := r.fstat ||| f }
  | .otag i t => k.setOtag i t

/-- Result parts in order. -/
def Ctx.applyAll (k : Ctx) : List Eff → Ctx
  | [] => k
  | e :: t => (k.apply e).applyAll t

/-- The results of a context that are due by the end of cycle n take effect, oldest first; the others stay. -/
def Ctx.writeback (k : Ctx) (n : Nat) : Ctx :=
  let due := k.pend.filter fun p => match p.due with | some d => decide (d ≤ n) | none => false
  let rest := k.pend.filter fun p => match p.due with | some d => !decide (d ≤ n) | none => true
  { k.applyAll (due.flatMap Pend.effs) with pend := rest }

/-- A result appended to a context's results, and its number used. -/
def State.pushPend (s : State) (c : Nat) (p : Pend) : State :=
  { s.updCtx c (fun k => { k with pend := k.pend ++ [p] }) with pendNo := s.pendNo + 1 }

/-- A result of latency `lat` from the firing in hand: written back at the end of cycle c + lat - 1 (R80). -/
def State.addPend (s : State) (c lat : Nat) (effs : List Eff) : State :=
  s.pushPend c ⟨s.pendNo, some (s.cycle + lat - 1), effs.flatMap Eff.vs, effs.flatMap Eff.xs, effs.flatMap Eff.ps,
    effs.flatMap Eff.os, effs⟩

/-- A result whose value an agent supplies later; its number is `pendNo` before. -/
def State.openPend (s : State) (c : Nat) (vs xs os : List Nat) : State :=
  s.pushPend c ⟨s.pendNo, none, vs, xs, [], os, []⟩

/-- An open result of context c settled: written back `lat` cycles from now. -/
def State.settle (s : State) (c id lat : Nat) (effs : List Eff) : State :=
  s.updCtx c fun k => { k with pend := k.pend.map fun p =>
    if p.id = id then { p with due := some (s.cycle + lat - 1), effs } else p }

/-- An open result of context c settled, if it was given one. -/
def State.settleOpt (s : State) (c : Nat) (id : Option Nat) (lat : Nat) (effs : List Eff) : State :=
  match id with
  | none => s
  | some n => s.settle c n lat effs

/-- An open result of context c dropped with nothing written. -/
def State.dropPend (s : State) (c id : Nat) : State :=
  s.updCtx c fun k => { k with pend := k.pend.filter fun p => p.id ≠ id }

/-- A vector register awaits a writeback. -/
def Ctx.busyV (k : Ctx) (i : Nat) : Bool := k.pend.any fun p => p.vs.contains i
/-- A scalar register awaits a writeback. -/
def Ctx.busyX (k : Ctx) (i : Nat) : Bool := k.pend.any fun p => p.xs.contains i
/-- A predicate is busy (R81). -/
def Ctx.busyP (k : Ctx) (i : Nat) : Bool := k.pend.any fun p => p.ps.contains i
/-- An output is reserved (R116). -/
def Ctx.reservedOut (k : Ctx) (i : Nat) : Bool := k.pend.any fun p => p.os.contains i
/-- An output can accept: its register is empty and not reserved (R77 condition 6, R116). -/
def Ctx.accepts (k : Ctx) (i : Nat) : Bool := (k.outReg i).isNone && !k.reservedOut i

/-! ### Retirement (R80) -/

/-- One predicate update of a rule. -/
def Ctx.update (k : Ctx) (u : Bool × Bool × Nat) : Ctx := if u.1 then k.setP u.2.2 u.2.1 else k

/-- The firing in hand retires: its rule's dequeues with the instruction's own, the two updates, and the counter. -/
def State.retire (s : State) (own : List Nat := []) : State :=
  let s1 := s.dequeues ((List.range 8).filter fun k => ruleDq s.cur.rule k || own.contains k)
  s1.updCtx s.cur.cid fun k => ((k.update (ruleU s.cur.rule 0)).update (ruleU s.cur.rule 1)).updRegs
    fun r => { r with fcount := r.fcount + 1 }

/-- The firing in hand retires with a result of a latency. -/
def State.finish (s : State) (lat : Nat) (effs : List Eff) (own : List Nat := []) : Out :=
  .next ((s.addPend s.cur.cid lat effs).retire own)

/-- The firing in hand retires with no result of its own. -/
def State.done (s : State) (own : List Nat := []) : Out := .next (s.retire own)

/-! ### Poison (R89) and its sinks (R410) -/

/-- A poison counted in the sink of context c; the first one leaves its origin. Context S has no sink. -/
def State.countPoison (s : State) (c : Nat) (t : Token) : State :=
  if ctxOf c < 4 then
    s.updRegion (regionOf c) fun g => { g with sinks := SMap.upd g.sinks (ctxOf c) {} fun k =>
      { k with poison := min (k.poison + 1) (2 ^ 32 - 1),
               origin := match k.origin with | some o => some o | none => some (t.psrc, t.pcode, t.pcount) } }
  else s

/-- A token counted as stranded (R229, R410). -/
def State.countStranded (s : State) (c n : Nat) : State :=
  if ctxOf c < 4 then
    s.updRegion (regionOf c) fun g => { g with sinks := SMap.upd g.sinks (ctxOf c) {} fun k =>
      { k with stranded := min (k.stranded + n) (2 ^ 32 - 1) } }
  else s

/-- Poison in place of a result (R89): an output emits it, any other destination leaves its register and counts it. -/
def State.poisonTo (s : State) (d : Dst) (lat : Nat) (t : Token) (own : List Nat := []) : Out :=
  match d with
  | .out k => s.finish lat [.emit k.toNat (s.stamp s.cur.cid t)] own
  | .v _ => (s.countPoison s.cur.cid t).done own
  | .x _ => (s.countPoison s.cur.cid t).done own
  | .null => (s.countPoison s.cur.cid t).done own

/-- The poison head a source shows. -/
def State.poisonSrc (s : State) (a : Src) : Option Token :=
  match a with
  | .inp k => if (s.head k.toNat).kind = kPOISON then some (s.head k.toNat) else none
  | .v _ => none
  | .x _ => none
  | .lane => none
  | .zero => none
  | .lit _ => none

/-- The poison that propagates: the first of the sources that shows one (R89). -/
def State.poisoned (s : State) : List Src → Option Token
  | [] => none
  | a :: t => match s.poisonSrc a with | some p => some p | none => s.poisoned t

/-! ### Trap records (R404 to R407, R419) -/

/-- The 64 bytes of a record (R407). -/
def Rec.bytes (r : Rec) : List Byte :=
  bytesLE 1 r.code ++ bytesLE 1 r.kind ++ bytesLE 1 r.slot ++ bytesLE 1 r.flags ++ bytesLE 4 r.source ++ bytesLE 8 r.fcount
    ++ bytesLE 8 r.time.toNat ++ bytesLE 4 r.lid ++ bytesLE 2 r.asid ++ bytesLE 2 r.seq ++ bytesLE 8 r.addr
    ++ bytesLE 8 r.key.toNat ++ bytesLE 8 r.detail ++ bytesLE 8 r.detail2

/-- FLAGS of a record: restartable, ADDR valid, KEY valid. -/
def recFlags (code kind : Nat) (addr : Bool) : Nat :=
  bit01 (kind ≤ 1 || (kind == 2 && (code == 0x25 || code == 0x86)))
    + 2 * bit01 (addr && decide (0x20 ≤ code) && decide (code ≤ 0x2C))
    + 4 * bit01 (kind ≤ 3 || (kind == 5 && code == 0x2C))

/-- Lanes from a byte string, four bytes a lane, byte 0 lowest (R5). -/
def lanesOf (l : List Byte) : List Word := (List.range ((l.length + 3) / 4)).map fun i => BitVec.ofNat 32 (leAt l (4 * i) 4)

/-- A record's token (R404). -/
def Rec.token (r : Rec) : Token := vecTok 15 (Mask.first 16) (Vec.ofList (lanesOf r.bytes))

/-- A record in its place among others: events are ordered by time, and those of one time by source number (R29). -/
def placeRec (r : Rec) (l : List Rec) : List Rec :=
  let before := l.takeWhile fun x => !(decide (x.time = r.time) && decide (r.source < x.source))
  before ++ r :: l.drop before.length

/-- A record enters the error log on frond 0 (R29, R426). -/
def ErrLog.push (l : ErrLog) (r : Rec) : ErrLog :=
  if l.recs.length < 256 then { l with recs := placeRec r l.recs }
  else { recs := placeRec r (l.recs.drop 1), lost := (l.lost + 1) % 65536 }

/-- A record is raised in a region: numbered, and on its way into the region's queue from the next cycle (R405). Kinds 3 to 5
also reach the error log (R405, R426). -/
def State.raise (s : State) (r : Nat) (k : Rec) : State :=
  let k := { k with seq := (s.region r).recSeq % 65536, time := s.now }
  let s := s.updRegion r fun g => { g with recSeq := g.recSeq + 1, trapIn := g.trapIn ++ [{ cycle := s.cycle, rec_ := k }] }
  if 3 ≤ k.kind then s.updPkg fun p => { p with errLog := p.errLog.push k } else s

/-- A record of context c: code, kind, slot, firing count, address if it has one, key, details. -/
def State.recOf (s : State) (c code kind slot fcount : Nat) (addr : Option Nat) (key : Dword) (d1 d2 : Nat) : Rec :=
  let fl := recFlags code kind addr.isSome
  { code, kind, slot, flags := fl, source := (s.source c).toNat, fcount, time := s.now, lid := s.lidOf c, asid := s.asidOf c,
    seq := 0, addr := if fl / 2 % 2 = 1 then addr.getD 0 else 0, key := if fl / 4 % 2 = 1 then key else 0, detail := d1, detail2 := d2 }

/-- Taking a precise trap (R92): nothing of the firing takes effect, its context enters trap state, and the record of its slot,
firing count, key and details is raised. ONE operation for every precise trap. -/
def State.takeTrap (s : State) (code : Nat) (addr : Option Nat := none) (d1 d2 : Nat := 0) : State :=
  let c := s.cur.cid
  let k := s.recOf c code 0 s.cur.slot s.firing.toNat addr s.my.regs.kr d1 d2
  (s.updCtx c fun x => x.updCtl fun t => { t with trap := some { slot := s.cur.slot, brk := false } }).raise (regionOf c) k

/-- The firing in hand ends as a precise trap: Fault(code) (R8). -/
def State.trap (s : State) (code : Nat) (addr : Option Nat := none) (d1 d2 : Nat := 0) : Out :=
  .next (s.takeTrap code addr d1 d2)

/-- A break (R113): the firing retires, then its context enters trap state and the record is raised. -/
def State.takeBreak (s : State) (imm : Nat) : State :=
  let c := s.cur.cid
  let k := s.recOf c 0x01 1 s.cur.slot s.firing.toNat none s.my.regs.kr imm 0
  (s.retire.updCtx c fun x => x.updCtl fun t => { t with trap := some { slot := s.cur.slot, brk := true } }).raise (regionOf c) k

/-- Return from trap state (R423): the context is a candidate again from cycle c + 2. With `skip`, the rule effects and the
counter step of a precise trap's firing apply first, and its instruction has no effect. -/
def State.returnTrap (s : State) (c : Nat) (skip : Bool) : State :=
  match (s.ctx c).ctl.trap with
  | none => s
  | some t =>
    let k := s.ctx c
    let trig := fld (k.slots.getD t.slot 0) 31 26
    let s1 := if skip && !t.brk then
        let s0 := { s with cur := { cid := c, slot := t.slot, rule := k.rules.getD trig 0 } }
        { s0.retire with cur := s.cur }
      else s
    s1.updCtx c fun x => x.updCtl fun t => { t with trap := none, wait := .resumed (s.cycle + 2) }

/-- A poison report, an event or another record of context c that stops nothing (R408). -/
def State.report (s : State) (c code kind slot fcount : Nat) (addr : Option Nat) (key : Dword) (d1 d2 : Nat := 0) : State :=
  s.raise (regionOf c) (s.recOf c code kind slot fcount addr key d1 d2)

/-- A record goes over the control port, and not on the trap channel (R406): context S of P0.C0 is empty, halted or in trap
state, or the record comes from a context S. -/
def State.viaPort (s : State) (r : Nat) (k : Rec) : Bool :=
  let h := mkCid r 6 4
  (s.res h).isNone || (s.ctx h).ctl.halted || (s.ctx h).ctl.trap.isSome || decide (k.source % 8 = 4)

end Sys2Proof.Machine
end

