-- ==== Sys2Proof/Machine/Operands.lean ====
section
/-! DEFINITION. Every operand form: what a source yields (R36, R89, R99, R115, R154), and how a result is written (R99,
R116). -/

namespace Sys2Proof.Machine

/-- The 32-bit value L of a literal (R35). -/
def litVal (w : BitVec 26) : Word :=
  let lv := fld w 23 0
  let lf := fld w 25 24
  if lf = 0 then BitVec.ofNat 32 lv
  else if lf = 1 then BitVec.ofInt 32 (signedN 24 lv)
  else if lf = 2 then BitVec.ofNat 32 (lv * 256)
  else BitVec.ofNat 32 (lv % 65536 * 65536 + lv % 65536)

/-- L as a 64-bit scalar operand: sign-extended (R36). -/
def litSca (w : BitVec 26) : Dword := (litVal w).signExtend 64

/-- A head read as a vector of lanes (R85, R89, R115): lanes of a vector, SCALAR[31:0] in every lane of a scalar, the scalar
payload of a MARK; EOS and DRAIN read as zero. -/
def Token.vec (t : Token) : Vec :=
  if t.kind = kDATA ∨ t.kind = kMARK then (if t.sc then Vec.splat (t.scalar.setWidth 32) else t.lanes) else ⟨[]⟩

/-- A head read as a scalar (R89, R115): SCALAR, or lane 1 above lane 0 of a vector. -/
def Token.sca (t : Token) : Dword :=
  if t.kind = kDATA ∨ t.kind = kMARK then
    (if t.sc then t.scalar else BitVec.ofNat 64 ((t.lanes.get 1).toNat * 2 ^ 32 + (t.lanes.get 0).toNat))
  else 0

/-- A source in vector shape (R115, R154). -/
def State.srcVec (s : State) (a : Src) : Vec :=
  match a with
  | .v k => s.my.v k.toNat
  | .inp k => (s.head k.toNat).vec
  | .x k => Vec.splat ((s.my.x k.toNat).setWidth 32)
  | .lane => Vec.gen fun i => BitVec.ofNat 32 i
  | .zero => ⟨[]⟩
  | .lit w => Vec.splat (litVal w)

/-- A source in scalar shape (R115); a vector register or LANE, which the loader refuses there, reads its lanes 1 and 0. -/
def State.srcSca (s : State) (a : Src) : Dword :=
  match a with
  | .v k => BitVec.ofNat 64 (((s.my.v k.toNat).get 1).toNat * 2 ^ 32 + ((s.my.v k.toNat).get 0).toNat)
  | .inp k => (s.head k.toNat).sca
  | .x k => s.my.x k.toNat
  | .lane => 0x0000000100000000#64
  | .zero => 0
  | .lit w => litSca w

/-- A control, count or length value (R236): the scalar, or lane 0 of a vector, as 64 bits. -/
def State.ctlVal (s : State) (a : Src) : Dword :=
  match a with
  | .inp k => if (s.head k.toNat).sc then (s.head k.toNat).scalar else (((s.head k.toNat).vec).get 0).setWidth 64
  | .v k => ((s.my.v k.toNat).get 0).setWidth 64
  | .x k => s.my.x k.toNat
  | .lane => 0
  | .zero => 0
  | .lit w => litSca w

/-- The scalar shape is decided by D alone (R114). -/
def isScalar : Dst → Bool
  | .x _ => true
  | .v _ => false
  | .out _ => false
  | .null => false

/-- A value of R99: a vector or a 64-bit scalar. -/
inductive Val where
  | vec (v : Vec)
  | sca (w : Dword)
  deriving DecidableEq, Repr

/-- What a source yields for destination d (R99). -/
def State.srcVal (s : State) (d : Dst) (a : Src) : Val :=
  match a with
  | .v k => .vec (s.my.v k.toNat)
  | .lane => .vec (s.srcVec .lane)
  | .inp k => if (s.head k.toNat).sc then .sca ((s.head k.toNat).sca) else .vec ((s.head k.toNat).vec)
  | .x k => .sca (s.my.x k.toNat)
  | .zero => if isScalar d then .sca 0 else .vec ⟨[]⟩
  | .lit w => if isScalar d then .sca (litSca w) else .vec (Vec.splat (litVal w))

/-- A value as lanes: a scalar's bits [31:0] in every lane (R99, R106). -/
def Val.lanes : Val → Vec
  | .vec v => v
  | .sca w => Vec.splat (w.setWidth 32)

/-- The parts of Write(D, val) of R99 under a mask; `all` writes every lane. An output takes no token under a mask that is all
clear, and then it is not reserved (log entry 10). -/
def State.write (s : State) (d : Dst) (val : Val) (mask : Mask) : List Eff :=
  match d with
  | .v k => [.vec k.toNat mask val.lanes]
  | .x k => [.sreg k.toNat (match val with
    | .vec v => BitVec.ofNat 64 ((v.get 1).toNat * 2 ^ 32 + (v.get 0).toNat)
    | .sca w => w)]
  | .out k =>
    match val with
    | .sca w => [.emit k.toNat (s.stamp s.cur.cid (scaTok (s.my.otag k.toNat) w))]
    | .vec v => if mask = 0 then [] else [.emit k.toNat (s.stamp s.cur.cid (vecTok (s.my.otag k.toNat) mask v))]
  | .null => []

/-- The mask of a write: every lane with .ALL, else the context's lane-valid mask. -/
def State.maskFor (s : State) (all : Bool) : Mask := if all then Mask.full else s.my.regs.mask

/-- A lane-wise instruction (R116, R155): poison on a source propagates; else the vector result is written under the mask
with flags of the lanes computed. -/
def State.laneOp (s : State) (lat : Nat) (d : Dst) (srcs : List Src) (res : Vec) (fl : BitVec 32 := 0) : Out :=
  match s.poisoned srcs with
  | some p => s.poisonTo d lat p
  | none => s.finish lat (s.write d (.vec res) s.my.regs.mask ++ (if fl = 0 then [] else [.flags fl]))

/-- A scalar instruction (R116): poison on a source propagates; else the result replaces the x register, or an output receives
a scalar token. -/
def State.scalarOp (s : State) (lat : Nat) (d : Dst) (srcs : List Src) (res : Dword) (fl : BitVec 32 := 0) : Out :=
  match s.poisoned srcs with
  | some p => s.poisonTo d lat p
  | none => s.finish lat (s.write d (.sca res) s.my.regs.mask ++ (if fl = 0 then [] else [.flags fl]))

/-- D's value as a vector before the firing, for the instructions that read it. -/
def State.dstVec (s : State) (d : Dst) : Vec :=
  match d with | .v k => s.my.v k.toNat | .x k => Vec.splat ((s.my.x k.toNat).setWidth 32) | .out _ => ⟨[]⟩ | .null => ⟨[]⟩

/-- D's value as a scalar before the firing. -/
def State.dstSca (s : State) (d : Dst) : Dword :=
  match d with | .x k => s.my.x k.toNat | .v _ => 0 | .out _ => 0 | .null => 0

/-- The scalar or status delivered to xN, outK (as a token) or NULL at latency `lat` of an open result. -/
def outOf (d : Dst) : List Nat := match d with | .out k => [k.toNat] | .v _ => [] | .x _ => [] | .null => []
/-- The scalar register of a destination. -/
def xOf (d : Dst) : List Nat := match d with | .x k => [k.toNat] | .v _ => [] | .out _ => [] | .null => []
/-- The vector register of a destination. -/
def vOf (d : Dst) : List Nat := match d with | .v k => [k.toNat] | .x _ => [] | .out _ => [] | .null => []

/-- The lanes a vector source has: those valid in a vector DATA head, and none of a MARK, an EOS or a DRAIN, whose MASK is zero (R84); every
lane of any other source, a scalar DATA head included, whose value stands in every lane (R115, R251, R272; log entry 10). -/
def State.validOf (s : State) (a : Src) : Mask :=
  match a with
  | .inp k => if (s.head k.toNat).kind ≠ kDATA then 0 else if (s.head k.toNat).sc then Mask.full else (s.head k.toNat).mask
  | .v _ => Mask.full
  | .x _ => Mask.full
  | .lane => Mask.full
  | .zero => Mask.full
  | .lit _ => Mask.full

/-- The output of a destination with its tag at firing, as an agent that emits later needs it. -/
def State.outTag (s : State) (d : Dst) : Option (Nat × BitVec 4) :=
  match d with | .out k => some (k.toNat, s.my.otag k.toNat) | .v _ => none | .x _ => none | .null => none

end Sys2Proof.Machine
end

