-- ==== Sys2Proof/Machine/Flags.lean ====
section
/-! DEFINITION. Every flag the manual names, in FSTAT order (R147), and the silent narrowings of the integer chapter (R116, R118):
no integer instruction sets a flag. -/

namespace Sys2Proof.Machine

/-- The flags of R147: INX in bit 0, UNF 1, OVF 2, DZ 3, INV 4. -/
structure Fl where
  inv : Bool := false
  dz : Bool := false
  ovf : Bool := false
  unf : Bool := false
  inx : Bool := false
  deriving DecidableEq, Repr

/-- Flags raised by both. -/
def Fl.or (a b : Fl) : Fl := ⟨a.inv || b.inv, a.dz || b.dz, a.ovf || b.ovf, a.unf || b.unf, a.inx || b.inx⟩

/-- No flag. -/
def Fl.none : Fl := {}

/-- The flags of a list of results. -/
def Fl.all : List Fl → Fl
  | [] => {}
  | a :: t => a.or (Fl.all t)

/-- The five flags as the low bits of FSTAT, INV DZ OVF UNF INX from [4] to [0] (R147). -/
def Fl.bits (f : Fl) : BitVec 32 :=
  BitVec.ofNat 32 (bit01 f.inv * 16 + bit01 f.dz * 8 + bit01 f.ovf * 4 + bit01 f.unf * 2 + bit01 f.inx)

/-- An exact integer result narrowed once to w bits (R118): wrap, signed saturation, unsigned saturation. -/
def narrow (w : Nat) (m : Nat) (e : Int) : Nat :=
  if m = 0 then (e % 2 ^ w).toNat
  else if m = 1 then (clampI (-(2 ^ (w - 1))) (2 ^ (w - 1) - 1) e % 2 ^ w).toNat
  else (clampI 0 (2 ^ w - 1) e).toNat

/-- An operand's value as IADD and its kin read it: signed under .SS, unsigned otherwise (R118). -/
def readAs (w m v : Nat) : Int := if m = 1 then signedN w v else (v % 2 ^ w : Nat)

end Sys2Proof.Machine
end

