-- ==== Sys2Proof/Machine/Float.lean ====
section
/-! DEFINITION. Number formats bit by bit (R135 to R152): what an encoding stands for, rounding once from an exact value (R144 to
R146), conversions (R148, R149), and the exact arithmetic that every float instruction and every pool decoder uses. A finite
value is a sign, a magnitude n and a power of two e, standing for n × 2^e. -/

namespace Sys2Proof.Machine

/-- What a float encoding stands for (R136, R140). -/
inductive Fv where
  | nan (signalling : Bool)
  | inf (neg : Bool)
  | fin (neg : Bool) (n : Nat) (e : Int)
  deriving DecidableEq, Repr

/-- A float format (R135): widths of E and M, bias, whether the top exponent holds infinity and NaNs, whether it holds a NaN only at
M all ones (E4M3), the canonical NaN and the largest finite encoding. -/
structure Fmt where
  ew : Nat
  m : Nat
  bias : Nat
  hasInf : Bool
  nanTop : Bool
  nan : Nat
  maxF : Nat
  deriving DecidableEq, Repr

/-- FP32. -/
def fp32 : Fmt := ⟨8, 23, 127, true, false, 0x7FC00000, 0x7F7FFFFF⟩
/-- FP16. -/
def fp16 : Fmt := ⟨5, 10, 15, true, false, 0x7E00, 0x7BFF⟩
/-- BF16. -/
def bf16 : Fmt := ⟨8, 7, 127, true, false, 0x7FC0, 0x7F7F⟩
/-- E4M3. -/
def e4m3 : Fmt := ⟨4, 3, 7, false, true, 0x7F, 0x7E⟩
/-- E5M2. -/
def e5m2 : Fmt := ⟨5, 2, 15, true, false, 0x7E, 0x7B⟩
/-- E2M1: no NaN and no infinity. -/
def e2m1 : Fmt := ⟨2, 1, 1, false, false, 0, 7⟩

/-- The width of a format. -/
def Fmt.width (f : Fmt) : Nat := 1 + f.ew + f.m

/-- The value of an encoding (R136). -/
def Fmt.value (f : Fmt) (w : Nat) : Fv :=
  let neg := w.testBit (f.ew + f.m)
  let ex := bitsN w (f.ew + f.m - 1) f.m
  let fr := w % 2 ^ f.m
  if ex = 0 then .fin neg fr (1 - (f.bias : Int) - f.m)
  else if ex = 2 ^ f.ew - 1 ∧ f.hasInf then
    (if fr = 0 then .inf neg else .nan (!fr.testBit (f.m - 1)))
  else if ex = 2 ^ f.ew - 1 ∧ f.nanTop ∧ fr = 2 ^ f.m - 1 then .nan false
  else .fin neg (2 ^ f.m + fr) ((ex : Int) - f.bias - f.m)

/-- An encoding with its sign set. -/
def Fmt.signed (f : Fmt) (neg : Bool) (w : Nat) : Nat := if neg then w + 2 ^ (f.ew + f.m) else w

/-! ### Rounding (R144 to R146) -/

/-- Rounding of a remainder over 2^sh upward: mode, sign, random q, the truncated magnitude, and whether more than the remainder
was cut (R144, R145). -/
def roundsUp (mode : Nat) (neg : Bool) (q lo rem sh : Nat) (sticky : Bool) : Bool :=
  let inexact := sticky || decide (rem ≠ 0)
  if mode = 1 then false
  else if mode = 2 then neg && inexact
  else if mode = 3 then !neg && inexact
  else if mode = 5 then decide (2 ^ 16 ≤ rem * 2 ^ 16 / 2 ^ sh + q)
  else
    let twice := 2 * rem
    if sh = 0 then false
    else if twice < 2 ^ sh then false
    else if 2 ^ sh < twice then true
    else if mode = 4 then true
    else sticky || lo % 2 == 1

/-- A magnitude n × 2^e, and a little more when sticky, rounded to a multiple of 2^g: the multiple, and whether it differs. -/
def roundAt (mode : Nat) (neg : Bool) (q n : Nat) (e g : Int) (sticky : Bool) : Nat × Bool :=
  let sh := (g - e).toNat
  let lo := if g ≤ e then n * 2 ^ (e - g).toNat else n / 2 ^ sh
  let rem := if g ≤ e then 0 else n % 2 ^ sh
  (if roundsUp mode neg q lo rem sh sticky then lo + 1 else lo, sticky || decide (rem ≠ 0))

/-- The exponent of the highest set bit of n × 2^e. -/
def topExp (n : Nat) (e : Int) : Int := (Nat.log2 n : Int) + e

/-- What overflow gives (R146): `big` tells that the exact magnitude is MAXF + ulp or more. -/
def Fmt.overflowed (f : Fmt) (mode : Nat) (neg big : Bool) : Nat :=
  let toMax := (mode = 1) || (mode = 2 && !neg) || (mode = 3 && neg) || (mode = 5 && !big) || (mode = 6)
  if toMax || f.maxF == 7 then f.signed neg f.maxF
  else if f.hasInf then f.signed neg (f.maxF + 1)
  else f.nan

/-- A finite exact value rounded once into a format (R144 to R147): its encoding and flags. A zero keeps the sign given. -/
def Fmt.round (f : Fmt) (mode q : Nat) (neg : Bool) (n : Nat) (e : Int) (sticky : Bool := false) : Nat × Fl :=
  if n = 0 then (f.signed neg 0, {})
  else
    let tiny : Int := 1 - (f.bias : Int)
    let g := max (topExp n e - f.m) (tiny - f.m)
    let r := roundAt mode neg q n e g sticky
    let w := (r.1 : Int) + (g + f.m + f.bias - 1) * 2 ^ f.m
    if (f.maxF : Int) < w then
      let gm := (f.maxF / 2 ^ f.m : Int) - f.bias - f.m
      let mx := f.maxF % 2 ^ f.m + 2 ^ f.m + 1
      let big := if gm ≤ e then decide (mx ≤ n * 2 ^ (e - gm).toNat) else decide (mx * 2 ^ (gm - e).toNat ≤ n)
      (f.overflowed mode neg big, { ovf := true, inx := true })
    else (f.signed neg w.toNat, { inx := r.2, unf := r.2 && decide (topExp n e < tiny) })

/-- An infinity converted into a format (R146). -/
def Fmt.ofInf (f : Fmt) (mode : Nat) (neg : Bool) : Nat × Fl :=
  if f.hasInf then (f.signed neg (f.maxF + 1), {})
  else if f.maxF = 7 || mode = 6 then (f.signed neg f.maxF, { inv := true })
  else (f.nan, { inv := true })

/-- A conversion of a value into a format (R148). -/
def Fmt.conv (f : Fmt) (mode q : Nat) (v : Fv) : Nat × Fl :=
  match v with
  | .nan sg => (f.nan, { inv := sg })
  | .inf neg => f.ofInf mode neg
  | .fin neg n e => f.round mode q neg n e

/-- A conversion of a value to an integer of w bits, two's complement (R149). -/
def toInt (w mode q : Nat) (v : Fv) : Nat × Fl :=
  match v with
  | .nan _ => (0, { inv := true })
  | .inf neg => (if neg then 2 ^ (w - 1) else 2 ^ (w - 1) - 1, { inv := true })
  | .fin neg n e =>
    if n = 0 then (0, {})
    else
      let r := roundAt (if mode = 6 then 0 else mode) neg q n e 0 false
      let x : Int := if neg then -(r.1 : Int) else (r.1 : Int)
      if (2 ^ (w - 1) - 1 : Int) < x then (2 ^ (w - 1) - 1, { inv := true })
      else if x < -(2 ^ (w - 1)) then (2 ^ (w - 1), { inv := true })
      else ((x % 2 ^ w).toNat, { inx := r.2 })

/-- An integer converted to FP32 (R149). -/
def ofInt32 (mode q : Nat) (v : Int) : Nat × Fl := fp32.round mode q (decide (v < 0)) v.natAbs 0

/-! ### Arithmetic in FP32 (R157, R159 to R161) -/

/-- A result lane: its bits and its flags. -/
abbrev Fr := Word × Fl

/-- The FP32 value of a lane. -/
def val32 (w : Word) : Fv := fp32.value w.toNat
/-- A lane result from encoding and flags. -/
def fr (r : Nat × Fl) : Fr := (BitVec.ofNat 32 r.1, r.2)
/-- The canonical NaN with invalid raised or not. -/
def frNan (inv : Bool) : Fr := (0x7FC00000#32, { inv })
/-- A signed infinity. -/
def frInf (neg : Bool) (f : Fl := {}) : Fr := (if neg then 0xFF800000#32 else 0x7F800000#32, f)
/-- A signed zero. -/
def frZero (neg : Bool) : Fr := (if neg then 0x80000000#32 else 0, {})

/-- A NaN operand is signalling. -/
def Fv.snan : Fv → Bool | .nan s => s | .inf _ => false | .fin _ _ _ => false
/-- An operand is a NaN. -/
def Fv.isNan : Fv → Bool | .nan _ => true | .inf _ => false | .fin _ _ _ => false
/-- An operand's sign. -/
def Fv.neg : Fv → Bool | .nan _ => false | .inf s => s | .fin s _ _ => s
/-- A value negated. -/
def Fv.negate : Fv → Fv | .nan s => .nan s | .inf s => .inf (!s) | .fin s n e => .fin (!s) n e
/-- A zero. -/
def Fv.isZero : Fv → Bool | .nan _ => false | .inf _ => false | .fin _ n _ => n = 0
/-- A NaN or an infinity. -/
def Fv.special : Fv → Bool | .nan _ => true | .inf _ => true | .fin _ _ _ => false

/-- The integer a finite value is of a unit 2^g, g at most its e. -/
def scaled (neg : Bool) (n : Nat) (e g : Int) : Int :=
  let v : Int := (n * 2 ^ (e - g).toNat : Nat)
  if neg then -v else v

/-- A sum of values that are not NaN, rounded (R157, R159). -/
def addFv (mode : Nat) (a b : Fv) : Fr :=
  match a, b with
  | .nan s, _ => frNan s
  | _, .nan s => frNan s
  | .inf x, .inf y => if x = y then frInf x else frNan true
  | .inf x, .fin _ _ _ => frInf x
  | .fin _ _ _, .inf y => frInf y
  | .fin x n e, .fin y k d =>
    let g := min e d
    let t := scaled x n e g + scaled y k d g
    if t = 0 then frZero (if n = 0 ∧ k = 0 then (if x = y then x else mode = 2) else mode = 2)
    else fr (fp32.round mode 0 (decide (t < 0)) t.natAbs g)

/-- A sum (R159). -/
def fadd (mode : Nat) (a b : Word) : Fr :=
  let x := val32 a
  let y := val32 b
  if x.isNan || y.isNan then frNan (x.snan || y.snan) else addFv mode x y

/-- A difference (R159). -/
def fsub (mode : Nat) (a b : Word) : Fr :=
  let x := val32 a
  let y := val32 b
  if x.isNan || y.isNan then frNan (x.snan || y.snan) else addFv mode x y.negate

/-- A product of values, exact; none for zero times infinity. -/
def mulFv (a b : Fv) : Option Fv :=
  match a, b with
  | .nan s, _ => some (.nan s)
  | _, .nan s => some (.nan s)
  | .inf x, .inf y => some (.inf (x != y))
  | .inf x, .fin y k _ => if k = 0 then none else some (.inf (x != y))
  | .fin x n _, .inf y => if n = 0 then none else some (.inf (x != y))
  | .fin x n e, .fin y k d => some (.fin (x != y) (n * k) (e + d))

/-- A product (R159). -/
def fmul (mode : Nat) (a b : Word) : Fr :=
  let x := val32 a
  let y := val32 b
  if x.isNan || y.isNan then frNan (x.snan || y.snan)
  else match mulFv x y with
    | none => frNan true
    | some (.nan _) => frNan false
    | some (.inf s) => frInf s
    | some (.fin s n e) => fr (fp32.round mode 0 s n e)

/-- A fused multiply-add: c is the addend (R160). -/
def ffma (mode : Nat) (a b c : Word) : Fr :=
  let x := val32 a
  let y := val32 b
  let z := val32 c
  if !x.isNan && !y.isNan && (mulFv x y).isNone then frNan true
  else if x.isNan || y.isNan || z.isNan then frNan (x.snan || y.snan || z.snan)
  else match mulFv x y with
    | none => frNan true
    | some p => addFv mode p z

/-- The exact quotient of magnitudes to 96 bits and more: quotient, exponent and whether something is cut. -/
def quotient (n : Nat) (e : Int) (k : Nat) (d : Int) : Nat × Int × Bool :=
  let sh := 96 + Nat.log2 k
  let q := n * 2 ^ sh / k
  (q, e - d - sh, decide (q * k ≠ n * 2 ^ sh))

/-- A quotient (R159). -/
def fdiv (mode : Nat) (a b : Word) : Fr :=
  let x := val32 a
  let y := val32 b
  if x.isNan || y.isNan then frNan (x.snan || y.snan)
  else match x, y with
    | .inf _, .inf _ => frNan true
    | .inf s, .fin t _ _ => frInf (s != t)
    | .fin s _ _, .inf t => frZero (s != t)
    | .fin s n e, .fin t k d =>
      if k = 0 then (if n = 0 then frNan true else frInf (s != t) { dz := true })
      else if n = 0 then frZero (s != t)
      else
        let r := quotient n e k d
        fr (fp32.round mode 0 (s != t) r.1 r.2.1 r.2.2)
    | .nan _, _ => frNan false
    | _, .nan _ => frNan false

/-- The integer square root, digit by digit: `i` digits to decide, `r` the root so far. -/
def isqrtGo (v : Nat) : Nat → Nat → Nat
  | 0, r => r
  | i + 1, r => if (r + 2 ^ i) * (r + 2 ^ i) ≤ v then isqrtGo v i (r + 2 ^ i) else isqrtGo v i r

/-- The integer square root. -/
def isqrt (v : Nat) : Nat := isqrtGo v (Nat.log2 v / 2 + 1) 0

/-- The reciprocal (R161). -/
def frcp (mode : Nat) (a : Word) : Fr := fdiv mode 0x3F800000#32 a

/-- The magnitude n × 2^e as n' × 2^(2h): n' and h. -/
def evenExp (n : Nat) (e : Int) : Nat × Int := if e % 2 = 0 then (n, e / 2) else (2 * n, (e - 1) / 2)

/-- The square root (R161). -/
def fsqrt (mode : Nat) (a : Word) : Fr :=
  match val32 a with
  | .nan s => frNan s
  | .inf s => if s then frNan true else frInf false
  | .fin s n e =>
    if n = 0 then frZero s
    else if s then frNan true
    else
      let x := evenExp n e
      let v := x.1 * 2 ^ 128
      let r := isqrt v
      fr (fp32.round mode 0 false r (x.2 - 64) (decide (r * r ≠ v)))

/-- The reciprocal square root (R161). -/
def frsq (mode : Nat) (a : Word) : Fr :=
  match val32 a with
  | .nan s => frNan s
  | .inf s => if s then frNan true else frZero false
  | .fin s n e =>
    if n = 0 then frInf s { dz := true }
    else if s then frNan true
    else
      let x := evenExp n e
      let r := isqrt (2 ^ 192 / x.1)
      fr (fp32.round mode 0 false r (-x.2 - 96) (decide (r * r * x.1 ≠ 2 ^ 192)))

/-- The natural logarithm of 2 in units of 2^-256. -/
def ln2 : Nat := 0xb17217f7d1cf79abc9e3b39803f2f6af40f343267298b62d8a0d175b8baafa2b

/-- The Taylor sum of e^x from term k on, in units of 2^-256: `t` is the present term. -/
def expSum (x : Nat) : Nat → Nat → Nat → Nat
  | 0, _, _ => 0
  | f + 1, k, t => t + expSum x f (k + 1) (t * x / 2 ^ 256 / (k + 1))

/-- 2^f for a fraction of 2^256, in units of 2^-256. The value is irrational for a fraction other than 0, and 256 bits tell it from
every rounding boundary of FP32. -/
def pow2Frac (f : Nat) : Nat := expSum (f * ln2 / 2 ^ 256) 80 0 (2 ^ 256)

/-- 2^a for a finite a, as a magnitude, its exponent and whether something is cut; far out of range it stays out of range. -/
def pow2 (neg : Bool) (n : Nat) (e : Int) : Nat × Int × Bool :=
  if 9 ≤ topExp n e then (1, if neg then -512 else 512, false)
  else
    let v : Int := scaled neg n e (-256)
    let f := (v % 2 ^ 256).toNat
    let i := v / 2 ^ 256
    if f = 0 then (1, i, false) else (pow2Frac f, i - 256, true)

/-- The base-2 exponential (R161). -/
def fexp2 (mode : Nat) (a : Word) : Fr :=
  match val32 a with
  | .nan s => frNan s
  | .inf s => if s then frZero false else frInf false
  | .fin s n e =>
    if n = 0 then (0x3F800000#32, {})
    else
      let r := pow2 s n e
      fr (fp32.round mode 0 false r.1 r.2.1 r.2.2)

/-- The series of the inverse hyperbolic tangent from term 2k + 1 on, in units of 2^-256: `t` is z to that power, `z2` z squared. -/
def atanhSum (z2 : Nat) : Nat → Nat → Nat → Nat
  | 0, _, _ => 0
  | f + 1, k, t => t / (2 * k + 1) + atanhSum z2 f (k + 1) (t * z2 / 2 ^ 256)

/-- The base-2 logarithm of n × 2^e in units of 2^-256, and whether something is cut: none is for a power of two; every other value is
irrational, and 256 bits tell it from every rounding boundary of FP32. -/
def log2Fixed (n : Nat) (e : Int) : Int × Bool :=
  let l := Nat.log2 n
  let i : Int := (l : Int) + e
  if n = 2 ^ l then (i * 2 ^ 256, false)
  else
    let z := (n - 2 ^ l) * 2 ^ 256 / (n + 2 ^ l)
    let ln := 2 * atanhSum (z * z / 2 ^ 256) 90 0 z
    (i * 2 ^ 256 + (ln * 2 ^ 256 / ln2 : Nat), true)

/-- The base-2 logarithm (R161). -/
def flog2 (mode : Nat) (a : Word) : Fr :=
  match val32 a with
  | .nan s => frNan s
  | .inf s => if s then frNan true else frInf false
  | .fin s n e =>
    if n = 0 then frInf true { dz := true }
    else if s then frNan true
    else
      let r := log2Fixed n e
      fr (fp32.round mode 0 (decide (r.1 < 0)) r.1.natAbs (-256) r.2)

/-! ### Order (R163, R164, R168) -/

/-- An integer that orders FP32 numbers, −0 below +0: for encodings that are not NaN. -/
def orderKey (w : Word) : Int := if w.toNat < 2 ^ 31 then (w.toNat : Int) else -((w.toNat : Int) - 2 ^ 31) - 1

/-- The lesser (or greater) of two numbers (R163). -/
def pick (max : Bool) (a b : Word) : Word :=
  if max then (if orderKey a < orderKey b then b else a) else (if orderKey b < orderKey a then b else a)

/-- FMIN and FMAX, FMINN and FMAXN (R163). -/
def fminmax (max prefer : Bool) (a b : Word) : Fr :=
  let x := val32 a
  let y := val32 b
  let fl : Fl := { inv := x.snan || y.snan }
  if x.isNan && y.isNan then (0x7FC00000#32, fl)
  else if x.isNan then (if prefer then b else 0x7FC00000#32, fl)
  else if y.isNan then (if prefer then a else 0x7FC00000#32, fl)
  else (pick max a b, fl)

/-- The order of numbers with +0 equal to −0. -/
def eqKey (w : Word) : Int := if w = 0x80000000#32 then 0 else if w.toNat < 2 ^ 31 then (w.toNat : Int) else -((w.toNat : Int) - 2 ^ 31)

/-- FCMP (R164): 0 EQ, 1 NE, 2 LT, 3 LE, 4 UN. -/
def fcmp (m : Nat) (a b : Word) : Fr :=
  let x := val32 a
  let y := val32 b
  let un := x.isNan || y.isNan
  let r := if un then decide (m = 1 ∨ m = 4)
    else if m = 0 then decide (eqKey a = eqKey b) else if m = 1 then decide (eqKey a ≠ eqKey b)
    else if m = 2 then decide (eqKey a < eqKey b) else if m = 3 then decide (eqKey a ≤ eqKey b) else false
  (if r then 0xFFFFFFFF#32 else 0, { inv := if m = 2 ∨ m = 3 then un else x.snan || y.snan })

/-! ### Scales (R141 to R143) -/

/-- An element under an E8M0 scale (R141): the canonical quiet NaN under the NaN scale. -/
def e8m0Value (v : Fv) (x : Nat) : Fv :=
  if x = 255 then .nan false
  else match v with
    | .fin s n e => .fin s n (e + x - 127)
    | .nan s => .nan s
    | .inf s => .inf s

/-- An S24 scale as a magnitude and exponent; none for the NaN scale (R142). -/
def s24Value (w : Nat) : Option (Nat × Int) :=
  let se := bitsN w 23 16
  let sf := w % 2 ^ 16
  if bitsN w 31 24 ≠ 0 ∨ se = 255 then none
  else if se = 0 then some (sf, -142)
  else some (65536 + sf, (se : Int) - 143)

/-- An element under an S24 scale, with no second operand (R143): its value and whether that raises invalid. -/
def s24Times (v : Fv) (w : Nat) : Fv × Bool :=
  match s24Value w with
  | none => (.nan false, false)
  | some (k, d) =>
    match v with
    | .nan s => (.nan false, s)
    | .inf s => if k = 0 then (.nan false, true) else (.inf s, false)
    | .fin s n e => (.fin s (n * k) (e + d), false)

/-- The format an element of a format code is written in (R135): block formats by their element format. -/
def fmtOf (code : Nat) : Fmt :=
  if code = 0 then fp32 else if code = 1 then fp16 else if code = 2 then bf16 else if code = 3 then e4m3
  else if code = 4 then e5m2 else if code = 5 then e2m1 else if code = 6 then e4m3 else if code = 7 then e5m2 else fp32

/-- Element width in bits by format code (R135). -/
def fmtBits (code : Nat) : Nat :=
  if code = 0 ∨ code = 9 then 32 else if code = 1 ∨ code = 2 then 16 else if code = 5 then 4 else 8

/-! ### Tile headers (R150 to R152) -/

/-- A header a decoder accepts (R152). -/
def headerOk (h : Nat) : Bool :=
  let f := bitsN h 63 60
  let b := bitsN h 59 58
  let contiguous := if h.testBit 57 then bitsN h 55 44 + 1 else bitsN h 43 32 + 1
  let bs := if b = 1 then 16 else if b = 2 then 32 else 1
  decide (f ≤ 9) && decide (b ≠ 3)
    && (if f = 5 then decide (b = 2) else if f = 6 ∨ f = 7 then decide (b = 1 ∨ b = 2) else decide (b = 0))
    && decide (contiguous % bs = 0) && decide (bitsN h 15 12 = 0)

end Sys2Proof.Machine
end

