-- ==== Sys2Proof/Machine/Channel.lean ====
section
/-! DEFINITION. Channel and token instructions of the C-strips (R226 to R256). A managed instruction is a plan, built from the heads
and the slot state at the start of the cycle: what it takes, what it strands, what it emits. No plan means that it does not fire. -/

namespace Sys2Proof.Machine

/-! ### Plans -/

/-- A token a plan emits: a token of its own or a forwarded one, or Poison(code) of this firing. -/
inductive PTok where
  | tok (t : Token)
  | bad (code : Nat)
  deriving DecidableEq, Repr

/-- A firing of a managed instruction (R226): inputs taken, inputs stranded, tokens by output, outputs that need space without a
token, the new slot state, an output tag. -/
structure Plan where
  takes : List Nat := []
  strands : List Nat := []
  emits : List (Nat × PTok) := []
  needs : List Nat := []
  slot : SlotState := {}
  otag : Option (Nat × BitVec 4) := none
  deriving DecidableEq, Repr

/-- The outputs a plan needs empty (R226). -/
def Plan.outs (p : Plan) : List Nat := p.emits.map Prod.fst ++ p.needs

/-- Poison(code) of the firing in hand, as an instruction builds it on output k (R227). -/
def State.poisonOn (s : State) (k code : Nat) : Token := { s.myPoison code with tag := s.my.otag k }

/-- A plan's token for output k: forwarding sets CTX and SYS alone (R227). -/
def State.planTok (s : State) (k : Nat) : PTok → Token
  | .tok t => s.stamp s.cur.cid t
  | .bad c => s.stamp s.cur.cid (s.poisonOn k c)

/-- The firing a plan gives; without one nothing happens. -/
def State.runPlan (s : State) (lat : Nat) (p : Option Plan) : Out :=
  match p with
  | none => .next s
  | some p =>
    let s1 := s.updCtx s.cur.cid fun k => k.setSlot s.cur.slot p.slot
    let s2 := s1.countStranded s.cur.cid p.strands.length
    s2.finish lat (p.emits.map (fun e => .emit e.1 (s.planTok e.1 e.2))
      ++ (match p.otag with | some (k, t) => [.otag k t] | none => [])) (p.takes ++ p.strands)

/-- The slot state of the firing in hand. -/
def State.slotNow (s : State) : SlotState := s.my.slotState s.cur.slot

/-- The input a source names. -/
def srcIn (a : Src) : Option Nat :=
  match a with | .inp k => some k.toNat | .v _ => none | .x _ => none | .lane => none | .zero => none | .lit _ => none
/-- The input a source names, 0 if it names none. -/
def inNo (a : Src) : Nat := (srcIn a).getD 0

/-! ### Pairs of heads (R229, R231) -/

/-- What a pair of heads does: whether the control and the data head are consumed, which of them is stranded, the token for every
output, whether the slot state is cleared. -/
structure Pair where
  takeC : Bool := false
  takeD : Bool := false
  strandC : Bool := false
  strandD : Bool := false
  tok : Option PTok := none
  clear : Bool := false
  deriving DecidableEq, Repr

/-- The table of R229 for a control head c and a data head d that are not both DATA; none where R231 lets nothing fire. A MARK or EOS
control that faces a POISON data head is consumed with it, as R239 has it (log entry 10). -/
def pairRule (c d : Token) : Option Pair :=
  if d.kind = kPOISON then
    (if c.kind = kDRAIN then some { takeD := true, tok := some (.tok d) } else some { takeC := true, takeD := true, tok := some (.tok d) })
  else if c.kind = kPOISON then
    some { takeC := true, takeD := d.kind = kDATA ∨ d.kind = kMARK, tok := some (.tok c) }
  else if c.kind = kDRAIN ∨ d.kind = kDRAIN then
    (if c.kind = d.kind then some { takeC := true, takeD := true, tok := some (.tok d) } else none)
  else if c.kind = kEOS ∧ d.kind = kEOS then some { takeC := true, takeD := true, tok := some (.tok d), clear := true }
  else if c.kind = kEOS then some { strandD := true }
  else if d.kind = kEOS then some { strandC := true }
  else if c.kind = kMARK ∧ d.kind = kMARK ∧ c.tag = d.tag then some { takeC := true, takeD := true, tok := some (.tok d) }
  else some { takeC := true, takeD := true, tok := some (.bad 0x41) }

/-- The plan of a pair with control input ck, data input dk and the outputs that receive its token. -/
def Pair.plan (r : Pair) (st : SlotState) (ck dk : Nat) (outs : List Nat) : Plan :=
  { takes := (if r.takeC then [ck] else []) ++ (if r.takeD then [dk] else []),
    strands := (if r.strandC then [ck] else []) ++ (if r.strandD then [dk] else []),
    emits := match r.tok with | some t => outs.map fun o => (o, t) | none => [],
    slot := if r.clear then {} else st }

/-- A head forwarded alone to outputs and consumed; an EOS clears the slot state (R228, R236). -/
def alone (st : SlotState) (t : Token) (k : Nat) (outs : List Nat) : Plan :=
  { takes := [k], emits := outs.map fun o => (o, .tok t), slot := if t.kind = kEOS then {} else st }

/-- A control value: SCALAR, or lane 0 of a vector, as 64 bits (R236). -/
def Token.ctl (t : Token) : Nat := if t.sc then t.scalar.toNat else (t.lanes.get 0).toNat

/-- A data head with its control: a finished plan where the structural rows decide, nothing where a head is missing, or the control
value to act on with the inputs a DATA firing takes. -/
inductive Heads where
  | wait
  | decided (p : Plan)
  | data (t : Token) (value : Nat) (takes : List Nat)
  deriving DecidableEq, Repr

/-- The heads of an instruction with data on input a and control b (R229, R236). -/
def State.heads (s : State) (a b : Src) (outs : List Nat) : Heads :=
  let j := inNo a
  match s.headOpt j with
  | none => .wait
  | some t =>
    match srcIn b with
    | none => if t.kind = kDATA then .data t (s.ctlVal b).toNat [j] else .decided (alone s.slotNow t j outs)
    | some ck =>
      match s.headOpt ck with
      | none => .wait
      | some c =>
        if c.kind = kDATA ∧ t.kind = kDATA then .data t c.ctl [j, ck]
        else match pairRule c t with
          | none => .wait
          | some r => .decided (r.plan s.slotNow ck j outs)

/-- The output number of a destination. -/
def outNo (d : Dst) : Nat := match d with | .out k => k.toNat | .v _ => 0 | .x _ => 0 | .null => 0

/-! ### Steering and loops (R237 to R241) -/

/-- The lanes in which a control holds (R237): each lane of a vector, or one value for all. -/
def State.ctlLanes (s : State) (b : Src) : Mask :=
  match b with
  | .inp k =>
    let t := s.head k.toNat
    if t.sc then (if t.scalar = 0 then 0 else Mask.full) else Mask.gen fun i => t.lanes.get i != 0
  | .v k => Mask.gen fun i => (s.my.v k.toNat).get i != 0
  | .x _ => if s.ctlVal b = 0 then 0 else Mask.full
  | .lane => 0
  | .zero => 0
  | .lit _ => if s.ctlVal b = 0 then 0 else Mask.full

/-- A vector token cut to a mask, lanes outside it reading zero. -/
def Token.under (t : Token) (m : Mask) : Token := { t with mask := t.mask &&& m, lanes := Vec.clear (t.mask &&& m) t.lanes }

/-- STEER's plan (R237). -/
def State.planSteer (s : State) (d : Dst) (a b : Src) (lane : Bool) : Option Plan :=
  let k := outNo d
  match s.heads a b [k, k + 1] with
  | .wait => none
  | .decided p => some p
  | .data t v takes =>
    if lane ∧ t.sc = false then
      let m := s.ctlLanes b
      let yes := t.under m
      let no := t.under (~~~ m)
      some { takes, emits := (if yes.mask = 0 then [] else [(k + 1, .tok yes)]) ++ (if no.mask = 0 then [] else [(k, .tok no)]),
             needs := [k, k + 1], slot := s.slotNow }
    else some { takes, emits := [(if v ≠ 0 then k + 1 else k, .tok t)], slot := s.slotNow }

/-- STEER (R237). -/
def execSteer (d : Dst) (a b : Src) (m : BitVec 1) (s : State) : Out := s.runPlan 1 (s.planSteer d a b (m == 1))

/-- SWITCH's plan (R238): n is M + 1. -/
def State.planSwitch (s : State) (d : Dst) (a b : Src) (n : Nat) : Option Plan :=
  let outs := rangeFrom (outNo d) n
  match s.heads a b outs with
  | .wait => none
  | .decided p => some p
  | .data t v takes =>
    if v < n then some { takes, emits := [(outNo d + v, .tok t)], slot := s.slotNow }
    else some { takes, emits := outs.map fun o => (o, .bad 0x43), slot := s.slotNow }

/-- SWITCH (R238). -/
def execSwitch (d : Dst) (a b : Src) (m : BitVec 3) (s : State) : Out := s.runPlan 1 (s.planSwitch d a b (m.toNat + 1))

/-- LEXIT's plan (R239). -/
def State.planLexit (s : State) (d : Dst) (a b : Src) : Option Plan :=
  let k := outNo d
  let j := inNo a
  match s.headOpt j with
  | none => none
  | some t =>
    let ctl := match srcIn b with | some ck => (s.headOpt ck).map fun c => (ck, c) | none => none
    if t.kind = kPOISON then
      match srcIn b, ctl with
      | some _, none => none
      | some _, some (ck, _) => some { takes := [j, ck], emits := [(k, .tok t)], slot := s.slotNow }
      | none, _ => some { takes := [j], emits := [(k, .tok t)], slot := s.slotNow }
    else
      match ctl with
      | some (ck, c) =>
        if c.kind = kPOISON then (pairRule c t).map fun r => r.plan s.slotNow ck j [k, k + 1]
        else if t.kind ≠ kDATA then some (alone s.slotNow t j [k])
        else if c.kind = kDATA then some { takes := [j, ck], emits := [(if c.ctl ≠ 0 then k + 1 else k, .tok t)], slot := s.slotNow }
        else if c.kind = kDRAIN then none
        else some { takes := [ck, j], emits := [(k, .bad 0x41), (k + 1, .bad 0x41)], slot := s.slotNow }
      | none =>
        if t.kind ≠ kDATA then some (alone s.slotNow t j [k])
        else match srcIn b with
          | some _ => none
          | none => some { takes := [j], emits := [(if (s.ctlVal b) ≠ 0 then k + 1 else k, .tok t)], slot := s.slotNow }

/-- LEXIT (R239). -/
def execLexit (d : Dst) (a b : Src) (s : State) : Out := s.runPlan 1 (s.planLexit d a b)

/-- A structural control of MERGE with both data heads (R240): one token, all three consumed, and a data poison is that token; a head that faces
an EOS is stranded; a DRAIN stays where a poison goes (R231). -/
def mergeStructural (st : SlotState) (c ta tb : Token) (ck ja jb k : Nat) : Option Plan :=
  match pairRule c ta, pairRule c tb with
  | some ra, some rb =>
    if ra.strandC ∨ rb.strandC then some { strands := [ck], slot := st }
    else if ra.strandD then some { strands := [ja], slot := st }
    else if rb.strandD then some { strands := [jb], slot := st }
    else if c.kind = kDRAIN ∧ ta.kind = kPOISON then some (ra.plan st ck ja [k])
    else if c.kind = kDRAIN ∧ tb.kind = kPOISON then some (rb.plan st ck jb [k])
    else if ta.kind = kPOISON ∨ tb.kind = kPOISON then
      some { takes := [ck, ja, jb], emits := [(k, .tok (if ta.kind = kPOISON then ta else tb))], slot := st }
    else
      let bad := ra.tok = some (.bad 0x41) ∨ rb.tok = some (.bad 0x41)
      some { takes := [ck, ja, jb], emits := [(k, if bad then .bad 0x41 else .tok ta)], slot := st }
  | none, _ => none
  | _, none => none

/-- MERGE's plan: S1 control, S2 inA, M the index of inB (R240). -/
def State.planMerge (s : State) (d : Dst) (a b : Src) (m : Nat) : Option Plan :=
  let k := outNo d
  let ja := inNo b
  let sel (v : Nat) : Nat := if v = 0 then ja else m
  match srcIn a with
  | none =>
    let j := sel (s.ctlVal a).toNat
    (s.headOpt j).map fun t => alone s.slotNow t j [k]
  | some ck =>
    match s.headOpt ck with
    | none => none
    | some c =>
      if c.kind = kPOISON then some { takes := [ck], emits := [(k, .tok c)], slot := s.slotNow }
      else if c.kind = kDATA then
        match s.headOpt (sel c.ctl) with
        | none => none
        | some t =>
          if t.kind = kDATA then some { takes := [sel c.ctl, ck], emits := [(k, .tok t)], slot := s.slotNow }
          else (pairRule c t).map fun r => r.plan s.slotNow ck (sel c.ctl) [k]
      else
        match s.headOpt ja, s.headOpt m with
        | some ta, some tb => mergeStructural s.slotNow c ta tb ck ja m k
        | none, _ => none
        | _, none => none

/-- MERGE (R240). -/
def execMerge (d : Dst) (a b : Src) (m : BitVec 3) (s : State) : Out := s.runPlan 1 (s.planMerge d a b m.toNat)

/-- GATE's data side once a count stands (R241). -/
def gateData (st : SlotState) (t : Token) (j k : Nat) : Plan :=
  if t.kind = kEOS then { emits := [(k, .bad 0x41)], slot := { st with loaded := false } }
  else if t.kind = kDATA ∨ t.kind = kPOISON then
    { takes := [j], emits := [(k, .tok t)], slot := { st with rem := st.rem - 1, loaded := st.rem - 1 != 0 } }
  else { takes := [j], emits := [(k, .tok t)], slot := { st with loaded := true } }

/-- GATE's plan (R241). A register count is read whenever LOADED is 0, and acts on the data head of the same firing. -/
def State.planGate (s : State) (d : Dst) (a b : Src) : Option Plan :=
  let k := outNo d
  let j := inNo a
  let st := s.slotNow
  if st.loaded then (s.headOpt j).map fun t => gateData st t j k
  else match srcIn b with
    | some ck =>
      match s.headOpt ck with
      | none => none
      | some c =>
        if c.kind = kDATA then
          some { takes := [ck], slot := { st with rem := c.ctl % 2 ^ 32, loaded := c.ctl % 2 ^ 32 != 0 } }
        else match s.headOpt j with
          | none => none
          | some t => (pairRule c t).map fun r => r.plan st ck j [k]
    | none =>
      match s.headOpt j with
      | none => none
      | some t =>
        let n := (s.ctlVal b).toNat % 2 ^ 32
        if t.kind ≠ kDATA ∧ t.kind ≠ kPOISON then some (alone st t j [k])
        else if n = 0 then none
        else some (gateData { st with rem := n, loaded := true } t j k)

/-- GATE (R241). -/
def execGate (d : Dst) (a b : Src) (s : State) : Out := s.runPlan 1 (s.planGate d a b)

/-! ### Copies, zips and tags (R242 to R246) -/

/-- DUP's plan (R242). -/
def State.planDup (s : State) (d : Dst) (a : Src) (n : Nat) : Option Plan :=
  (s.headOpt (inNo a)).map fun t =>
    { takes := [inNo a], emits := (rangeFrom (outNo d) n).map fun o => (o, .tok t), slot := s.slotNow }

/-- DUP: n outputs, n from 2 to 4 (R242). -/
def execDup (d : Dst) (a : Src) (n : BitVec 2) (s : State) : Out := s.runPlan 1 (s.planDup d a (n.toNat + 2))

/-- ZIPT's plan (R243). -/
def State.planZipt (s : State) (d : Dst) (a b : Src) : Option Plan :=
  let k := outNo d
  let st := s.slotNow
  let j := if st.side then inNo b else inNo a
  match s.headOpt j with
  | none => none
  | some t =>
    if t.kind = kDATA ∨ t.kind = kPOISON then
      some { takes := [j], emits := [(k, .tok { t with tag := s.my.otag k + (if st.side then 1 else 0) })],
             slot := { st with side := !st.side } }
    else if st.side then none
    else match s.headOpt (inNo b) with
      | none => none
      | some tb => (pairRule t tb).map fun r => r.plan st (inNo a) (inNo b) [k]

/-- ZIPT (R243). -/
def execZipt (d : Dst) (a b : Src) (s : State) : Out := s.runPlan 1 (s.planZipt d a b)

/-- Tags of a window that are outstanding, counting those freed behind an older one (R90) and those that left the window in this cycle
(R78). -/
def Resident.outstanding (r : Resident) (now : Nat) : Nat := r.tags.length + (if r.gone.1 = now then r.gone.2 else 0)
/-- The window takes the next tag. -/
def Resident.takeTag (r : Resident) : Resident := { r with nextTag := r.nextTag + 1, tags := r.tags ++ [⟨r.nextTag, false⟩] }
/-- Oldest tags that are freed leave the window. -/
def popFreed : List TagSlot → List TagSlot
  | [] => []
  | t :: l => if t.freed then popFreed l else t :: l
/-- A tag is outstanding and not freed. -/
def Resident.tagHeld (r : Resident) (t : BitVec 4) : Bool := r.tags.any fun x => x.tag == t && !x.freed
/-- A tag freed in a cycle (R90); the places it gives back count from the next cycle on (R78). -/
def Resident.freeTag (r : Resident) (t : BitVec 4) (now : Nat) : Resident :=
  let l := popFreed (r.tags.map fun x => if x.tag = t then { x with freed := true } else x)
  { r with tags := l, gone := (now, (if r.gone.1 = now then r.gone.2 else 0) + (r.tags.length - l.length)) }

/-- TALLOC: takes the next tag of the configuration's window (R244). -/
def execTalloc (d : Dst) (g : BitVec 4) (st : BitVec 1) (s : State) : Out :=
  match s.res s.cur.cid with
  | none => s.done
  | some r =>
    (s.updRes s.cur.cid Resident.takeTag).finish 2
      (s.write d (.sca (r.nextTag.setWidth 64)) 0 ++ (if st = 1 then [.otag g.toNat r.nextTag] else []))

/-- The tag TFREE names. -/
def State.freeTagOf (s : State) (a : Src) (g : BitVec 4) : BitVec 4 :=
  match a with
  | .zero => g
  | .inp _ => (s.srcSca a).setWidth 4
  | .x _ => (s.srcSca a).setWidth 4
  | .v _ => (s.srcSca a).setWidth 4
  | .lane => (s.srcSca a).setWidth 4
  | .lit _ => (s.srcSca a).setWidth 4

/-- TFREE: a tag that is not outstanding is the precise trap TAGFREE (R245). -/
def execTfree (a : Src) (g : BitVec 4) (s : State) : Out :=
  match s.poisoned [a] with
  | some p => (s.countPoison s.cur.cid p).done
  | none =>
    match s.res s.cur.cid with
    | none => s.done
    | some r =>
      let t := s.freeTagOf a g
      if r.tagHeld t then (s.updRes s.cur.cid fun r => r.freeTag t s.cycle).done else s.trap 0x05

/-- TROUTE's plan (R246). -/
def State.planTroute (s : State) (d : Dst) (a : Src) (g : BitVec 4) (v : Bool) : Option Plan :=
  (s.headOpt (inNo a)).map fun t =>
    if t.kind = kDATA then
      let u : BitVec 4 := if v then BitVec.ofNat 4 t.ctl else g
      { takes := [inNo a], emits := [(outNo d, .tok { t with tag := u })], slot := s.slotNow, otag := some (outNo d, u) }
    else { takes := [inNo a], emits := [(outNo d, .tok t)], slot := s.slotNow }

/-- TROUTE (R246). -/
def execTroute (d : Dst) (a : Src) (g : BitVec 4) (v : BitVec 1) (s : State) : Out := s.runPlan 1 (s.planTroute d a g (v == 1))

/-! ### Fibres (R247, R248) -/

/-- The valid lanes of a DATA head in ascending order; a scalar head counts as one lane (log entry 10). -/
def Token.valid (t : Token) : List Word := if t.sc then [t.scalar.setWidth 32] else t.mask.list.map t.lanes.get

/-- One output row of ISECT or UNION: coordinate, position in A, position in B. -/
abbrev Row3 := Nat × Nat × Nat
/-- The position of a side that a coordinate does not come from. -/
def noPos : Nat := 2 ^ 32 - 1

/-- The progress of a fibre walk: rows so far, newest first, the slot state, and the side whose coordinate broke the order. -/
structure Walk where
  rows : List Row3
  st : SlotState
  bad : Option Bool
  deriving DecidableEq, Repr

/-- A coordinate of side A (or B) is out of order (R247). -/
def SlotState.disorder (st : SlotState) (b : Bool) (x : Nat) : Bool :=
  if b then st.hb && decide (x ≤ st.lb) else st.ha && decide (x ≤ st.la)
/-- A coordinate taken from side A (or B). -/
def SlotState.take (st : SlotState) (b : Bool) (x : Nat) : SlotState :=
  if b then { st with cb := st.cb + 1, pb := (st.pb + 1) % 2 ^ 32, lb := x, hb := true }
  else { st with ca := st.ca + 1, pa := (st.pa + 1) % 2 ^ 32, la := x, ha := true }

/-- Both heads DATA: the walk of R247. -/
def walkBoth (uni : Bool) (va vb : List Word) : Nat → Walk → Walk
  | 0, w => w
  | f + 1, w =>
    match va[w.st.ca]?, vb[w.st.cb]? with
    | some a, some b =>
      if 192 ≤ w.rows.length then w
      else if w.st.disorder false a.toNat then { w with bad := some false }
      else if w.st.disorder true b.toNat then { w with bad := some true }
      else if a.toNat < b.toNat then
        walkBoth uni va vb f { w with rows := if uni then (a.toNat, w.st.pa, noPos) :: w.rows else w.rows, st := w.st.take false a.toNat }
      else if b.toNat < a.toNat then
        walkBoth uni va vb f { w with rows := if uni then (b.toNat, noPos, w.st.pb) :: w.rows else w.rows, st := w.st.take true b.toNat }
      else
        walkBoth uni va vb f { w with rows := (a.toNat, w.st.pa, w.st.pb) :: w.rows,
                                      st := (w.st.take false a.toNat).take true b.toNat }
    | none, _ => w
    | _, none => w

/-- One head DATA, the other MARK or EOS: its remaining coordinates (R247). -/
def walkOne (uni side : Bool) : List Word → Walk → Walk
  | [], w => w
  | x :: t, w =>
    if uni ∧ 192 ≤ w.rows.length then w
    else if w.st.disorder side x.toNat then { w with bad := some side }
    else
      walkOne uni side t
        { w with rows := if uni then (if side then (x.toNat, noPos, w.st.pb) else (x.toNat, w.st.pa, noPos)) :: w.rows else w.rows,
                 st := w.st.take side x.toNat }

/-- The token of one column of the rows. -/
def columnTok (s : State) (o : Nat) (c : List Nat) : PTok :=
  .tok (vecTok (s.my.otag o) (Mask.first c.length) (Vec.ofList (c.map fun x => BitVec.ofNat 32 x)))

/-- The plan of a walk: heads exhausted are consumed with their cursors, rows go out; a coordinate out of order consumes its head,
puts FIBREORD on every enabled output, and keeps the rest of the state as the firing had it when it ended. -/
def State.walkPlan (s : State) (w : Walk) (ja jb k : Nat) (pa pb : Bool) (endA endB : Bool) : Plan :=
  let outs := [k] ++ (if pa then [k + 1] else []) ++ (if pb then [k + 2] else [])
  match w.bad with
  | some side =>
    { takes := [if side then jb else ja], emits := outs.map fun o => (o, .bad 0x42),
      slot := if side then { w.st with cb := 0 } else { w.st with ca := 0 } }
  | none =>
    let rows := w.rows.reverse
    { takes := (if endA then [ja] else []) ++ (if endB then [jb] else []),
      emits := if rows.isEmpty then [] else
        [(k, columnTok s k (rows.map fun r => r.1))]
          ++ (if pa then [(k + 1, columnTok s (k + 1) (rows.map fun r => r.2.1))] else [])
          ++ (if pb then [(k + 2, columnTok s (k + 2) (rows.map fun r => r.2.2))] else []),
      slot := { w.st with ca := if endA then 0 else w.st.ca, cb := if endB then 0 else w.st.cb } }

/-- A kind of head that ends the data of a fibre. -/
def Token.closes (t : Token) : Bool := t.kind = kMARK || t.kind = kEOS

/-- A head that leaves takes its cursor with it, and a MARK ends the fibre of its input: its flag is clear (R247). -/
def SlotState.leave (st : SlotState) (goA goB markA markB : Bool) : SlotState :=
  { st with ca := if goA then 0 else st.ca, cb := if goB then 0 else st.cb, ha := st.ha && !(goA && markA), hb := st.hb && !(goB && markB) }

/-- The plan of ISECT and UNION (R247). -/
def State.planFibres (s : State) (uni : Bool) (d : Dst) (a b : Src) (pb pa : Bool) : Option Plan :=
  let k := outNo d
  let ja := inNo a
  let jb := inNo b
  let st := s.slotNow
  match s.headOpt ja, s.headOpt jb with
  | some ta, some tb =>
    if ta.kind = kDATA ∧ tb.kind = kDATA then
      let w := walkBoth uni ta.valid tb.valid 400 ⟨[], st, none⟩
      some (s.walkPlan w ja jb k pa pb (decide (ta.valid.length ≤ w.st.ca)) (decide (tb.valid.length ≤ w.st.cb)))
    else if ta.kind = kDATA ∧ tb.closes then
      let w := walkOne uni false (ta.valid.drop st.ca) ⟨[], st, none⟩
      some (s.walkPlan w ja jb k pa pb (decide (ta.valid.length ≤ w.st.ca)) false)
    else if tb.kind = kDATA ∧ ta.closes then
      let w := walkOne uni true (tb.valid.drop st.cb) ⟨[], st, none⟩
      some (s.walkPlan w ja jb k pa pb false (decide (tb.valid.length ≤ w.st.cb)))
    else
      let outs := [k] ++ (if pa then [k + 1] else []) ++ (if pb then [k + 2] else [])
      (pairRule ta tb).map fun r =>
        let p := r.plan st ja jb outs
        if ta.kind = kMARK ∧ tb.kind = kMARK ∧ ta.tag = tb.tag then
          { p with slot := { st with pa := 0, pb := 0, la := 0, lb := 0, ha := false, hb := false } }
        else { p with slot := if r.clear then {} else st.leave (r.takeC || r.strandC) (r.takeD || r.strandD) (ta.kind == kMARK) (tb.kind == kMARK) }
  | none, _ => none
  | _, none => none

/-- ISECT (R247). -/
def execIsect (d : Dst) (a b : Src) (q p : BitVec 1) (s : State) : Out := s.runPlan 2 (s.planFibres false d a b (q == 1) (p == 1))
/-- UNION (R247). -/
def execUnion (d : Dst) (a b : Src) (q p : BitVec 1) (s : State) : Out := s.runPlan 2 (s.planFibres true d a b (q == 1) (p == 1))

/-- The end of a fibre once REM has reached 0. -/
def SlotState.closeFibre (st : SlotState) : SlotState := if st.rem = 0 then { st with loaded := false, pending := true } else st

/-- FIBRE with a length loaded (R248). -/
def State.fibreData (s : State) (t : Token) (j k l : Nat) : Plan :=
  let st := s.slotNow
  if t.kind = kEOS then { emits := [(k, .bad 0x41)], slot := { st with loaded := false } }
  else if t.kind = kMARK ∧ l ≤ t.tag.toNat then { takes := [j], emits := [(k, .bad 0x41)], slot := { st with loaded := false } }
  else if t.kind = kDRAIN ∨ t.kind = kPOISON then { takes := [j], emits := [(k, .tok t)], slot := st }
  else if l = 0 then
    let v := t.valid
    let n := min st.rem (v.length - st.cur)
    let fin := decide (v.length ≤ st.cur + n)
    { takes := if fin then [j] else [],
      emits := if n = 0 then [] else [(k, .tok (vecTok (s.my.otag k) (Mask.first n) (Vec.ofList ((v.drop st.cur).take n))))],
      slot := ({ st with rem := st.rem - n, cur := if fin then 0 else st.cur + n } : SlotState).closeFibre }
  else if t.kind = kMARK ∧ t.tag.toNat + 1 = l then
    { takes := [j], emits := [(k, .tok t)], slot := ({ st with rem := st.rem - 1 } : SlotState).closeFibre }
  else { takes := [j], emits := [(k, .tok t)], slot := st }

/-- FIBRE's plan (R248). -/
def State.planFibre (s : State) (d : Dst) (a b : Src) (l : Nat) : Option Plan :=
  let k := outNo d
  let j := inNo a
  let st := s.slotNow
  let load (n : Nat) (takes : List Nat) : Plan :=
    { takes, slot := { st with rem := n, loaded := n != 0, pending := decide (n = 0) } }
  if st.pending then
    some { emits := [(k, .tok (markTok l true (BitVec.ofNat 64 st.ord)))], slot := { st with ord := st.ord + 1, pending := false } }
  else if st.loaded then (s.headOpt j).map fun t => s.fibreData t j k l
  else match srcIn b with
    | some ck =>
      match s.headOpt ck with
      | none => none
      | some c =>
        if c.kind = kDATA then some (load (c.ctl % 2 ^ 32) [ck])
        else match s.headOpt j with
          | none => none
          | some t => (pairRule c t).map fun r => r.plan (if r.takeD || r.strandD then { st with cur := 0 } else st) ck j [k]
    | none =>
      match s.headOpt j with
      | none => none
      | some t => if t.kind = kDATA then some (load ((s.ctlVal b).toNat % 2 ^ 32) []) else some (alone st t j [k])

/-- FIBRE (R248). -/
def execFibre (d : Dst) (a b : Src) (m : BitVec 3) (s : State) : Out := s.runPlan 1 (s.planFibre d a b m.toNat)

/-! ### Lanes (R249 to R252) -/

/-- A run of lanes as a token on output k. -/
def State.runTok (s : State) (k : Nat) (l : List Word) : PTok := .tok (vecTok (s.my.otag k) (Mask.first l.length) (Vec.ofList l))

/-- PACKV's plan (R249). -/
def State.planPackv (s : State) (d : Dst) (a : Src) : Option Plan :=
  let k := outNo d
  let j := inNo a
  let st := s.slotNow
  (s.headOpt j).map fun t =>
    if t.kind = kDATA ∧ t.sc = false then
      let buf := st.buf ++ t.valid
      if 192 ≤ buf.length then
        { takes := [j], emits := [(k, s.runTok k (buf.take 192))], slot := { st with buf := buf.drop 192 } }
      else { takes := [j], slot := { st with buf } }
    else if st.buf.isEmpty then alone st t j [k]
    else { emits := [(k, s.runTok k st.buf)], slot := { st with buf := [] } }

/-- PACKV (R249). -/
def execPackv (d : Dst) (a : Src) (s : State) : Out := s.runPlan 1 (s.planPackv d a)

/-- SPLITV's plan (R250). -/
def State.planSplitv (s : State) (d : Dst) (a : Src) (w : Nat) : Option Plan :=
  let k := outNo d
  let j := inNo a
  let st := s.slotNow
  (s.headOpt j).map fun t =>
    if t.kind ≠ kDATA ∨ t.sc then alone st t j [k]
    else
      let live := (rangeFrom st.cur (192 / w - st.cur)).filter fun q => fld t.mask (w * q + w - 1) (w * q) ≠ 0
      match live with
      | [] => { takes := [j], slot := { st with cur := 0 } }
      | q :: rest =>
        { takes := if rest.isEmpty then [j] else [],
          emits := [(k, .tok (vecTok (s.my.otag k) (BitVec.ofNat 192 (fld t.mask (w * q + w - 1) (w * q)))
            (Vec.gen fun i => if i < w then t.lanes.get (w * q + i) else 0)))],
          slot := { st with cur := if rest.isEmpty then 0 else q + 1 } }

/-- SPLITV: pieces of 96, 64, 32 or 16 lanes (R250). -/
def execSplitv (d : Dst) (a : Src) (w : BitVec 2) (s : State) : Out :=
  s.runPlan 1 (s.planSplitv d a (if w = 0 then 96 else if w = 1 then 64 else if w = 2 then 32 else 16))

/-- The lanes COMPACT and ORDER select: under the mask and, for an input, valid in its token (R251). -/
def State.selected (s : State) (a : Src) : List Nat :=
  let m := match a with
    | .inp _ => s.my.regs.mask &&& s.validOf a
    | .v _ => s.my.regs.mask
    | .x _ => s.my.regs.mask
    | .lane => s.my.regs.mask
    | .zero => s.my.regs.mask
    | .lit _ => s.my.regs.mask
  m.list

/-- COMPACT (R251). -/
def execCompact (d : Dst) (a : Src) (s : State) : Out :=
  match s.poisoned [a] with
  | some p => s.poisonTo d 2 p
  | none =>
    let l := (s.selected a).map (s.srcVec a).get
    match d with
    | .x _ => s.finish 2 (s.write d (.sca (BitVec.ofNat 64 l.length)) 0)
    | .v _ => s.finish 2 (s.write d (.vec (Vec.ofList l)) Mask.full)
    | .out _ => s.finish 2 (s.write d (.vec (Vec.ofList l)) (Mask.first l.length))
    | .null => s.done

/-- t(x) of R219: an unsigned number that orders FP32 by totalOrder and INT32 by value; UINT32 by itself (R252). -/
def sortKey (ty : Nat) (x : Word) : Nat :=
  if ty = 0 then (if x.getLsbD 31 then (~~~ x).toNat else (x ^^^ 0x80000000#32).toNat)
  else if ty = 1 then (x ^^^ 0x80000000#32).toNat
  else x.toNat

/-- A stable sort of keyed words, ties keeping the earlier one first. -/
def sortWords (ty : Nat) (desc : Bool) (l : List (Nat × Word)) : List (Nat × Word) :=
  sortBy (fun p q => if desc then decide (sortKey ty q.2 < sortKey ty p.2) else decide (sortKey ty p.2 < sortKey ty q.2)) l

/-- ORDER: c is IDX, DESC and the type (R252). -/
def execOrder (d : Dst) (a : Src) (c : BitVec 4) (s : State) : Out :=
  let k := outNo d
  match s.poisoned [a] with
  | some p =>
    s.finish 6 ([.emit k (s.stamp s.cur.cid p)] ++ (if c.getLsbD 3 then [.emit (k + 1) (s.stamp s.cur.cid p)] else []))
  | none =>
    let v := s.srcVec a
    let l := sortWords (c.toNat % 4) (c.getLsbD 2) ((s.selected a).map fun i => (i, v.get i))
    if l.isEmpty then s.done
    else
      s.finish 6 ([.emit k (s.planTok k (s.runTok k (l.map Prod.snd)))]
        ++ (if c.getLsbD 3 then [.emit (k + 1) (s.planTok (k + 1) (s.runTok (k + 1) (l.map fun p => BitVec.ofNat 32 p.1)))] else []))

/-! ### Sources, sinks and status (R253 to R255) -/

/-- POISON: Poison(code) of this firing, tagged OTAG[K] (R253). -/
def execPoison (d : Dst) (i : BitVec 8) (s : State) : Out :=
  s.finish 1 [.emit (outNo d) (s.planTok (outNo d) (.bad i.toNat))]

/-- ENDS has a head to act on: its sink is not complete (R254). -/
def State.endsReady (s : State) (a : Src) : Bool :=
  (s.headOpt (inNo a)).isSome && !(SMap.get s.my.sinkDone (inNo a) false)

/-- ENDS (R254). -/
def execEnds (d : Dst) (a : Src) (st : BitVec 1) (s : State) : Out :=
  let j := inNo a
  let t := s.head j
  if t.kind = kEOS then
    (s.updCtx s.cur.cid fun k => { k with sinkDone := SMap.set k.sinkDone j true }).finish 1
      (s.write d (.sca (BitVec.ofNat 64 (SMap.get s.my.sinkCnt s.cur.slot 0))) 0)
  else if t.kind = kDATA then
    (if st = 1 then (s.countStranded s.cur.cid 1).done [j]
     else (s.updCtx s.cur.cid fun k => { k with sinkCnt := SMap.upd k.sinkCnt s.cur.slot 0 (· + 1) }).done [j])
  else if t.kind = kPOISON then (s.countPoison s.cur.cid t).done [j]
  else s.done [j]

/-- The skew of a multicast output: tokens taken by its fastest consumer minus those taken by its slowest (R232). -/
def State.skew (s : State) (c k : Nat) : Nat :=
  match s.fans.find? fun f => f.src = c ∧ f.out = k with
  | none => 0
  | some f => (f.taken.map Prod.snd).foldl max 0 - (f.taken.map Prod.snd).foldl min f.sent

/-- The output is a multicast channel of the context's configuration. -/
def State.isMcast (s : State) (c k : Nat) : Bool :=
  match s.res c with
  | none => false
  | some r => r.cfg.wires.any fun w => w.selem == elemOf c && w.sout == k && w.multi

/-- CHOCC's word for an input (R255). -/
def State.choccIn (s : State) (k : Nat) : Dword :=
  let b := s.my.buf k
  let h := b.head?
  BitVec.ofNat 64 (b.length + (match h with | some t => t.tag.toNat | none => 0) * 2 ^ 5
    + (match h with | some t => t.kind.toNat | none => 7) * 2 ^ 9 + (SMap.get s.my.ch.deqd k 0).toNat * 2 ^ 32)

/-- The output register held a token as the cycle started: it holds one, or its token left in this cycle. -/
def State.outAtStart (s : State) (k : Nat) : Bool :=
  (s.my.outReg k).isSome || s.my.pend.any fun p => p.os == [k] && p.effs.isEmpty && p.due == some s.cycle

/-- CHOCC's word for an output (R255). -/
def State.choccOut (s : State) (k : Nat) : Dword :=
  BitVec.ofNat 64 (bit01 (s.outAtStart k) + (s.my.otag k).toNat * 2 ^ 12 + bit01 (s.isMcast s.cur.cid k) * 2 ^ 16
    + s.skew s.cur.cid k * 2 ^ 17 + (SMap.get s.my.ch.emtd k 0).toNat * 2 ^ 32)

/-- CHOCC (R255). -/
def execChocc (d : Dst) (c : BitVec 4) (s : State) : Out :=
  s.finish 1 (s.write d (.sca (if c.getLsbD 3 then s.choccOut (c.toNat % 8) else s.choccIn (c.toNat % 8))) 0)

end Sys2Proof.Machine
end

