-- ==== Sys2Proof/Machine/Crypto.lean ====
section
/-! DEFINITION. The ciphers the manual names and does not describe (R378, R433): SM3 and SM4, as GB/T 32905 and GB/T 32907 give them,
XTS over SM4 (R436) and HMAC over SM3 (PRESUMED, log entry 9). SM2 is opaque (Config.lean). -/

namespace Sys2Proof.Machine

/-- The S-box of SM4, entry i in byte i. -/
def sm4Box : Nat := 0x4839cbd73e5fee79204ddc3aec7df01884c66ec509f1b9657e77960c4a976989b0b4e5b812d0742dbd7bcda58831c10ad85a101f415cd9117fbcddbb92af1b8d515b6c6d726aff032f8efdde4537dbd56f4e530dab2329c060ca66822ee2f61de3b18cf5303293ad551a349ba45daee0a11561f9cef2f7a3b538c740d28abfea9ec8c4a0e702364c5227d39f574600d4877821013b7c2225a2d158635e0e241e359d56704b0febf88bda6471b2816b68a84f85e6193c5983ba1773f3fca70747a63f8f75fa94df8095e808c9a91cb3e462accfed430b54337a98ef91f450429c99068649261344aac304be2a769a672b052cfb28c214b616b73de1ccfee990d6

/-- The nonlinear map of SM4: the S-box on every byte. -/
def sm4Tau (x : Word) : Word :=
  BitVec.ofNat 32 ((List.range 4).map fun i => bitsN sm4Box (8 * bitsN x.toNat (8 * i + 7) (8 * i) + 7)
    (8 * bitsN x.toNat (8 * i + 7) (8 * i)) * 256 ^ i).sum

/-- The constant of round i of the key schedule. -/
def sm4Ck (i : Nat) : Word :=
  BitVec.ofNat 32 (((4 * i) * 7 % 256) * 2 ^ 24 + ((4 * i + 1) * 7 % 256) * 2 ^ 16 + ((4 * i + 2) * 7 % 256) * 2 ^ 8
    + (4 * i + 3) * 7 % 256)

/-- The round keys of SM4 from round i on: f are left. -/
def sm4Keys : Nat → Nat → Word × Word × Word × Word → List Word
  | 0, _, _ => []
  | f + 1, i, (k0, k1, k2, k3) =>
    let b := sm4Tau (k1 ^^^ k2 ^^^ k3 ^^^ sm4Ck i)
    let rk := k0 ^^^ b ^^^ b.rotateLeft 13 ^^^ b.rotateLeft 23
    rk :: sm4Keys f (i + 1) (k1, k2, k3, rk)

/-- What a round of SM4 mixes into its oldest word. -/
def sm4Mix (x rk : Word) : Word :=
  let c := sm4Tau (x ^^^ rk)
  c ^^^ c.rotateLeft 2 ^^^ c.rotateLeft 10 ^^^ c.rotateLeft 18 ^^^ c.rotateLeft 24

/-- The rounds of SM4 under some round keys. -/
def sm4Rounds : List Word → Word × Word × Word × Word → Word × Word × Word × Word
  | [], x => x
  | rk :: t, (x0, x1, x2, x3) => sm4Rounds t (x1, x2, x3, x0 ^^^ sm4Mix (x1 ^^^ x2 ^^^ x3) rk)

/-- Word i of a 128-bit block, word 0 the most significant. -/
def wordOf (b : BitVec 128) (i : Nat) : Word := (b >>> (32 * (3 - i))).setWidth 32

/-- The 128-bit block of four words, the first the most significant. -/
def blockOf (x : Word × Word × Word × Word) : BitVec 128 := x.1 ++ x.2.1 ++ x.2.2.1 ++ x.2.2.2

/-- The round keys of a key. -/
def sm4Schedule (key : BitVec 128) : List Word :=
  sm4Keys 32 0 (wordOf key 0 ^^^ 0xA3B1BAC6#32, wordOf key 1 ^^^ 0x56AA3350#32, wordOf key 2 ^^^ 0x677D9197#32, wordOf key 3 ^^^ 0xB27022DC#32)

/-- One block through the rounds of some round keys, its words turned round at the end. -/
def sm4Run (ks : List Word) (b : BitVec 128) : BitVec 128 :=
  let r := sm4Rounds ks (wordOf b 0, wordOf b 1, wordOf b 2, wordOf b 3)
  blockOf (r.2.2.2, r.2.2.1, r.2.1, r.1)

/-- SM4 of one block under a key; both big-endian 128-bit numbers. -/
def sm4 (key block : BitVec 128) : BitVec 128 := sm4Run (sm4Schedule key) block
/-- A block of SM4 deciphered: the round keys in reverse. -/
def sm4Inv (key block : BitVec 128) : BitVec 128 := sm4Run (sm4Schedule key).reverse block

/-- The next mask of XTS: the last times the field's generator. -/
def xtsNext (x : BitVec 128) : BitVec 128 := (x >>> 1) ^^^ (if x.getLsbD 0 then 0xE1#128 <<< 120 else 0)

/-- XTS from a mask on, 16 bytes at a time: f parts are left. -/
def xtsParts (cipher : BitVec 128 → BitVec 128) : Nat → BitVec 128 → List Byte → List Byte
  | 0, _, _ => []
  | f + 1, x, l => bytesBE 16 (cipher (BitVec.ofNat 128 (natBE (l.take 16)) ^^^ x) ^^^ x).toNat ++ xtsParts cipher f (xtsNext x) (l.drop 16)

/-- The first mask of a 64-byte block: its number, as 16 little-endian bytes, under the tweak's key (R436). -/
def xtsMask (tweakKey : BitVec 128) (blk : Nat) : BitVec 128 := sm4 tweakKey (BitVec.ofNat 128 (natBE (bytesLE 16 blk)))

/-- SM4 in XTS mode over a 64-byte block, whose number is its tweak (R436). -/
def xts (key tweakKey : BitVec 128) (blk : Nat) (l : List Byte) : List Byte := xtsParts (sm4 key) 4 (xtsMask tweakKey blk) l
/-- Such a block deciphered. -/
def xtsInv (key tweakKey : BitVec 128) (blk : Nat) (l : List Byte) : List Byte := xtsParts (sm4Inv key) 4 (xtsMask tweakKey blk) l

/-- P0 of SM3. -/
def sm3P0 (x : Word) : Word := x ^^^ x.rotateLeft 9 ^^^ x.rotateLeft 17
/-- P1 of SM3. -/
def sm3P1 (x : Word) : Word := x ^^^ x.rotateLeft 15 ^^^ x.rotateLeft 23

/-- The message schedule of SM3, newest word first: f words are still to come. -/
def sm3Expand : Nat → List Word → List Word
  | 0, w => w
  | f + 1, w =>
    sm3Expand f ((sm3P1 (w.getD 15 0 ^^^ w.getD 8 0 ^^^ (w.getD 2 0).rotateLeft 15) ^^^ (w.getD 12 0).rotateLeft 7 ^^^ w.getD 5 0) :: w)

/-- The compression rounds of SM3 from round j on. -/
def sm3Rounds (w : List Word) : Nat → Nat → List Word → List Word
  | 0, _, v => v
  | f + 1, j, v =>
    let r (i : Nat) : Word := v.getD i 0
    let t : Word := if j < 16 then 0x79CC4519#32 else 0x7A879D8A#32
    let ss1 := ((r 0).rotateLeft 12 + r 4 + t.rotateLeft (j % 32)).rotateLeft 7
    let ss2 := ss1 ^^^ (r 0).rotateLeft 12
    let ff := if j < 16 then r 0 ^^^ r 1 ^^^ r 2 else (r 0 &&& r 1) ||| (r 0 &&& r 2) ||| (r 1 &&& r 2)
    let gg := if j < 16 then r 4 ^^^ r 5 ^^^ r 6 else (r 4 &&& r 5) ||| (~~~ r 4 &&& r 6)
    let tt1 := ff + r 3 + ss2 + (w.getD j 0 ^^^ w.getD (j + 4) 0)
    let tt2 := gg + r 7 + ss1 + w.getD j 0
    sm3Rounds w f (j + 1) [tt1, r 0, (r 1).rotateLeft 9, r 2, sm3P0 tt2, r 4, (r 5).rotateLeft 19, r 6]

/-- One block of 64 bytes compressed into the chaining value. -/
def sm3Block (v : List Word) (b : List Byte) : List Word :=
  let w := (sm3Expand 52 ((List.range 16).map fun i => BitVec.ofNat 32 (natBE (sliceB b (4 * i) 4))).reverse).reverse
  List.zipWith (· ^^^ ·) (sm3Rounds w 64 0 v) v

/-- The padded message of SM3. -/
def sm3Pad (m : List Byte) : List Byte :=
  m ++ [0x80#8] ++ List.replicate ((119 - m.length % 64) % 64) 0 ++ bytesBE 8 (8 * m.length)

/-- The SM3 digest of a byte string: 32 bytes. -/
def sm3 (m : List Byte) : List Byte :=
  let p := sm3Pad m
  ((chunks 64 (p.length / 64) p).foldl sm3Block
    [0x7380166F#32, 0x4914B2B9#32, 0x172442D7#32, 0xDA8A0600#32, 0xA96F30BC#32, 0x163138AA#32, 0xE38DEE4D#32, 0xB0FB0E4E#32]).flatMap
      fun x => bytesBE 4 x.toNat

/-- HMAC over SM3. -/
def hmacSm3 (key m : List Byte) : List Byte :=
  let k := (if 64 < key.length then sm3 key else key)
  let k := k ++ List.replicate (64 - k.length) 0
  sm3 (k.map (· ^^^ 0x5C#8) ++ sm3 (k.map (· ^^^ 0x36#8) ++ m))

end Sys2Proof.Machine
end

