-- ==== Sys2Proof/Machine/Integer.lean ====
section
/-! DEFINITION. Integer and address instructions of the A-strips (R114 to R134). No instruction of this file traps, sets a flag or
touches memory (R116). -/

namespace Sys2Proof.Machine

/-! ### The two shapes (R114 to R116) -/

/-- A two-source instruction in the shape its destination selects: f takes the width and the operands. -/
def State.int2 (s : State) (lv ls : Nat) (d : Dst) (a b : Src) (f : Nat → Nat → Nat → Nat) : Out :=
  if isScalar d then
    s.scalarOp ls d [a, b] (BitVec.ofNat 64 (f 64 (s.srcSca a).toNat (s.srcSca b).toNat))
  else
    let va := s.srcVec a
    let vb := s.srcVec b
    s.laneOp lv d [a, b] (Vec.gen fun i => BitVec.ofNat 32 (f 32 (va.get i).toNat (vb.get i).toNat))

/-- A two-source instruction that reads D as well. -/
def State.int3 (s : State) (lv ls : Nat) (d : Dst) (a b : Src) (f : Nat → Nat → Nat → Nat → Nat) : Out :=
  if isScalar d then
    s.scalarOp ls d [a, b] (BitVec.ofNat 64 (f 64 (s.dstSca d).toNat (s.srcSca a).toNat (s.srcSca b).toNat))
  else
    let vd := s.dstVec d
    let va := s.srcVec a
    let vb := s.srcVec b
    s.laneOp lv d [a, b] (Vec.gen fun i => BitVec.ofNat 32 (f 32 (vd.get i).toNat (va.get i).toNat (vb.get i).toNat))

/-- A one-source instruction. -/
def State.int1 (s : State) (lv ls : Nat) (d : Dst) (a : Src) (f : Nat → Nat → Nat) : Out :=
  if isScalar d then
    s.scalarOp ls d [a] (BitVec.ofNat 64 (f 64 (s.srcSca a).toNat))
  else
    let va := s.srcVec a
    s.laneOp lv d [a] (Vec.gen fun i => BitVec.ofNat 32 (f 32 (va.get i).toNat))

/-! ### Add, subtract and multiply (R118, R119) -/

/-- IADD: exact sum, narrowed once. -/
def addOp (m w a b : Nat) : Nat := narrow w m (readAs w m a + readAs w m b)
/-- ISUB. -/
def subOp (m w a b : Nat) : Nat := narrow w m (readAs w m a - readAs w m b)
/-- IMUL. -/
def mulOp (m w a b : Nat) : Nat := narrow w m (readAs w m a * readAs w m b)
/-- IMAD: the product and the addend are never narrowed separately. -/
def madOp (m w d a b : Nat) : Nat := narrow w m (readAs w m d + readAs w m a * readAs w m b)
/-- IMULH: the upper w bits of the exact product; .S, .U, .SU. -/
def mulhOp (m w a b : Nat) : Nat :=
  let x : Int := if m = 1 then (a : Int) else signedN w a
  let y : Int := if m = 0 then signedN w b else (b : Int)
  (x * y / 2 ^ w % 2 ^ w).toNat

/-- IADD (R118). -/
def execIadd (d : Dst) (a b : Src) (m : BitVec 3) (s : State) : Out := s.int2 1 1 d a b (addOp m.toNat)
/-- ISUB (R118). -/
def execIsub (d : Dst) (a b : Src) (m : BitVec 3) (s : State) : Out := s.int2 1 1 d a b (subOp m.toNat)
/-- IMUL (R118). -/
def execImul (d : Dst) (a b : Src) (m : BitVec 3) (s : State) : Out := s.int2 3 4 d a b (mulOp m.toNat)
/-- IMULH (R119). -/
def execImulh (d : Dst) (a b : Src) (m : BitVec 3) (s : State) : Out := s.int2 3 4 d a b (mulhOp m.toNat)
/-- IMAD (R118). -/
def execImad (d : Dst) (a b : Src) (m : BitVec 3) (s : State) : Out := s.int3 3 4 d a b (madOp m.toNat)
/-- IADDI: always wraps (R118). -/
def execIaddi (d : Dst) (a : Src) (i : BitVec 8) (s : State) : Out :=
  s.int1 1 1 d a fun w v => narrow w 0 ((v : Int) + i.toInt)

/-! ### Minimum, maximum, logic, shifts, compare, saturate (R120 to R124) -/

/-- a lies below b: signed when m is 0, unsigned otherwise. -/
def below (m w a b : Nat) : Bool := if m = 0 then decide (signedN w a < signedN w b) else decide (a < b)
/-- The complement over w bits. -/
def notN (w a : Nat) : Nat := 2 ^ w - 1 - a % 2 ^ w

/-- IMIN (R120). -/
def execImin (d : Dst) (a b : Src) (m : BitVec 3) (s : State) : Out :=
  s.int2 1 1 d a b fun w x y => if below m.toNat w y x then y else x
/-- IMAX (R120). -/
def execImax (d : Dst) (a b : Src) (m : BitVec 3) (s : State) : Out :=
  s.int2 1 1 d a b fun w x y => if below m.toNat w x y then y else x
/-- AND (R121). -/
def execAnd (d : Dst) (a b : Src) (m : BitVec 3) (s : State) : Out :=
  s.int2 1 1 d a b fun w x y => x &&& (if m = 1 then notN w y else y)
/-- OR (R121). -/
def execOr (d : Dst) (a b : Src) (m : BitVec 3) (s : State) : Out :=
  s.int2 1 1 d a b fun w x y => x ||| (if m = 1 then notN w y else y)
/-- XOR (R121). -/
def execXor (d : Dst) (a b : Src) (m : BitVec 3) (s : State) : Out :=
  s.int2 1 1 d a b fun w x y => x ^^^ (if m = 1 then notN w y else y)

/-- Rotation left by c (R122). -/
def rotl (w c v : Nat) : Nat := v * 2 ^ (c % w) % 2 ^ w + v / 2 ^ (w - c % w)

/-- SHL by the full count (R122). -/
def execShl (d : Dst) (a b : Src) (s : State) : Out :=
  s.int2 1 1 d a b fun w x c => if c < w then x * 2 ^ c % 2 ^ w else 0
/-- SHR, logical or arithmetic, by the full count (R122). -/
def execShr (d : Dst) (a b : Src) (m : BitVec 3) (s : State) : Out :=
  s.int2 1 1 d a b fun w x c =>
    if m = 1 then (signedN w x / 2 ^ (min c w) % 2 ^ w).toNat else if c < w then x / 2 ^ c else 0
/-- ROT, left or right, by the count modulo w (R122). -/
def execRot (d : Dst) (a b : Src) (m : BitVec 3) (s : State) : Out :=
  s.int2 1 1 d a b fun w x c => rotl w (if m = 1 then w - c % w else c) x

/-- The condition of ICMP (R123). -/
def icmpHolds (m w a b : Nat) : Bool :=
  if m = 0 then decide (a = b) else if m = 1 then decide (a ≠ b)
  else if m = 2 then below 0 w a b else if m = 3 then !below 0 w a b
  else if m = 4 then below 1 w a b else !below 1 w a b

/-- ICMP: all ones or zero (R123). -/
def execIcmp (d : Dst) (a b : Src) (m : BitVec 3) (s : State) : Out :=
  s.int2 1 1 d a b fun w x y => if icmpHolds m.toNat w x y then 2 ^ w - 1 else 0

/-- ISAT: S1 read as signed (R124); `g` is W - 1. -/
def execIsat (d : Dst) (a : Src) (sg : BitVec 1) (g : BitVec 6) (s : State) : Out :=
  s.int1 1 1 d a fun w v =>
    let n := g.toNat + 1
    if sg = 1 then (clampI (-(2 ^ (n - 1))) (2 ^ (n - 1) - 1) (signedN w v) % 2 ^ w).toNat
    else (clampI 0 (2 ^ n - 1) (signedN w v)).toNat

/-! ### Bit counts and fields (R125, R126) -/

/-- How many zeros stand above the highest set bit of w bits. -/
def clz (w v : Nat) : Nat := if v = 0 then w else w - 1 - Nat.log2 v
/-- How many zeros stand below the lowest set bit of w bits. -/
def ctz (w v : Nat) : Nat := match (List.range w).find? fun i => v.testBit i with | some i => i | none => w
/-- How many of w bits are set. -/
def popcount (w v : Nat) : Nat := ((List.range w).filter fun i => v.testBit i).length

/-- The result of BITC (R125). -/
def bitcOp (m w v : Nat) : Nat :=
  if m = 0 then popcount w v else if m = 1 then clz w v else if m = 2 then ctz w v
  else if m = 3 then natOfBits (fun i => v.testBit (w - 1 - i)) w
  else natBE (bytesLE (w / 8) v)

/-- BITC (R125). -/
def execBitc (d : Dst) (a : Src) (m : BitVec 3) (s : State) : Out := s.int1 1 1 d a (bitcOp m.toNat)

/-- The field BFX extracts (R126): bits from pos, at most min(len, w) of them, those above bit w - 1 read as zero. -/
def bfxOp (sgn : Bool) (w v ctl : Nat) : Nat :=
  let len := min (bitsN ctl 13 8) w
  let f := v / 2 ^ bitsN ctl 5 0 % 2 ^ len
  if sgn ∧ 0 < len then (signedN len f % 2 ^ w).toNat else f

/-- The insertion of BFI (R126): field bits above bit w - 1 are dropped. -/
def bfiOp (w d v ctl : Nat) : Nat :=
  let pos := bitsN ctl 5 0
  let len := min (bitsN ctl 13 8) w
  natOfBits (fun i => if pos ≤ i ∧ i < pos + len then v.testBit (i - pos) else d.testBit i) w

/-- BFX (R126). -/
def execBfx (d : Dst) (a b : Src) (m : BitVec 3) (s : State) : Out := s.int2 1 1 d a b (bfxOp (m == 1))
/-- BFI (R126). -/
def execBfi (d : Dst) (a b : Src) (s : State) : Out := s.int3 1 1 d a b bfiOp

/-! ### Address formation (R127) -/

/-- One address of ADDR: base plus the signed index times 2^n, modulo 2^64. -/
def addrOf (base : Dword) (n : Nat) (ix : Int) : Dword := BitVec.ofInt 64 ((base.toNat : Int) + ix * 2 ^ n)

/-- The address-pair vector of ADDR: address j in lanes 2j and 2j + 1. -/
def addrPairs (base : Dword) (n h : Nat) (v : Vec) : Vec :=
  Vec.gen fun i =>
    let a := addrOf base n ((v.get (96 * h + i / 2)).toInt)
    if i % 2 = 0 then a.setWidth 32 else (a >>> 32).setWidth 32

/-- The mask of an address-pair vector: both lanes of address j under bit 96h + j of the mask. -/
def pairMask (h : Nat) (m : Mask) : Mask := Mask.gen fun i => m.getLsbD (96 * h + i / 2)

/-- ADDR: never checks canonicity (R127). -/
def execAddr (d : Dst) (a b : Src) (h : BitVec 1) (n : BitVec 2) (s : State) : Out :=
  if isScalar d then
    s.scalarOp 2 d [a, b] (addrOf (s.srcSca a) n.toNat (s.srcSca b).toInt)
  else
    match s.poisoned [a, b] with
    | some p => s.poisonTo d 2 p
    | none => s.finish 2 (s.write d (.vec (addrPairs (s.srcSca a) n.toNat h.toNat (s.srcVec b)))
        (pairMask h.toNat s.my.regs.mask))

/-! ### Division (R128) -/

/-- Quotient or remainder with the special cases of R128; m is 0 .S, 1 .U, 2 .SR, 3 .UR. -/
def idivOp (m w a b : Nat) : Nat :=
  if b = 0 then (if m < 2 then 2 ^ w - 1 else a)
  else if m = 0 then (Int.tdiv (signedN w a) (signedN w b) % 2 ^ w).toNat
  else if m = 1 then a / b
  else if m = 2 then (Int.tmod (signedN w a) (signedN w b) % 2 ^ w).toNat
  else a % b

/-- The shared divider taken until a cycle. -/
def State.takeDivider (s : State) (n : Nat) : State :=
  s.updElem (eidOf s.cur.cid) fun e => { e with divBusy := some (s.cycle + n) }

/-- IDIV: takes the divider for 8 cycles, 16 in scalar shape (R128). -/
def execIdiv (d : Dst) (a b : Src) (m : BitVec 3) (s : State) : Out :=
  (s.takeDivider (if isScalar d then 16 else 8)).int2 12 22 d a b (idivOp m.toNat)

/-! ### Lane prefix scan (R129) -/

/-- The combination of LSCAN. -/
def scanOp (m : Nat) (x y : Word) : Word :=
  if m ≤ 1 then x + y
  else if m = 2 then (if x.toInt < y.toInt then y else x)
  else if m = 3 then (if x.toNat < y.toNat then y else x)
  else if m = 4 then (if y.toInt < x.toInt then y else x)
  else if m = 5 then (if y.toNat < x.toNat then y else x)
  else x ||| y

/-- The scan over the lanes from lane i on. -/
def scanLanes (m : Nat) (mask : Mask) : Nat → Word → List Word → List Word
  | _, _, [] => []
  | i, acc, v :: t =>
    if mask.getLsbD i then
      let nx := scanOp m acc v
      (if m = 1 then acc else nx) :: scanLanes m mask (i + 1) nx t
    else v :: scanLanes m mask (i + 1) acc t

/-- LSCAN (R129). -/
def execLscan (d : Dst) (a b : Src) (m : BitVec 3) (s : State) : Out :=
  let v := s.srcVec a
  s.laneOp 4 d [a, b]
    ⟨scanLanes m.toNat s.my.regs.mask 0 ((s.srcSca b).setWidth 32) ((List.range 192).map v.get)⟩

/-! ### Counter chains (R130 to R133) -/

/-- CCHAIN's effect on a chain. -/
def Chain.stage (k : Chain) (level ext : Nat) (top : Bool) : Chain :=
  let se := listSet k.se level ext
  if top then
    { k with se, e := (List.range 8).map (fun l => if l ≤ level then se.getD l 0 else k.e.getD l 0),
             c := (List.range 8).map (fun l => if l ≤ level then 0 else k.c.getD l 0),
             n := level + 1, li := 0, pending := [], armed := true, spent := false }
  else { k with se }

/-- CCHAIN (R131): a poison head leaves the chain unchanged and is counted. -/
def execCchain (a : Src) (g : BitVec 4) (p : BitVec 1) (s : State) : Out :=
  match s.poisoned [a] with
  | some t => (s.countPoison s.cur.cid t).done
  | none =>
    let ext := (s.srcSca a).toNat % 2 ^ 32
    (s.updCtx s.cur.cid fun k => { k with chain := k.chain.stage g.toNat ext (p == 1) }).done

/-- The carry of Advance() from level l on (R132). -/
def carryFrom (e : List Nat) (n : Nat) : Nat → Nat → List Nat → List Nat
  | 0, _, c => c
  | f + 1, l, c =>
    if n ≤ l then c
    else if c.getD l 0 + 1 = e.getD l 0 then carryFrom e n f (l + 1) (listSet c l 0)
    else listSet c l (c.getD l 0 + 1)

/-- Advance() of R132. -/
def Chain.advance (k : Chain) : Chain := { k with c := carryFrom k.e k.n 8 1 (listSet k.c 0 0) }

/-- The highest level m below n such that every level from 1 to m stands at its last coordinate (R132). -/
def Chain.lastLevel (k : Chain) : Nat :=
  ((List.range k.n).filter fun m => (rangeFrom 1 m).all fun j => decide (k.c.getD j 0 + 1 = k.e.getD j 0)).foldl max 0

/-- The MARKs and EOS pending at the end of a level-0 iteration (R132). -/
def Chain.endItems (k : Chain) : List Nat :=
  let m := k.lastLevel
  (if 2 ≤ k.n then List.range (min m (k.n - 2) + 1) else []) ++ (if m + 1 = k.n then [8] else [])

/-- What one step of a chain yields: a DATA count with its first index, a MARK with its scalar, or EOS. -/
inductive ChainTok where
  | data (cnt first : Nat)
  | mark (level coord : Nat)
  | eos
  deriving DecidableEq, Repr

/-- One step of a chain (R132): k is the width, lin selects the linear index. -/
def Chain.next (k : Chain) (w : Nat) (lin : Bool) : ChainTok × Chain :=
  match k.pending with
  | t :: rest =>
    if t = 8 then (.eos, { k with pending := rest, spent := true })
    else
      let k1 := { k with pending := rest }
      (.mark t (k.c.getD (t + 1) 0), if rest.any (· < 8) then k1 else k1.advance)
  | [] =>
    if (List.range k.n).any fun l => k.e.getD l 0 = 0 then (.eos, { k with spent := true })
    else
      let c0 := k.c.getD 0 0
      let cnt := min w (k.e.getD 0 0 - c0)
      let k1 := { k with c := listSet k.c 0 (c0 + cnt), li := (k.li + cnt) % 2 ^ 32 }
      let k2 := if c0 + cnt = k.e.getD 0 0 then
          let items := k1.endItems
          let k3 := { k1 with pending := items }
          if items.any (· < 8) then k3 else k3.advance
        else k1
      (.data cnt (if lin then k.li else c0), k2)

/-- The width CTL[3:2] selects (R132). -/
def chainWidth (w : BitVec 2) : Nat := if w = 0 then 192 else if w = 1 then 96 else if w = 2 then 64 else 32

/-- The token of a chain step under an output tag. -/
def ChainTok.token (t : ChainTok) (tag : BitVec 4) : Token :=
  match t with
  | .data cnt f => vecTok tag (Mask.first cnt) (Vec.gen fun i => BitVec.ofNat 32 (f + i))
  | .mark l w => markTok l true (BitVec.ofNat 64 w)
  | .eos => eosTok tag

/-- CSTEP: exactly one token (R132). -/
def execCstep (d : Dst) (w m : BitVec 2) (s : State) : Out :=
  match d with
  | .out k =>
    let r := s.my.chain.next (chainWidth w) (m == 1)
    (s.updCtx s.cur.cid fun c => { c with chain := r.2 }).finish 1
      [.emit k.toNat (s.stamp s.cur.cid (r.1.token (s.my.otag k.toNat)))]
  | .v _ => s.done
  | .x _ => s.done
  | .null => s.done

end Sys2Proof.Machine
end

