-- ==== Sys2Proof/Machine/Memory.lean ====
section
/-! DEFINITION. Memory and the life of a request (R257 to R271, R299 to R303, R313 to R321, R329, R335, R342, R436): byte memory in its
canonical form, the checks of an access, its issue through a port, where it performs, what its node makes of it, keyed order under
watermarks, and how its result is delivered. -/

namespace Sys2Proof.Machine

/-! ### Bytes (R5). An unlisted byte reads 0 (log entry 7). -/

/-- One byte. -/
def memGet (m : List Host.Cell) (a : Nat) : Byte := SMap.get m a 0
/-- One byte written; writing what an unlisted byte reads as removes the entry. -/
def memPut (m : List Host.Cell) (a : Nat) (b : Byte) : List Host.Cell := if b = 0 then SMap.del m a else SMap.set m a b
/-- The canonical form: addresses strictly rising, no entry equal to what an unlisted address reads as. -/
def Memory.wf (m : List Host.Cell) : Bool := SMap.ordered m && m.all fun c => c.2 != 0
/-- n bytes from an address. -/
def memRead (m : List Host.Cell) (a n : Nat) : List Byte := (rangeFrom a n).map (memGet m)
/-- A byte string written from an address up. -/
def memWrite : List Host.Cell → Nat → List Byte → List Host.Cell
  | m, _, [] => m
  | m, a, b :: t => memWrite (memPut m a b) (a + 1) t

/-- The model's address of physical address `pa` in HBM (SP clear) or of a vault byte (SP set) (R328). -/
def physKey (sp : Bool) (pa : Nat) : Nat := if sp then 2 ^ 52 + pa else pa
/-- The model's address of a V-space address of this package. -/
def State.vaultKey (s : State) (va : Nat) : Nat := physKey true (s.pkg.pkgId * 2 ^ 41 + va)
/-- The model's address lies in HBM. -/
def isHbm (a : Nat) : Bool := decide (a < 2 ^ 52)
/-- V-space address of byte `off` of the vault above a region (R22). -/
def vaultVa (r off : Nat) : Nat := r * 2 ^ 26 + off

/-! ### Encryption (R436) -/

/-- The key a draw of the trust engine gave, counted from 1; 0 stands for plaintext. -/
def drawKey (n : Nat) : BitVec 128 := Config.freeKey (n - 1)
/-- The draw that gave a slot its key, or 0 for plaintext. -/
def State.tagOf (s : State) (slot : Nat) : Nat := match SMap.find s.pkg.trust.kslots slot with | some e => e.serial | none => 0
/-- The draw of the key a 64-byte block was last written under. -/
def State.blockTag (s : State) (blk : Nat) : Nat := SMap.get s.pkg.encTag blk 0
/-- A block as it stands in the HBM: enciphered under the key of a draw. -/
def cipherBlock (tag blk : Nat) (b : List Byte) : List Byte := if tag = 0 then b else xts (drawKey tag) (Config.tweakKey (tag - 1)) blk b
/-- A stored block deciphered under the key of a draw. -/
def plainBlock (tag blk : Nat) (b : List Byte) : List Byte := if tag = 0 then b else xtsInv (drawKey tag) (Config.tweakKey (tag - 1)) blk b
/-- A block as a party that reads it under the key of a draw sees it: memory lists what its last writer sees. -/
def State.blockView (s : State) (tag blk : Nat) : List Byte :=
  if s.blockTag blk = tag then memRead s.mem (64 * blk) 64
  else plainBlock tag blk (cipherBlock (s.blockTag blk) blk (memRead s.mem (64 * blk) 64))

/-- n bytes from the model's address a, within one 64-byte block, seen under a slot; vault bytes are never encrypted. -/
def State.view (s : State) (slot a n : Nat) : List Byte :=
  if isHbm a ∧ s.blockTag (a / 64) ≠ s.tagOf slot then ((s.blockView (s.tagOf slot) (a / 64)).drop (a % 64)).take n else memRead s.mem a n

/-- The key a block is held under from now on. -/
def setTag (m : SMap Nat) (blk tag : Nat) : SMap Nat := if tag = 0 then SMap.del m blk else SMap.set m blk tag

/-- Bytes of one block stored under a slot. -/
def State.put (s : State) (slot a : Nat) (l : List Byte) : State :=
  if isHbm a ∧ s.blockTag (a / 64) ≠ s.tagOf slot then
    { s with mem := memWrite (memWrite s.mem (64 * (a / 64)) (s.blockView (s.tagOf slot) (a / 64))) a l,
             pkg := { s.pkg with encTag := setTag s.pkg.encTag (a / 64) (s.tagOf slot) } }
  else { s with mem := memWrite s.mem a l }

/-- A long byte string seen under a slot, block by block; `fuel` bounds the blocks. -/
def State.viewLong (s : State) (slot : Nat) : Nat → Nat → Nat → List Byte
  | 0, _, _ => []
  | f + 1, a, n => if n = 0 then [] else
    let k := min n (64 - a % 64)
    s.view slot a k ++ s.viewLong slot f (a + k) (n - k)

/-- A long byte string stored under a slot, block by block. -/
def State.putLong (s : State) (slot : Nat) : Nat → Nat → List Byte → State
  | 0, _, _ => s
  | f + 1, a, l => if l.isEmpty then s else
    let k := min l.length (64 - a % 64)
    (s.put slot a (l.take k)).putLong slot f (a + k) (l.drop k)

/-! ### Granules, frames and blocks (R270, R329, R342, R415) -/

/-- A 64 KiB granule of HBM is live. -/
def State.granLive (s : State) (a : Nat) : Bool := !(isHbm a && s.pkg.dead.contains (a / 65536))
/-- A granule holds a linked table or a root (R329). -/
def State.isTable (s : State) (a : Nat) : Bool := isHbm a && decide (0 < SMap.get s.pkg.xlat.tableGran (a / 65536) 0)
/-- An address lies in a retired frame (R342). -/
def State.isRetired (s : State) (a : Nat) : Bool := s.pkg.xlat.retired.any fun f => decide (f.1 ≤ a ∧ a < f.1 + f.2)
/-- An address lies in a marked block (R415). -/
def State.isMarked (s : State) (a : Nat) : Bool := isHbm a && s.pkg.marked.contains (a / 64)

/-- The first write to a granule that is not live zero-fills it and marks it live (R270). The zeros stand under the slot of the write, so
that the access itself reads zero (R313, log entry 7). -/
def State.revive (s : State) (slot a : Nat) : State :=
  if s.granLive a then s
  else { s with mem := s.mem.filter (fun c => c.1 / 65536 ≠ a / 65536),
                pkg := { s.pkg with dead := s.pkg.dead.filter (· ≠ a / 65536),
                                    encTag := (rangeFrom (a / 65536 * 1024) (if s.tagOf slot = 0 then 0 else 1024)).foldl
                                      (fun m b => setTag m b (s.tagOf slot))
                                      (s.pkg.encTag.filter fun e => e.1 / 1024 ≠ a / 65536) } }

/-! ### Allocations and V-space checks (R259, R260, R271) -/

/-- The declared tiles of a resident configuration, as V-space spans (R259). -/
def Resident.tileSpans (p : Resident) (r : Nat) : List (Nat × Nat) := p.cfg.tiles.map fun t => (vaultVa r t.offset, t.bytes)

/-- The allocations a configuration holds: its declared tiles in its region's own vault, and those VALLOC made and it has not freed. -/
def State.spans (s : State) (c : Nat) : List (Nat × Nat) :=
  match s.res c with
  | none => []
  | some p => p.tileSpans (regionOf c) ++ ((s.pkg.allocs.filter fun a => a.lid == p.lid && a.region == regionOf c && a.cfg == p.cfg.num
      && a.freed.isNone && !a.retired).map fun a => (vaultVa a.vault a.offset, a.bytes))

/-- Bytes va to va + n - 1 lie within one allocation the configuration of context c holds. -/
def State.inAlloc (s : State) (c va n : Nat) : Bool := (s.spans c).any fun p => decide (p.1 ≤ va ∧ va + n ≤ p.1 + p.2)

/-- The V-space checks in order: NONCANON, MISALIGN, PORTRANGE; 0 when all pass (R271). -/
def State.checkV (s : State) (c va size : Nat) : Nat :=
  if 2 ^ 34 ≤ va then 0x20 else if va % size ≠ 0 then 0x21 else if s.inAlloc c va size then 0 else 0x22

/-- A 64-bit address is canonical: bits [63:53] equal bit 52 (R22). -/
def canonical (va : Nat) : Bool := decide (va < 2 ^ 64) && (va / 2 ^ 52 == 0 || va / 2 ^ 52 == 0xFFF)

/-- Bytes of a page by the size code of R66. -/
def pageBytes (p : Nat) : Nat := if p = 0 then 2 ^ 16 else if p = 1 then 2 ^ 21 else 2 ^ 30

/-- The generator of port p of context c. -/
def State.gen (s : State) (c p : Nat) : Option Gen :=
  match s.res c with | none => none | some r => SMap.find r.gens (4 * pinnaOf (elemOf c) + p)

/-- A generator changed. -/
def State.updGen (s : State) (c p : Nat) (f : Gen → Gen) : State :=
  s.updRes c fun r => match SMap.find r.gens (4 * pinnaOf (elemOf c) + p) with
    | none => r
    | some g => { r with gens := SMap.set r.gens (4 * pinnaOf (elemOf c) + p) (f g) }

/-- The patch entry an address takes. -/
def Gen.entry (g : Gen) (va : Nat) : PatchEntry := SMap.get g.table (va / pageBytes g.page) { p := .np }

/-- An entry is stale or held: it may not be used before it has been repatched. One that ADREAD.CLRA left keeps its rights, and is repatched by
the fetch itself (R352). -/
def PatchEntry.awaits (e : PatchEntry) : Bool := e.held || (e.stale && !e.lazy)

/-- Whether an entry lets a party access its page: 0, or PERM, or PGSIZE (R271 check 4, R332). -/
def Patch.verdict (p : Patch) (user write atomic : Bool) : Nat :=
  match p with
  | .frame _ rd wr usr _ _ => if (user && !usr) || (write && !wr) || (!write && !rd) || (atomic && !wr) then 0x23 else 0
  | .pg => 0x24
  | .np => 0

/-- The entry is not present. -/
def Patch.absent (p : Patch) : Bool := match p with | .np => true | .pg => false | .frame _ _ _ _ _ _ => false

/-- Checks 1 to 4 of a G-space access of `size` bytes through a generator (R271). An entry that awaits its repatch is judged only once it
has been repatched (R336, R351), and passes here. -/
def State.checkG (s : State) (c : Nat) (g : Gen) (va size : Nat) (write atomic : Bool) : Nat :=
  if g.page = 3 then
    (if 2 ^ 34 ≤ va then 0x20 else if va % size ≠ 0 then 0x21
     else if decide (g.base ≤ va ∧ va + size ≤ g.base + g.extent) && s.inAlloc c va size then 0 else 0x22)
  else if !canonical va then 0x20
  else if va % size ≠ 0 then 0x21
  else if !decide (g.base ≤ va ∧ va + size ≤ g.base + g.extent) then 0x22
  else if (g.entry va).awaits then 0
  else (g.entry va).p.verdict (decide (ctxOf c < 4)) write atomic

/-- The operation writes memory. -/
def AccOp.writes (o : AccOp) : Bool := match o with | .rd => false | .wr _ => true | .atom _ _ _ => true | .cas _ _ => true | .wadd _ => true
/-- The operation is an atomic. -/
def AccOp.atomic (o : AccOp) : Bool := match o with | .rd => false | .wr _ => false | .atom _ _ _ => true | .cas _ _ => true | .wadd _ => true
/-- The operation reads memory. -/
def AccOp.reads (o : AccOp) : Bool := match o with | .rd => true | .wr _ => false | .atom _ _ _ => true | .cas _ _ => true | .wadd _ => true

/-- Checks 1 to 4 of one access through port p (4: the vault path). -/
def State.checkAcc (s : State) (c p : Nat) (a : Acc) : Nat :=
  if p = 4 then s.checkV c a.va a.size
  else match s.gen c p with
    | none => 0x22
    | some g => s.checkG c g a.va a.size a.op.writes a.op.atomic

/-- One access meets an entry that awaits its repatch, so that check 4 is still open. -/
def State.undecided (s : State) (c p : Nat) (a : Acc) : Bool :=
  p != 4 && match s.gen c p with
    | none => false
    | some g => g.page != 3 && (g.entry a.va).awaits && s.checkG c g a.va a.size a.op.writes a.op.atomic == 0

/-- The first failing check of the lowest lane that fails one: code and address (R271). A lane whose entry awaits its repatch leaves the
verdict to the generator. -/
def State.checkAll (s : State) (c p : Nat) : List Acc → Option (Nat × Nat)
  | [] => none
  | a :: t =>
    if s.checkAcc c p a ≠ 0 then some (s.checkAcc c p a, a.va) else if s.undecided c p a then none else s.checkAll c p t

/-! ### Where an access goes, and how long it takes (R257, R258, R267, R269, R286) -/

/-- UCIe links between two fronds along the shortest chain (R13). -/
def fronHops (f g : Nat) : Nat := (f % 8 - g % 8) + (g % 8 - f % 8) + (if f / 8 = g / 8 then 0 else 1)

/-- The fabric ports that have trained, ascending. -/
def Fabric.trained (f : Fabric) : List Nat := (List.range 48).filter fun p => f.up.getLsbD p
/-- The port a flit leaves by: the lowest-numbered one of its entry that has trained (R448). -/
def Fabric.portFor (f : Fabric) (dst : Nat) : Option Nat := f.trained.find? fun p => (f.route.getD dst 0).testBit p
/-- The frond of the fabric port that ROUTE selects for a package. -/
def State.egress (s : State) (p : Nat) : Nat := match s.pkg.fabric.portFor p with | some k => Config.portFrond k | none => 0

/-- The package of a model's address. -/
def pkgOf (a : Nat) : Nat := a % 2 ^ 52 / 2 ^ 41
/-- The frond of the vault or of the HBM channel of an address, in its package; a frond has 64 channels (R18). -/
def frondAt (a : Nat) : Nat := if isHbm a then (Config.hbmPlace a).1 / 64 else a % 2 ^ 34 / 2 ^ 30
/-- The HBM channel of an address, numbered across the packages. -/
def chanOf (a : Nat) : Nat := pkgOf a * 1024 + (Config.hbmPlace a).1 % 1024

/-- The UCIe links an access of region r crosses in this package (R258): to the target's frond, or to the frond of the fabric port. -/
def State.ownHops (s : State) (r a : Nat) : Nat :=
  fronHops (frondOf r) (if pkgOf a = s.pkg.pkgId then frondAt a else s.egress (pkgOf a))

/-- The cycles beyond this package: the fabric hops at their bound, and the far package's UCIe links (R258, log entry 8). -/
def State.farCycles (s : State) (a : Nat) : Nat :=
  if pkgOf a = s.pkg.pkgId then 0
  else
    let f := Config.fabricPath s.pkg.pkgId (pkgOf a)
    600 * (1 + f.1 % 3) + 40 * fronHops f.2 (frondAt a)

/-- The row of an HBM address is open in its bank (R267, R269). -/
def State.rowHit (s : State) (a : Nat) : Bool :=
  let h := Config.hbmPlace a
  s.pkg.rows.any fun o => o.ch == chanOf a && o.bank == h.2.1 && o.row == h.2.2

/-- Cycles from issue to the point at which an access of region r to the model's address a performs, with no contention: the fixed figures
of R258 for vaults, the bounds of R286 for HBM (log entry 8). -/
def State.latency (s : State) (r a : Nat) : Nat :=
  if isHbm a then (if s.rowHit a then 140 else 176) + 40 * s.ownHops r a + s.farCycles a
  else if pkgOf a = s.pkg.pkgId ∧ a % 2 ^ 34 / 2 ^ 26 = r then 12
  else 52 + 40 * s.ownHops r a + s.farCycles a

/-- The vault bank of an address (R257). -/
def bankOf (a : Nat) : Nat := a / 2 ^ 26 * 64 + a / 128 % 64
/-- The memory node of an address: its vault bank, or the rhizoid unit of its channel (R265, R313). -/
def nodeOf (a : Nat) : Nat := if isHbm a then chanOf a else bankOf a

/-- An engine whose command has a lower source number moves a line of the vault bank of an address in this cycle (R257). -/
def State.bankAsked (s : State) (cid pa : Nat) : Bool := !isHbm pa && s.pkg.bankAsks.any fun b => b.1 == bankOf pa && decide (b.2 < cid)

/-- The node can serve an access in this cycle: a bank one line of one request, or one atomic; a rhizoid unit one atomic (R257, R324). -/
def State.nodeFree (s : State) (r : Req) (a : Acc) (pa : Nat) : Bool :=
  !s.bankAsked r.cid pa && ((isHbm pa && !a.op.atomic) || match SMap.find s.pkg.served (nodeOf pa) with
    | none => true
    | some v => decide (v.until_ < s.cycle) || (v.req == r.id && v.line == pa / 128 && !a.op.atomic && v.until_ == s.cycle))

/-- The node is taken by an access: a unit for two cycles by AWADD (R324). -/
def State.takeNode (s : State) (r : Req) (a : Acc) (pa : Nat) : State :=
  if isHbm pa && !a.op.atomic then s
  else
    let v : Service := { until_ := s.cycle + (if isHbm pa && decide (a.size = 16) then 1 else 0), req := r.id, line := pa / 128 }
    s.updPkg fun p => { p with served := SMap.set p.served (nodeOf pa) v }

/-- The vault lines of some bytes, each once, by the first address of a line. -/
def vaultLines (l : List Nat) : List Nat := ((l.filter fun a => !isHbm a).map fun a => a / 128).eraseDups.map (128 * ·)

/-- Every vault bank that an engine's bytes lie in is free in this cycle, and asked for by no command of a lower source number (R257). -/
def State.banksFree (s : State) (cid : Nat) (l : List Nat) : Bool :=
  (vaultLines l).all fun a => !s.bankAsked cid a && match SMap.find s.pkg.served (bankOf a) with
    | none => true
    | some v => decide (v.until_ < s.cycle)

/-- An engine moves lines of vault banks: each bank serves one a cycle. -/
def State.takeBanks (s : State) (l : List Nat) : State :=
  (vaultLines l).foldl (fun s a => s.updPkg fun p => { p with served := SMap.upd p.served (bankOf a) ⟨0, 0, 0⟩ fun v =>
    { until_ := if v.until_ < s.cycle then s.cycle else v.until_ + 1, req := 2 ^ 64, line := a / 128 } }) s

/-! ### Keys and watermarks (R299 to R302) -/

/-- Key ∥ source number ∥ request number, as one number (R300). -/
def extKey (key : Dword) (src req : Nat) : Nat := key.toNat * 2 ^ 93 + src * 2 ^ 64 + req
/-- Above every extended key. -/
def infMark : Nat := 2 ^ 160

/-- An issue point of a context. -/
def Ctx.point (k : Ctx) (p : Nat) : IssuePoint := SMap.get k.points p {}

/-- A firing on an issue point would break the key rules: STEP at its end (R299), or a key below the last one the point sent (R300). -/
def State.keyFault (s : State) (p : Nat) : Bool :=
  let kr := s.my.regs.kr
  fld kr 15 0 == 0xFFFF || (s.keyed s.cur.cid && (match (s.my.point p).last with | some l => decide (kr.toNat < l.toNat) | none => false))

/-- The extended key of the next request of the firing in hand on issue point p. -/
def State.nextExt (s : State) (p : Nat) : Nat := extKey s.my.regs.kr (s.source s.cur.cid).toNat (s.my.point p).reqs

/-- The issue point after a firing that issued a request on it, and STEP advanced (R299, R300). -/
def State.stepKey (s : State) (p : Nat) : State :=
  let c := s.cur.cid
  s.updCtx c fun k =>
    let q := k.point p
    let kr := k.regs.kr
    { k with points := SMap.set k.points p { q with last := some kr, reqs := q.reqs + 1, floor := extKey (kr + 1) (s.source c).toNat (q.reqs + 1) },
             regs := { k.regs with kr := kr + 1 } }

/-- An access that has neither performed, nor been placed, nor been discarded. -/
def Acc.open_ (a : Acc) : Bool := match a.st with | .wait => true | .flight => true | .placed => false | .done => false | .dropped => false
/-- An access that has been applied or discarded. -/
def Acc.over (a : Acc) : Bool := match a.st with | .wait => false | .flight => false | .placed => false | .done => true | .dropped => true
/-- An access holds nothing back any more, though it had performed before: a keyed store that a freeze returned does until its replay (R339,
R341). -/
def Acc.atRest (a : Acc) : Bool :=
  match a.st with | .wait => false | .flight => false | .placed => !a.op.reads | .done => true | .dropped => true
/-- An access that has performed for the rules of fences and PERFW: a keyed store performs when it is placed (R301), and keeps that standing
when a freeze returns it (R341). -/
def Acc.performed (a : Acc) : Bool :=
  match a.st with | .wait => a.kept | .flight => a.kept | .placed => !a.op.reads | .done => true | .dropped => true

/-- A pool command makes memory accesses for the firing that issued it: PGATHER, and PDRAIN to a tile (R287). -/
def PoolOp.engine (o : PoolOp) : Bool :=
  match o with
  | .gather _ _ => true
  | .drain _ _ t _ => t
  | .carve _ => false
  | .map _ => false
  | .commit => false
  | .issue _ _ _ => false
  | .clear _ _ => false
  | .sort _ _ => false
  | .sortk _ _ _ => false

/-- The extended keys of the engine commands of context c that still hold accesses to make. -/
def State.engineHolds (s : State) (c : Nat) : List Nat :=
  let g := s.region (regionOf c)
  let src := (s.source c).toNat
  let cs := (g.copyIn ++ g.copyQ.flatMap fun q => q.2.cmds).filter fun k => k.cid = c ∧ k.finished = false
  let ps := (g.poolIn ++ g.nodes.flatMap fun n => n.2.oq.cmds ++ n.2.dq.cmds).filter fun k => k.cid == c && k.op.engine
  (cs.map fun k => extKey k.key src k.reqs) ++ (ps.map fun k => extKey k.key src k.reqs)
    ++ ((g.gather.filter fun k => k.cid = c).map fun k => extKey k.key src k.reqs)

/-- The extended keys a port's running stream still has requests to make under (log entry 12). -/
def State.streamHolds (s : State) (c p : Nat) : List Nat :=
  let k := s.ctx c
  match SMap.find k.ports p with
  | none => []
  | some t =>
    let e := extKey t.key (s.source c).toNat (k.point p).reqs
    match t.mode with
    | .read => if (t.chain.armed && !t.chain.spent) || !t.todo.isEmpty then [e] else []
    | .gath => if t.rows.isEmpty && t.todo.isEmpty then [] else [e]
    | .write => []
    | .idle => []

/-- The configuration of a context fires no more: it is finished, or drains (R392). -/
def ResPhase.ended (p : ResPhase) : Bool :=
  match p with | .finished => true | .draining _ => true | .loading _ => false | .running => false | .evicting => false

/-- The watermark of issue point p of a resident context (R301). One of a configuration that no longer runs holds back only what it has
issued. -/
def State.watermark (s : State) (c p : Nat) : Nat :=
  let k := s.ctx c
  let still := k.ctl.halted || (match s.res c with | some r => r.phase.ended | none => false)
  let open_ := ((s.reqs.filter fun r => r.cid = c ∧ r.port = p ∧ r.accs.any Acc.open_).map Req.ext)
    ++ (if p = 5 then s.engineHolds c else if still then [] else s.streamHolds c p)
  if !open_.isEmpty then open_.foldl min infMark
  else if still then infMark
  else if !(k.point p).live then infMark
  else max (k.point p).floor (extKey k.regs.kr (s.source c).toNat (k.point p).reqs)

/-- The lowest watermark of a context's issue points but for one. -/
def State.ctxMark (s : State) (c : Nat) (except_ : Nat × Nat) : Nat :=
  (((s.ctx c).points.map Prod.fst).filter fun p => (c, p) ≠ except_).foldl (fun m p => min m (s.watermark c p)) infMark

/-- A configuration is still being written into its context. -/
def ResPhase.loads (p : ResPhase) : Bool :=
  match p with | .loading _ => true | .running => false | .finished => false | .draining _ => false | .evicting => false

/-- The lowest watermark of a resident configuration's issue points but for one. While it is being written it has sent nothing, and its
lowest key is that of its own step; once it no longer runs, the region's next step has no lower key than that of the step after it (log
entry 12). -/
def State.resMark (s : State) (r x : Nat) (p : Resident) (except_ : Nat × Nat) : Nat :=
  if p.phase.loads then extKey (BitVec.ofNat 64 (p.step * 2 ^ 48)) 0 0
  else p.cfg.elems.foldl (fun m e => min m (s.ctxMark (mkCid r e.elem x) except_))
    (if p.phase.ended then extKey (BitVec.ofNat 64 ((p.step + 1) * 2 ^ 48)) 0 0 else infMark)

/-- The watermark a granted region of a launch contributes: what its evicted configuration had at its eviction, its resident's points, or the
key of the step it places next (R301). -/
def State.regionMark (s : State) (lid : Nat) (l : Launch) (g : Nat) (q : RegSeq) (except_ : Nat × Nat) : Nat :=
  let next := match q.phase with | some n => extKey (BitVec.ofNat 64 (n * 2 ^ 48)) 0 0 | none => infMark
  match l.saved.find? fun v => v.g = g with
  | some v => v.mark
  | none =>
    match SMap.find (s.region q.region).res q.x with
    | some p => if p.lid = lid then s.resMark q.region q.x p except_ else next
    | none => next

/-- The lowest watermark of every issue point of a launch but for one. -/
def State.launchMark (s : State) (lid : Nat) (except_ : Nat × Nat) : Nat :=
  match SMap.find s.pkg.sched.launches lid with
  | none => infMark
  | some l => l.seqs.foldl (fun m q => min m (s.regionMark lid l q.1 q.2 except_)) infMark

/-! ### Requests -/

/-- A request changed. -/
def State.updReq (s : State) (n : Nat) (f : Req → Req) : State :=
  { s with reqs := s.reqs.map fun r => if r.id = n then f r else r }
/-- A request by its number. -/
def State.req (s : State) (n : Nat) : Option Req := s.reqs.find? fun r => r.id = n
/-- A request removed. -/
def State.dropReq (s : State) (n : Nat) : State := { s with reqs := s.reqs.filter fun r => r.id ≠ n }
/-- A request writes memory. -/
def Req.writes (r : Req) : Bool := r.accs.any fun a => a.op.writes
/-- Every access of a request has been applied or discarded. -/
def Req.over (r : Req) : Bool := r.accs.all Acc.over
/-- Two byte ranges meet. -/
def meets (a n b m : Nat) : Bool := decide (a < b + m ∧ b < a + n)

/-- The count of stores of a configuration raised or lowered (R265). -/
def State.addAck (s : State) (c : Nat) : State := s.updRes c fun r => { r with stAck := r.stAck + 1 }
/-- A store performed or was discarded. -/
def State.subAck (s : State) (c : Nat) : State := s.updRes c fun r => { r with stAck := r.stAck - 1 }

/-- A poison code that also sends a record to the system context (R409). -/
def reports (code : Nat) : Bool := code == 0x23 || code == 0x24 || code == 0x26 || code == 0x27 || code == 0x28 || code == 0x2A || code == 0x2C

/-- The poison of an access: its token and, for the codes that report, the record of kind 3 (R271, R407). -/
def State.accPoison (s : State) (c code fcount addr : Nat) (key : Dword) : Token × State :=
  let t := s.poison c (BitVec.ofNat 48 fcount) code
  (t, if reports code then
        s.report c code 3 0xFF fcount (some addr) key (t.psrc.toNat + t.pcode.toNat * 2 ^ 29) t.pcount.toNat
      else s)

/-- A poison in place of an agent's result: the output it owes emits it, any other destination is released and the poison counted. -/
def State.deliverPoison (s : State) (c : Nat) (d : Deliver) (pend : Option Nat) (t : Token) : State :=
  match d, pend with
  | .vout k g, some n => s.settle c n 1 [.emit k (s.stamp c { t with tag := g })]
  | .sout k g, some n => s.settle c n 1 [.emit k (s.stamp c { t with tag := g })]
  | .dep k g, some n => s.settle c n 1 [.emit k (s.stamp c { t with tag := g })]
  | _, some n => (s.dropPend c n).countPoison c t
  | _, none => s.countPoison c t

/-- The lanes a request read, as a vector. -/
def Req.lanes (r : Req) : Vec := Vec.gen fun i => match r.accs.find? fun a => a.lane = i with
  | some a => BitVec.ofNat 32 a.val | none => 0
/-- The lanes a request names, as a mask. -/
def Req.mask (r : Req) : Mask := Mask.gen fun i => r.accs.any fun a => a.lane = i
/-- The value of a request of one access. -/
def Req.value (r : Req) : Nat := match r.accs with | a :: _ => a.val | [] => 0

/-- A token of a port's buffer is whole (R276). -/
def PortTok.whole (b : PortTok) : Bool := b.reqs.isEmpty && !b.more

/-- A request's part of a stream token in its port's buffer filled; a token that has turned to poison stays so (R276). -/
def State.fillPort (s : State) (c p n : Nat) (f : Token → Token) : State :=
  s.updCtx c fun k => { k with ports := SMap.upd k.ports p {} fun t =>
    { t with buf := t.buf.map fun b => if b.reqs.contains n then
        { b with tok := if b.tok.kind = kPOISON then b.tok else f b.tok, reqs := b.reqs.filter (· ≠ n) } else b } }

/-- The result of a request that is over, delivered to its destination (R271, R273, R274, R285, R317 to R321). -/
def State.deliver (s : State) (r : Req) : State :=
  match r.accs.find? fun a => a.code ≠ 0 with
  | some a =>
    let p := s.accPoison r.cid a.code r.fcount (if a.code = 0x28 ∨ a.code = 0x29 ∨ a.code = 0x2A ∨ a.code = 0x2C then (match a.pa with | some q => q % 2 ^ 52 | none => a.va) else a.va) r.key
    match r.deliver with
    | .port => p.2.fillPort r.cid r.port r.id fun t => { p.1 with tag := t.tag }
    | .none => p.2.deliverPoison r.cid r.deliver r.pend p.1
    | .vreg _ => p.2.deliverPoison r.cid r.deliver r.pend p.1
    | .vout _ _ => p.2.deliverPoison r.cid r.deliver r.pend p.1
    | .sreg _ => p.2.deliverPoison r.cid r.deliver r.pend p.1
    | .sout _ _ => p.2.deliverPoison r.cid r.deliver r.pend p.1
    | .pair _ => p.2.deliverPoison r.cid r.deliver r.pend p.1
    | .dep _ _ => p.2.deliverPoison r.cid r.deliver r.pend p.1
  | none =>
    match r.deliver with
    | .none => s
    | .vreg k => s.settleOpt r.cid r.pend 1 [.vec k r.mask r.lanes]
    | .vout k g => s.settleOpt r.cid r.pend 1 [.emit k (s.stamp r.cid (vecTok g r.mask r.lanes))]
    | .sreg k => s.settleOpt r.cid r.pend 1 [.sreg k (BitVec.ofNat 64 r.value)]
    | .sout k g => s.settleOpt r.cid r.pend 1 [.emit k (s.stamp r.cid (scaTok g (BitVec.ofNat 64 r.value)))]
    | .pair k => s.settleOpt r.cid r.pend 1
        [.sreg k (BitVec.ofNat 64 r.value), .sreg (k + 1) (BitVec.ofNat 64 (r.value / 2 ^ 64))]
    | .dep k g => s.settleOpt r.cid r.pend 2 [.emit k (s.stamp r.cid (depTok g))]
    | .port => s.fillPort r.cid r.port r.id fun t => { t with lanes := Vec.merge r.mask r.lanes t.lanes }

/-! ### Tiles (R261, R262) -/

/-- A tile of a region. -/
def State.tile (s : State) (r t : Nat) : Option Tile := SMap.find (s.region r).tiles t
/-- A tile changed. -/
def State.updTile (s : State) (r t : Nat) (f : Tile → Tile) : State :=
  match s.tile r t with
  | none => s
  | some x => s.updRegion r fun g => { g with tiles := SMap.set g.tiles t (f x) }
/-- The tile is ready. -/
def State.tileReady (s : State) (r t : Nat) : Bool := match s.tile r t with | some x => x.st = .ready | none => false
/-- The entry is in the state a request at the table needs: ready, and for one that changes the state held by no firing (R262). -/
def Tile.grants (t : Tile) (w : TileWait) : Bool :=
  match w with
  | .op o =>
    if o = 1 then decide (t.st = .empty ∨ (t.st = .ready ∧ t.holders = 0))
    else if o = 2 then decide (t.st = .opened)
    else if o = 3 then decide (t.st = .ready ∧ t.holders = 0)
    else true
  | .store _ => decide (t.st = .ready ∧ t.holders = 0)
  | .drain _ => decide (t.st = .ready ∧ t.holders = 0)
  | .copy _ => decide (t.st = .ready ∧ t.holders = 0)
  | .gather _ => decide (t.st = .ready)

/-- The transition of an operation of TILEQ (1 OPEN, 2 CLOSE, 3 FREE); `n` is the number of the next request. -/
def Tile.apply (t : Tile) (o n : Nat) : Tile :=
  if o = 1 then { t with st := .opened, mark := none }
  else if o = 2 then { t with mark := some (t.mark.getD n) }
  else if o = 3 then { t with st := .draining, mark := some n }
  else t

/-- A request at the table is served: a writer makes the tile filling, a PGATHER holds it ready. -/
def Tile.grant (t : Tile) (w : TileWait) (n : Nat) : Tile :=
  match w with
  | .op o => t.apply o n
  | .store _ => { t with st := .filling }
  | .drain _ => { t with st := .filling }
  | .copy _ => { t with st := .filling }
  | .gather _ => { t with holders := t.holders + 1 }

/-- Requests at the table in their order: those whose state has come are served, the others wait on (R262). -/
def Tile.serve (t : Tile) (n : Nat) : List TileWait → Tile
  | [] => { t with waitq := [] }
  | w :: rest =>
    if t.grants w then (t.grant w n).serve n rest
    else
      let u := t.serve n rest
      { u with waitq := w :: u.waitq }

/-- A tile changes, and its entry serves what waits there. -/
def State.tileTurn (s : State) (r t : Nat) (f : Tile → Tile) : State :=
  s.updTile r t fun x => (f x).serve s.reqNo x.waitq
/-- A request reaches a tile's entry: served at once if the entry is in the state it needs, else behind those that wait. -/
def State.tileAsk (s : State) (r t : Nat) (w : TileWait) : State :=
  s.updTile r t fun x => if x.grants w then x.grant w s.reqNo else { x with waitq := x.waitq ++ [w] }
/-- A request waits at a tile's entry. -/
def State.tileWaits (s : State) (r t : Nat) (w : TileWait) : Bool := match s.tile r t with | some x => x.waitq.contains w | none => false
/-- The writer's last write has performed: filling to ready. -/
def State.tileFilled (s : State) (r t : Nat) : State := s.tileTurn r t fun x => if x.st = .filling then { x with st := .ready } else x
/-- A gather lets the tile go. -/
def State.unholdTile (s : State) (r t : Nat) : State := s.tileTurn r t fun x => { x with holders := x.holders - 1 }

/-! ### Issue through a port (R263, R264, R268, R333, R335 to R337) -/

/-- What keeps a request at the head of its port. -/
inductive Gate where
  | go
  /-- A failed check: code and address. -/
  | fail (code va : Nat)
  | notPresent (va : Nat)
  /-- A stale or held entry, or one outside the window: its page. -/
  | fetch (page : Nat)
  /-- The dirty bit must be set first: its page. -/
  | dirty (page : Nat)
  | wait
  deriving DecidableEq, Repr

/-- What one access of a request finds at its generator, once it has passed its checks. A running stream fetches its entries ahead of use, and
asks the window for nothing (R333). -/
def Req.gateAcc (r : Req) (g : Gen) (a : Acc) : Gate :=
  let pg := a.va / pageBytes g.page
  let e := g.entry a.va
  if g.page = 3 then .go
  else if e.awaits then .wait
  else if e.lazy ∨ !(r.stream || g.window.contains pg || r.fetched.contains pg) then .fetch pg
  else if e.p.absent then .notPresent a.va
  else if a.op.writes ∧ e.dDone = false then .dirty pg
  else .go

/-- The first access that cannot go. -/
def gateAll (f : Acc → Gate) : List Acc → Gate
  | [] => .go
  | a :: t =>
    match f a with
    | .go => gateAll f t
    | .fail c v => .fail c v
    | .notPresent v => .notPresent v
    | .fetch p => .fetch p
    | .dirty p => .dirty p
    | .wait => .wait

/-- Returned data a port still holds in order: 64 requests at most (R268). -/
def State.reorderFull (s : State) (c p : Nat) : Bool :=
  decide (64 ≤ (s.reqs.filter fun r => r.cid = c ∧ r.port = p ∧ r.issued ∧ r.accs.any fun a => a.op.reads).length)

/-- Two accesses of one context name a byte in common by their addresses as the program gave them. -/
def Acc.names (a b : Acc) : Bool := meets a.va a.size b.va b.size

/-- The port has issued its request of this cycle (R263). -/
def State.portBusy (s : State) (c p : Nat) : Bool := s.reqs.any fun q => q.cid = c ∧ q.port = p ∧ q.issued ∧ q.cycle = s.cycle

/-- An earlier request of the port goes first: every one that has not issued, but for a TILEST at its table, which holds back only accesses to
its own bytes (R262, R263, R288). -/
def State.behind (s : State) (r : Req) : Bool :=
  s.reqs.any fun q => q.cid = r.cid ∧ q.port = r.port ∧ q.id < r.id ∧ q.issued = false ∧
    (q.tile.isNone || q.accs.any fun b => r.accs.any fun a => a.names b)

/-- The TILEST of a request waits at its table. -/
def State.atTable (s : State) (r : Req) : Bool :=
  match r.tile with | some t => s.tileWaits (regionOf r.cid) t (.store r.id) | none => false

/-- What a request that has not issued finds: its port, its tile (R262), its port's earlier requests, its checks and its pages (R271). A lane
whose entry awaits its repatch is judged before any later lane. -/
def State.gate (s : State) (r : Req) : Gate :=
  if s.portBusy r.cid r.port || s.atTable r || s.behind r then .wait
  else if r.port = 4 then .go
  else if s.reorderFull r.cid r.port then .wait
  else match s.gen r.cid r.port with
    | none => .wait
    | some g =>
      match s.checkAll r.cid r.port r.accs with
      | some (c, v) => .fail c v
      | none => if r.accs.any (s.undecided r.cid r.port) then .wait else gateAll (r.gateAcc g) r.accs

/-- How many elements a write stream has. -/
def SPort.total (t : SPort) : Nat := t.counts.foldl (· * ·) 1

/-- Where an access of a request goes: the model's address and the key slot of its leaf. -/
def State.place (s : State) (c p va : Nat) : Nat × Nat :=
  if p = 4 then (s.vaultKey va, 0)
  else match s.gen c p with
    | none => (s.vaultKey va, 0)
    | some g =>
      if g.page = 3 then (s.vaultKey va, 0)
      else match (g.entry va).p with
        | .frame b _ _ _ sp k => (physKey sp (b + va % pageBytes g.page), if sp then 0 else k)
        | .pg => (va, 0)
        | .np => (va, 0)

/-- The accesses of a request on their way. -/
def State.launchAccs (s : State) (c p : Nat) (l : List Acc) : List Acc :=
  l.map fun a =>
    let w := s.place c p a.va
    { a with st := .flight, pa := some w.1, kslot := w.2, due := s.cycle + s.latency (regionOf c) w.1 - 1 }

/-- The greatest count of UCIe links among accesses on their way. -/
def State.hopsOf (s : State) (r : Nat) (l : List Acc) : Nat :=
  (l.map fun a => match a.pa with | some p => s.ownHops r p | none => 0).foldl max 0

/-- A request issues. -/
def State.sendReq (s : State) (r : Req) : State :=
  let l := s.launchAccs r.cid r.port r.accs
  let far := s.cycle + 40 * s.hopsOf (regionOf r.cid) l
  let reads := r.accs.any fun a => a.op.reads
  (s.updReq r.id fun q => { q with issued := true, stopped := false, cycle := s.cycle, accs := l }).updCtx r.cid fun k =>
    let q := k.point r.port
    { k with points := SMap.set k.points r.port
              { q with readAt := if reads then some s.cycle else q.readAt, wroteAt := if r.writes then some s.cycle else q.wroteAt,
                       readFar := if reads then max q.readFar far else q.readFar,
                       wroteFar := if r.writes then max q.wroteFar far else q.wroteFar } }

/-- A port rests once the last element of its write stream has been stored, or its store discarded (R275, R278). -/
def State.portRest (s : State) (c p : Nat) : State :=
  let t := SMap.get (s.ctx c).ports p {}
  if t.mode = .write ∧ t.total ≤ t.pos ∧ !(s.reqs.any fun q => q.cid = c ∧ q.port = p ∧ q.stream ∧ q.settled = false) then
    s.updCtx c fun k => { k with ports := SMap.set k.ports p { t with mode := .idle } }
  else s

/-- A request that fails its checks at its generator: none of its accesses is made. -/
def State.failReq (s : State) (r : Req) (code va : Nat) : State :=
  let r1 := { r with accs := match r.accs with
    | a :: t => { a with code, st := .dropped, va } :: t.map fun b => { b with st := .dropped }
    | [] => [] }
  ((((if r.writes then s.subAck r.cid else s).deliver r1).dropReq r.id).updRegion (regionOf r.cid) fun g => { g with progress := true }).portRest
    r.cid r.port

/-- The NOTPRES stop of a request at its generator (R337): each address it stops on is reported once. -/
def State.stopReq (s : State) (r : Req) (va : Nat) : State :=
  if r.reported = some va then s
  else
    let s1 := s.updReq r.id fun q => { q with stopped := true, reported := some va }
    s1.report r.cid 0x25 2 r.port r.fcount (some va) r.key

/-- A request that has not issued tries to: it issues, fails its checks, stops, or waits. -/
def State.tryReq (s : State) (r : Req) : State :=
  match s.gate r with
  | .go => s.sendReq r
  | .fail c v => s.failReq r c v
  | .notPresent v => s.stopReq r v
  | .fetch _ => s
  | .dirty _ => s
  | .wait => s

/-! ### At the memory node (R265, R270, R313, R329, R342, R415) -/

/-- The new word of an atomic (R317), w bits wide. -/
def atomNew (op sub w old b : Nat) : Nat :=
  let lt (x y : Nat) : Bool := if sub = 0 then decide (signedN w x < signedN w y) else decide (x < y)
  if op = 0xC0 then (old + b) % 2 ^ w
  else if op = 0xC1 then old &&& b
  else if op = 0xC2 then old ||| b
  else if op = 0xC3 then old ^^^ b
  else if op = 0xC4 then (if lt b old then b else old)
  else if op = 0xC5 then (if lt old b then b else old)
  else if op = 0xC6 then b
  else if op = 0xC8 then (fadd 0 (BitVec.ofNat 32 old) (BitVec.ofNat 32 b)).1.toNat
  else if op = 0xC9 then (fminmax false false (BitVec.ofNat 32 old) (BitVec.ofNat 32 b)).1.toNat
  else if op = 0xCA then (fminmax true false (BitVec.ofNat 32 old) (BitVec.ofNat 32 b)).1.toNat
  else if op = 0xCC then
    (if sub = 0 then (if b ≤ old then 0 else old + 1)
     else if sub = 1 then (if old < b then old + 1 else old)
     else if old = 0 ∨ b < old then b else old - 1)
  else
    let k := b % w
    if sub = 0 then old ||| 2 ^ k
    else if sub = 1 then (if old.testBit k then old - 2 ^ k else old)
    else old ^^^ 2 ^ k

/-- What an operation leaves in memory, if it writes: the old value is given. -/
def AccOp.result (o : AccOp) (size old : Nat) : Option Nat :=
  match o with
  | .rd => none
  | .wr v => some (v % 2 ^ (8 * size))
  | .atom op sub b => some (atomNew op sub (8 * size) old (b % 2 ^ (8 * size)))
  | .cas e n => some (if old = e % 2 ^ (8 * size) then n % 2 ^ (8 * size) else old)
  | .wadd b => some ((old + b) % 2 ^ 128)

/-- A request's stores cover a whole 64-byte block (R415). -/
def Req.covers (r : Req) (blk : Nat) : Bool :=
  (rangeFrom (64 * blk) 64).all fun x => r.accs.any fun a => (match a.op with | .wr _ => true | .rd => false | .atom _ _ _ => false | .cas _ _ => false | .wadd _ => false)
    && (match a.pa with | some p => decide (p ≤ x ∧ x < p + a.size) | none => false)

/-- An uncorrectable error stands in the vault line of an address (R270). -/
def State.vaultBad (s : State) (a : Nat) : Bool := !isHbm a && s.vaultErrs.any fun e => decide (e.1 ≤ s.cycle) && e.2 == a / 128
/-- The access that met the error has met it; no other does (R270). -/
def State.vaultMet (s : State) (a : Nat) : State :=
  { s with vaultErrs := s.vaultErrs.filter fun e => !(decide (e.1 ≤ s.cycle) && e.2 == a / 128) }

/-- An uncorrectable error stands in the HBM block of an address, and nothing has found it yet (R415). -/
def State.latentErr (s : State) (a : Nat) : Bool := isHbm a && s.hbmErrs.any fun e => decide (e.1 ≤ s.cycle) && e.2 == a / 64
/-- The error in the block of an address is found: the block is marked, and the launch of the access, if it has one, is to be killed (R415). -/
def State.findErr (s : State) (lid : Nat) (cid : Option Nat) (fcount a : Nat) (key : Dword) : State :=
  { s with hbmErrs := s.hbmErrs.filter (fun e => !(decide (e.1 ≤ s.cycle) && e.2 == a / 64)),
           pkg := { s.pkg with marked := if s.isMarked a then s.pkg.marked else s.pkg.marked ++ [a / 64],
                               found := if lid = 0 then s.pkg.found else s.pkg.found ++ [⟨lid, cid, fcount, a, key⟩] } }
/-- The read of an access of a context finds the error in a block (R415). -/
def State.findFor (s : State) (c fcount a : Nat) (key : Dword) : State := s.findErr (s.lidOf c) (some c) fcount a key
/-- An access of a request reads its block, for a load, an atomic, or the merge of a store that covers less (R415). -/
def Req.readsBlock (r : Req) (a : Acc) (pa : Nat) : Bool := a.op.reads || !r.covers (pa / 64)

/-- The poison an access meets at its node, or 0: MIGRATED, PTSTORE, PTFRAME, DEADROW, HBMUE, VAULTECC. -/
def State.nodeCode (s : State) (r : Req) (a : Acc) (pa : Nat) : Nat :=
  if s.isRetired pa then 0x28
  else if s.isTable pa ∧ a.op.writes then 0x26
  else if s.isTable pa ∧ ctxOf r.cid < 4 then 0x27
  else if !s.granLive pa ∧ !a.op.writes then 0x29
  else if s.isMarked pa ∧ !(r.covers (pa / 64)) then 0x2C
  else if a.op.reads && s.vaultBad pa then 0x2A
  else 0

/-- One access of a request changed. -/
def State.updAcc (s : State) (n : Nat) (a : Acc) (f : Acc → Acc) : State :=
  s.updReq n fun q => { q with accs := q.accs.map fun b => if b.lane = a.lane ∧ b.va = a.va then f b else b }

/-- One access of a request meets poison at its node: it is discarded. -/
def State.dropAcc (s : State) (r : Req) (a : Acc) (pa code : Nat) : State :=
  (if code = 0x2A then s.vaultMet pa else s).updAcc r.id a fun b => { b with st := .dropped, code }

/-- One access of a request applied at its node, which serves it in this cycle. -/
def State.applyAcc (s : State) (r : Req) (a : Acc) : State :=
  match a.pa with
  | none => s
  | some pa =>
    let s := (s.takeNode r a pa).updRegion (regionOf r.cid) fun g => { g with progress := true }
    let code := s.nodeCode r a pa
    if code ≠ 0 then s.dropAcc r a pa code
    else
      let s0 := if a.op.writes then s.revive a.kslot pa else s
      let s0 := if s0.isMarked pa ∧ r.covers (pa / 64) then s0.updPkg fun p => { p with marked := p.marked.filter (· ≠ pa / 64) } else s0
      let old := natLE (s0.view a.kslot pa a.size)
      let s1 := match a.op.result a.size old with
        | none => s0
        | some v => s0.put a.kslot pa (bytesLE a.size v)
      s1.updAcc r.id a fun b => { b with st := .done, val := old }

/-- What a request that has performed leaves behind, once: its count, and off the ports' reorder buffers its delivery (R265, R273). A keyed
store has performed when it is placed (R301), and stays to be applied; the request of a TILEST stays for one more cycle, at whose end its
tile is ready (R286). -/
def State.finishReq (s : State) (n : Nat) : State :=
  match s.req n with
  | none => s
  | some r =>
    if !(r.accs.all Acc.performed) then s
    else
      let s1 := if r.settled then s
        else
          let s0 := (if r.writes then s.subAck r.cid else s).updReq n fun q => { q with settled := true }
          if r.port < 4 ∧ (r.accs.any fun a => a.op.reads) then s0
          else ((s0.deliver r).updReq n fun q => { q with deliver := .none, pend := none }).portRest r.cid r.port
      if !r.over ∨ r.tile.isSome ∨ (r.port < 4 ∧ (r.accs.any fun a => a.op.reads)) then s1
      else
        -- poison met by a keyed store after it had performed
        (if r.settled ∧ r.accs.any (fun a => a.code ≠ 0) then s1.deliver r else s1).dropReq n

/-- The cycle after the last write of a TILEST has performed: its tile is ready (R262, R286). -/
def State.fillDone (s : State) (r : Req) (t : Nat) : State :=
  ((s.tileFilled (regionOf r.cid) t).updReq r.id fun q => { q with tile := none }).finishReq r.id

/-- Two placed accesses touch a byte in common. -/
def Acc.touches (a b : Acc) : Bool := match a.pa, b.pa with
  | some x, some y => meets x a.size y b.size
  | none, _ => false
  | _, none => false

/-- The firing at which a request stands in its party's program order: a stream's stand at its SPORT or SGATH (R287). -/
def State.posOf (s : State) (q : Req) : Nat :=
  if q.stream && q.writes then (SMap.get (s.ctx q.cid).ports q.port {}).firing else q.fcount

/-- Request q comes before request r in the program order of one party (R287). -/
def State.earlier (s : State) (q r : Req) : Bool :=
  q.cid == r.cid && (decide (s.posOf q < s.posOf r) || (s.posOf q == s.posOf r && decide (q.id < r.id)))

/-- Accesses of the same context through the same port to the same bytes that must go first (R263); a release that comes after a stream in
program order goes after its requests (R287, R290). -/
def State.portFirst (s : State) (r : Req) (a : Acc) : Bool :=
  s.reqs.any fun q => q.cid = r.cid ∧ q.port = r.port ∧ q.id ≤ r.id ∧ !(q.release.isSome && s.earlier r q) ∧
    q.accs.any fun b => (decide (q.id < r.id) || decide (b.lane < a.lane)) && !b.performed && a.touches b

/-- Where an access will go, as far as its generator knows. -/
def State.whereTo (s : State) (c p : Nat) (a : Acc) : Acc :=
  match a.pa with
  | some _ => a
  | none =>
    if p = 4 then { a with pa := some (s.vaultKey a.va) }
    else match s.gen c p with
      | none => a
      | some g =>
        if g.page = 3 then { a with pa := some (s.vaultKey a.va) }
        else match (g.entry a.va).p with
          | .frame _ _ _ _ _ _ => { a with pa := some (s.place c p a.va).1 }
          | .pg => a
          | .np => a

/-- The requests that stand in an element's port queues before a request that is made now, and that a release at lane or elem keeps before it
(R289): stores that a context of the element had handed over before its last such fence, and before a GSTR (R290) its own party's. -/
def State.behindOf (s : State) (r : Req) : List Nat :=
  (s.reqs.filter fun q => eidOf q.cid == eidOf r.cid && !q.keyed && q.writes && !q.accs.all Acc.performed
    && (decide (q.id < (s.ctx q.cid).fenceMark) || (r.release.isSome && q.cid == r.cid))).map Req.id

/-- A store that the element's port queues keep before a request has yet to perform on bytes of its access (R289). Where its page is not known
yet, its address as the program gave it says so. -/
def State.queueFirst (s : State) (r : Req) (a : Acc) : Bool :=
  !r.behind.isEmpty && s.reqs.any fun q => r.behind.contains q.id && q.accs.any fun b =>
    b.op.writes && !b.performed && (let w := s.whereTo q.cid q.port b; a.touches w || (w.pa.isNone && a.names b))

/-- The links that count for the commitment of an access of region r (R312). -/
def State.accHops (s : State) (r : Nat) (a : Acc) : Nat := match a.pa with | some p => s.ownHops r p | none => 0

/-- Access b of request q entered the network that carries it and access a of request r to their node before a did: by their issue within one
frond, whose every network an access enters the same count of cycles after its issue, by the figures of R312 between fronds (R289). -/
def State.enteredFirst (s : State) (q r : Req) (b a : Acc) : Bool :=
  if frondOf (regionOf q.cid) = frondOf (regionOf r.cid) then decide (q.cycle < r.cycle)
  else decide (q.cycle + 40 * s.accHops (regionOf q.cid) b < r.cycle + 40 * s.accHops (regionOf r.cid) a)

/-- A stream of the context still has accesses to make; they stand in program order at its SPORT, or at the SGATH (R287). -/
def SPort.unfinished (t : SPort) (loadsOnly : Bool) : Bool :=
  match t.mode with
  | .read => !t.chain.spent || !t.todo.isEmpty
  | .write => !loadsOnly
  | .gath => !(t.rows.isEmpty && t.todo.isEmpty)
  | .idle => false

/-- Cycles from the issue of an access to its commitment at a scope (R312); none where commitment is performing. -/
def commitCycles (scope h : Nat) : Option Nat :=
  if scope ≤ 1 then some 1 else if scope = 2 then some 2 else if scope = 3 then some 4 else if scope = 4 then some 14
  else if scope = 5 then some (14 + 40 * h) else none

/-- An access of request r has entered the network of a scope's instance (R289, R312): it stands in its port's queue as soon as its firing has
made it; at the wider scopes it enters the figure of R312 after its issue. -/
def State.entered (s : State) (r : Req) (scope : Nat) (a : Acc) : Bool :=
  decide (scope ≤ 1) || (r.issued && (match commitCycles scope (s.accHops (regionOf r.cid) a) with
    | some n => decide (r.cycle + n ≤ s.cycle)
    | none => false))

/-- An acquire of the party comes before a request and has yet to perform (R285, R290). -/
def State.acquireFirst (s : State) (r : Req) : Bool := s.reqs.any fun q => q.acquire && s.earlier q r && q.accs.any fun b => !b.performed

/-- An access of request q is committed at the scope of a later GSTR of its party (R289, R290): performed, or a store that has entered the network
of that scope, or that stands before the GSTR in the port queues. -/
def State.releasedAt (s : State) (q r : Req) (scope : Nat) (b : Acc) : Bool :=
  b.performed || (!b.op.reads && s.entered q scope b && (decide (scope ≤ 1) || (q.release.isNone && !s.acquireFirst q))
    && (decide (q.id < r.id) || !r.accs.any fun a => a.touches b))

/-- Earlier accesses of the party that an acquire or a release holds back behind (R285, R290). -/
def State.orderFirst (s : State) (r : Req) : Bool :=
  s.acquireFirst r || match r.release with
    | none => false
    | some k => (s.reqs.any fun q => s.earlier q r && q.accs.any fun b => !s.releasedAt q r k b)
        || (s.ctx r.cid).ports.any fun p => decide (p.2.firing < s.posOf r) && p.2.unfinished false

/-- In open mode the network delivers conflicting accesses to their node in the order in which they entered it (R266, R289, R292). One that its
own party's earlier accesses or its element's queues still hold back has not entered it. -/
def State.netFirst (s : State) (r : Req) (a : Acc) : Bool :=
  !r.keyed && s.reqs.any fun q => q.id != r.id && !q.keyed && q.issued && !s.orderFirst q &&
    q.accs.any fun b => !b.over && (b.op.writes || a.op.writes) && a.touches b && s.enteredFirst q r b a && !s.queueFirst q b

/-- From the freeze to its completion, a migration holds back accesses to the old frame (R340, R342). -/
def XStage.freezes (g : XStage) : Bool :=
  match g with
  | .inval _ => true
  | .acked _ => true
  | .frozen _ => true
  | .copied _ => true
  | .sent _ => false
  | .queued => false
  | .replay _ => true
  | .settle _ => false
  | .done _ => false

/-- Bytes of a leaf of a level: 64 KiB, 2 MiB or 1 GiB at levels 3, 2 and 1 (R325). -/
def levelBytes (l : Nat) : Nat := if l = 3 then 2 ^ 16 else if l = 2 then 2 ^ 21 else 2 ^ 30

/-- The bytes of the frame a migration moves; 0 for another event. -/
def XKind.moves (k : XKind) : Nat :=
  match k with
  | .migrate l => levelBytes l
  | .map _ _ => 0
  | .unmap _ _ => 0
  | .protect _ _ _ _ => 0
  | .xinval _ => 0
  | .adread _ _ _ => 0
  | .xprobe => 0
  | .xsync => 0

/-- SP and the frame of a leaf or of MIGRATE's operand, as the model's address. -/
def frameOf (w : Nat) : Nat := physKey (w.testBit 56) (bitsN w 51 16 * 2 ^ 16)
/-- The key slot of a leaf; that of a vault frame is ignored (R436). -/
def leafSlot (w : Nat) : Nat := if w.testBit 56 then 0 else bitsN w 11 0

/-- A migration's refused accesses go again against the new frame: its repatch is done (R340 step 4). -/
def Xev.replays (e : Xev) : Bool :=
  (match e.stage with
    | .replay _ => true | .sent _ => false | .queued => false | .inval _ => false | .acked _ => false | .frozen _ => false | .copied _ => false
    | .settle _ => false | .done _ => false) && e.mark != 0

/-- Where an access of an engine or an agent goes, with its key slot: one that the nodes of a frozen frame refuse is issued again, once the leaf is
remapped, against the new frame (R340, R341). -/
def State.redirect (s : State) (p : Nat × Nat) : Nat × Nat :=
  match s.pkg.xlat.evs.find? fun e => e.replays && decide (e.oldBase ≤ p.1 ∧ p.1 < e.oldBase + e.kind.moves) with
  | some e => (frameOf e.arg + (p.1 - e.oldBase), leafSlot e.arg)
  | none => p

/-- An access is frozen by a migration at its node (R340). -/
def State.isFrozen (s : State) (a : Nat) : Bool :=
  s.pkg.xlat.evs.any fun e => e.stage.freezes && decide (e.oldBase ≤ a ∧ a < e.oldBase + e.kind.moves)

/-- The access of a request at a lane. -/
def Req.acc (r : Req) (lane : Nat) : Option Acc := r.accs.find? fun a => a.lane = lane ∧ !a.over

/-- The package of an address can be reached: it is this one, or ROUTE gives it a port that has trained (R448). -/
def State.linked (s : State) (a : Nat) : Bool := pkgOf a == s.pkg.pkgId || (s.pkg.fabric.portFor (pkgOf a)).isSome

/-- An access on its way has arrived and may perform. -/
def State.accReady (s : State) (r : Req) (a : Acc) : Bool :=
  a.st = .flight && decide (a.due ≤ s.cycle) && !s.portFirst r a && !s.queueFirst r a && !s.orderFirst r && !s.netFirst r a
    && (match a.pa with | some p => s.linked p && !s.isFrozen p && (r.keyed || s.nodeFree r a p) | none => false)

/-- A placed access may be applied: below every other watermark of its launch, and nothing of the launch with a lower extended key to its
bytes is still to come (R301). -/
def State.keyReady (s : State) (r : Req) (a : Acc) : Bool :=
  a.st = .placed && decide (r.ext < s.launchMark r.lid (r.cid, r.port))
    && (match a.pa with | some p => s.linked p && !s.isFrozen p && s.nodeFree r a p | none => false)
    && !(s.reqs.any fun q => q.lid == r.lid && q.keyed && q.accs.any fun b => !b.over
          && (decide (q.ext < r.ext) || (decide (q.ext = r.ext) && decide (b.lane < a.lane))) && a.touches b)

end Sys2Proof.Machine
end

