-- ==== Sys2Proof/Machine/MemStrip.lean ====
section
/-! DEFINITION. The memory access instructions of the M-strips (R257 to R286): direct vault access, indexed access through ports,
streams, tiles, allocations, prefetch and single accesses. -/

namespace Sys2Proof.Machine

/-! ### A firing that accesses memory -/

/-- What a firing asks of memory: its port (4: the vault path), its accesses, how the result is delivered and what it reserves, the scope
of a release, whether it is an acquire, its tile, and whether it is of a running stream and in which class (R269). -/
structure Shot where
  port : Nat
  accs : List Acc
  dl : Deliver := .none
  vs : List Nat := []
  xs : List Nat := []
  os : List Nat := []
  release : Option Nat := none
  acquire : Bool := false
  tile : Option Nat := none
  stream : Bool := false
  bulk : Bool := false
  deriving DecidableEq, Repr

/-- The destination stays reserved until the result is delivered. -/
def Shot.owes (h : Shot) : Bool := !(h.vs.isEmpty && h.xs.isEmpty && h.os.isEmpty)

/-- The request of a firing in hand. -/
def State.reqOf (s : State) (h : Shot) : Req :=
  let c := s.cur.cid
  { id := s.reqNo, cid := c, port := h.port, vspace := decide (h.port = 4), accs := h.accs, deliver := h.dl,
    pend := if h.owes then some s.pendNo else none, fcount := s.firing.toNat, lid := s.lidOf c, keyed := s.keyed c,
    key := s.my.regs.kr, ext := s.nextExt h.port, cls := bit01 h.bulk, release := h.release, tile := h.tile,
    seq := (SMap.get s.my.ports h.port {}).seq, cycle := s.cycle, issued := false, stopped := false, reported := none,
    acquire := h.acquire, serial := s.my.stIssued, stream := h.stream }

/-- A request handed to its port: numbered, in the port's sequence (R268), behind what a release keeps before it (R289), counted if it stores
(R265, R311). -/
def State.addReq (s : State) (r : Req) : State :=
  let s1 := { s with reqs := s.reqs ++ [{ r with behind := s.behindOf r }], reqNo := s.reqNo + 1 }
  let s2 := s1.updCtx r.cid fun k =>
    { k with stIssued := if r.writes then k.stIssued + 1 else k.stIssued,
             ports := if r.port < 4 then SMap.upd k.ports r.port {} fun t => { t with seq := (t.seq + 1) % 4096 } else k.ports }
  if r.writes then s2.addAck r.cid else s2

/-- A firing's request handed over: its destination reserved, and a TILEST's at its tile's entry. -/
def State.placeReq (s : State) (h : Shot) : State :=
  let r := s.reqOf h
  let s1 := (if h.owes then s.openPend s.cur.cid h.vs h.xs h.os else s).addReq r
  match h.tile with
  | some t => s1.tileAsk (regionOf r.cid) t (.store r.id)
  | none => s1

/-- A firing's request made: handed over, its key used (R299), and the request issued at once if nothing holds it. -/
def State.shoot (s : State) (h : Shot) : State := ((s.placeReq h).stepKey h.port).tryReq (s.reqOf h)

/-- A request number of an issue point used, under a key that the firing uses further (R300). -/
def State.useNumber (s : State) (p : Nat) : State :=
  s.updCtx s.cur.cid fun k => { k with points := SMap.set k.points p { k.point p with last := some k.regs.kr, reqs := (k.point p).reqs + 1 } }

/-- A firing's accesses made as several requests, in order (R264). -/
def State.shootRuns (s : State) (h : Shot) : List (List Acc) → State
  | [] => s
  | [l] => s.shoot { h with accs := l }
  | l :: t => (((s.placeReq { h with accs := l }).useNumber h.port).tryReq (s.reqOf { h with accs := l })).shootRuns h t

/-- Accesses cut where the page changes (R264); V-space has no pages. -/
def pageRuns (page : Nat) : List Acc → List (List Acc)
  | [] => []
  | a :: t =>
    match pageRuns page t with
    | (b :: l) :: rest => if page = 3 ∨ a.va / pageBytes page = b.va / pageBytes page then (a :: b :: l) :: rest else [a] :: (b :: l) :: rest
    | rest => [a] :: rest

/-- Poison(code) in place of a firing's result, on an output tagged as that output is (R271). -/
def State.poisonNew (s : State) (d : Dst) (code : Nat) : Token :=
  match d with
  | .out k => { s.myPoison code with tag := s.my.otag k.toNat }
  | .v _ => s.myPoison code
  | .x _ => s.myPoison code
  | .null => s.myPoison code

/-- A firing that accesses memory (R271, R273): POISON on a source propagates; no active lane accesses nothing; a check that fails gives
its poison, and for some codes a report, and no lane accesses memory; a key out of order is a precise trap (R299, R300); else the request
is made. `d` is where poison goes. -/
def State.access (s : State) (d : Dst) (srcs : List Src) (h : Shot) : Out :=
  match s.poisoned srcs with
  | some p => s.poisonTo d 1 p
  | none =>
    if h.accs.isEmpty then s.done
    else match s.checkAll s.cur.cid h.port h.accs with
      | some (code, va) =>
        ((s.accPoison s.cur.cid code s.firing.toNat va s.my.regs.kr).2).poisonTo d 1 (s.poisonNew d code)
      | none => if s.keyFault h.port then s.trap 0x04 else .next ((s.shoot h).retire)

/-- The mask bits of the active lanes: the lane-valid mask, and the lanes valid in each vector head read (R272). -/
def State.active (s : State) (srcs : List Src) : Mask := srcs.foldl (fun m a => m &&& s.validOf a) s.my.regs.mask

/-- How a vector load is delivered. -/
def State.vecDeliver (s : State) (d : Dst) : Deliver :=
  match d with
  | .v k => .vreg k.toNat
  | .out k => .vout k.toNat (s.my.otag k.toNat)
  | .x k => .sreg k.toNat
  | .null => .none

/-- How a scalar load is delivered. -/
def State.scaDeliver (s : State) (d : Dst) : Deliver :=
  match d with
  | .v k => .vreg k.toNat
  | .out k => .sout k.toNat (s.my.otag k.toNat)
  | .x k => .sreg k.toNat
  | .null => .none

/-- How a store's dependence token is delivered. -/
def State.depDeliver (s : State) (d : Dst) : Deliver :=
  match d with
  | .out k => .dep k.toNat (s.my.otag k.toNat)
  | .v _ => .none
  | .x _ => .none
  | .null => .none

/-! ### Direct vault access (R273) -/

/-- VLD: lane i from S1 + 4 i. -/
def execVld (d : Dst) (a : Src) (s : State) : Out :=
  let base := (s.srcSca a).toNat
  s.access d [a] { port := 4, accs := (Mask.list (s.active [])).map fun i => { lane := i, va := base + 4 * i, size := 4, op := .rd },
                   dl := s.vecDeliver d, vs := vOf d, os := outOf d }

/-- VST: lane i to S1 + 4 i. -/
def execVst (d : Dst) (a b : Src) (s : State) : Out :=
  let base := (s.srcSca a).toNat
  let v := s.srcVec b
  s.access d [a, b] { port := 4,
                      accs := (Mask.list (s.active [b])).map fun i =>
                        { lane := i, va := base + 4 * i, size := 4, op := .wr (v.get i).toNat },
                      dl := s.depDeliver d, os := outOf d }

/-- VLDX: lane i from S1 + S2[i] × 2^n, exact. -/
def execVldx (d : Dst) (a b : Src) (n : BitVec 2) (s : State) : Out :=
  let base := (s.srcSca a).toNat
  let ix := s.srcVec b
  s.access d [a, b] { port := 4,
                      accs := (Mask.list (s.active [b])).map fun i =>
                        { lane := i, va := base + (ix.get i).toNat * 2 ^ n.toNat, size := 4, op := .rd },
                      dl := s.vecDeliver d, vs := vOf d, os := outOf d }

/-- VSTX: lane i of vD to S1 + S2[i] × 2^n, exact. -/
def execVstx (d : Dst) (a b : Src) (n : BitVec 2) (s : State) : Out :=
  let base := (s.srcSca a).toNat
  let ix := s.srcVec b
  let v := s.dstVec d
  s.access .null [a, b] { port := 4,
                          accs := (Mask.list (s.active [b])).map fun i =>
                            { lane := i, va := base + (ix.get i).toNat * 2 ^ n.toNat, size := 4, op := .wr (v.get i).toNat } }

/-! ### Indexed access through a port (R274) -/

/-- Address j of an address-pair vector (R127). -/
def pairAt (v : Vec) (j : Nat) : Nat := (v.get (2 * j)).toNat + (v.get (2 * j + 1)).toNat * 2 ^ 32

/-- The addresses of a pair vector that are active: those whose lane 2 j is (R274). -/
def activePairs (m : Mask) : List Nat := (List.range 96).filter fun j => m.getLsbD (2 * j)

/-- GLD: address j to lane 96 × HI + j. -/
def execGld (d : Dst) (a : Src) (h : BitVec 1) (p : BitVec 2) (s : State) : Out :=
  let v := s.srcVec a
  s.access d [a] { port := p.toNat,
                   accs := (activePairs (s.active [a])).map fun j => { lane := 96 * h.toNat + j, va := pairAt v j, size := 4, op := .rd },
                   dl := s.vecDeliver d, vs := vOf d, os := outOf d }

/-- GST: lane 96 × HI + j of S2 to address j. -/
def execGst (d : Dst) (a b : Src) (h : BitVec 1) (p : BitVec 2) (s : State) : Out :=
  let v := s.srcVec a
  let w := s.srcVec b
  s.access d [a, b] { port := p.toNat,
                      accs := (activePairs (s.active [a, b])).map fun j =>
                        { lane := 96 * h.toNat + j, va := pairAt v j, size := 4, op := .wr (w.get (96 * h.toNat + j)).toNat },
                      dl := s.depDeliver d, os := outOf d }

/-! ### Single accesses (R285) -/

/-- The port a single access or an atomic goes through: the vault path with .V. -/
def pathOf (v : BitVec 1) (p : BitVec 2) : Nat := if v = 1 then 4 else p.toNat

/-- GLDA: an acquire load. -/
def execGlda (d : Dst) (a : Src) (_g : BitVec 4) (w v : BitVec 1) (p : BitVec 2) (s : State) : Out :=
  s.access d [a] { port := pathOf v p, accs := [{ lane := 0, va := (s.srcSca a).toNat, size := 4 + 4 * w.toNat, op := .rd }],
                   dl := s.scaDeliver d, xs := xOf d, os := outOf d, acquire := true }

/-- GSTR: a release store of xD. -/
def execGstr (d : Dst) (a : Src) (g : BitVec 4) (w v : BitVec 1) (p : BitVec 2) (s : State) : Out :=
  s.access .null [a] { port := pathOf v p,
                       accs := [{ lane := 0, va := (s.srcSca a).toNat, size := 4 + 4 * w.toNat, op := .wr (s.dstSca d).toNat }],
                       release := some g.toNat }

/-! ### Streams (R275 to R279) -/

/-- A port of the present context. -/
def State.sport (s : State) (p : Nat) : SPort := SMap.get s.my.ports p {}
/-- A port of a context replaced. -/
def State.setPort (s : State) (c p : Nat) (t : SPort) : State := s.updCtx c fun k => { k with ports := SMap.set k.ports p t }

/-- The descriptor of SPORT, lanes 0-11, as one number. -/
def portDesc (v : Vec) : Nat := natLE ((List.range 12).flatMap fun i => bytesLE 4 (v.get i).toNat)

/-- COUNT of level l. -/
def descCount (d l : Nat) : Nat := bitsN d (64 * l + 159) (64 * l + 128)
/-- STRIDE of level l, signed. -/
def descStride (d l : Nat) : Int := signedN 32 (bitsN d (64 * l + 191) (64 * l + 160))
/-- The counts of the levels in use. -/
def descCounts (d : Nat) : List Nat := (List.range (bitsN d 65 64 + 1)).map (descCount d)

/-- A reserved bit, a field above the last level, or a ROWW that breaks its rule: PORTDESC (R275). -/
def descReserved (d : Nat) (gath : Bool) : Bool :=
  let n := bitsN d 65 64
  bitsN d 127 88 != 0 || bitsN d 79 66 != 0
    || ((List.range 4).any fun l => decide (n < l) && (descCount d l != 0 || descStride d l != 0))
    || (if gath then n != 0 || bitsN d 87 80 == 0 || decide (192 < bitsN d 87 80) else bitsN d 87 80 != 0)

/-- OFFSET or a stride is not a multiple of 4. -/
def descMisaligned (d : Nat) : Bool := bitsN d 63 0 % 4 != 0 || (List.range 4).any fun l => descStride d l % 4 != 0

/-- The lowest and the highest element address of a descriptor above a base, exactly. -/
def descSpan (base d : Nat) : Int × Int :=
  let ends := (List.range (bitsN d 65 64 + 1)).map fun l => ((descCount d l : Int) - 1) * descStride d l
  let o : Int := ((base + bitsN d 63 0 : Nat) : Int)
  (ends.foldl (fun m e => m + min 0 e) o, ends.foldl (fun m e => m + max 0 e) o)

/-- An element lies outside the extent, is not canonical or wraps, or a vault port's extent lies in no allocation: EXTENT (R275). -/
def State.descOutside (s : State) (g : Gen) (d : Nat) : Bool :=
  let r := descSpan g.base d
  let ok (x : Int) : Bool := if g.page = 3 then decide (0 ≤ x ∧ x < 2 ^ 34) else decide (0 ≤ x) && canonical x.toNat
  (!((descCounts d).any (· == 0))
    && !(decide ((g.base : Int) ≤ r.1 ∧ r.2 + 4 ≤ (g.base + g.extent : Nat)) && ok r.1 && ok (r.2 + 3)))
  || (g.page == 3 && !s.inAlloc s.cur.cid g.base g.extent)

/-- SPORT: checks the descriptor and starts the stream, which holds the port until it is idle again (R275). A read stream uses the key of
this firing (R287, R299). -/
def execSport (a : Src) (p : BitVec 2) (u : BitVec 1) (m : BitVec 2) (s : State) : Out :=
  let pn := p.toNat
  match s.gen s.cur.cid pn with
  | none => s.done
  | some g =>
    let d := portDesc (s.srcVec a)
    let gath := m == 2
    if descReserved d gath then s.trap 0x10
    else if descMisaligned d then s.trap 0x21 (some (g.base + bitsN d 63 0))
    else if !gath && s.descOutside g d then s.trap 0x16 none
    else if m = 0 ∧ s.keyFault pn then s.trap 0x04
    else
      let old := s.sport pn
      let t : SPort :=
        { mode := if gath then .gath else if m = 1 then .write else .read, bulk := u == 1, offset := bitsN d 63 0,
          counts := descCounts d, strides := (List.range 4).map (descStride d), roww := bitsN d 87 80,
          chain := { e := descCounts d, n := bitsN d 65 64 + 1, armed := true }, seq := old.seq, firing := s.firing.toNat,
          start := s.cycle + 4, key := s.my.regs.kr }
      let s1 := s.setPort s.cur.cid pn t
      let s2 := if m = 0 then s1.updCtx s.cur.cid fun k =>
          let q := k.point pn
          { k with points := SMap.set k.points pn { q with last := some k.regs.kr,
                                                           floor := extKey (k.regs.kr + 1) (s.source s.cur.cid).toNat q.reqs },
                   regs := { k.regs with kr := k.regs.kr + 1 } }
        else s1
      s2.done

/-- The address of the element with counters c (R275). -/
def SPort.addrOf (t : SPort) (base : Nat) (c : List Nat) : Nat :=
  ((List.range 4).foldl (fun m l => m + ((c.getD l 0 : Nat) : Int) * t.strides.getD l 0) ((base + t.offset : Nat) : Int)).toNat

/-- The counters of element n, level 0 fastest. -/
def coordsOf : List Nat → Nat → List Nat
  | [], _ => []
  | k :: t, n => (n % k) :: coordsOf t (n / k)

/-- SREQ.R: the head token of the port's buffer moves to outK (R277). -/
def execSreqRead (d : Dst) (p : Nat) (s : State) : Out :=
  let t := s.sport p
  match t.buf, d with
  | b :: rest, .out k =>
    if !b.whole then .next s
    else
      let t1 := { t with buf := rest, mode := if b.tok.kind = kEOS then .idle else t.mode }
      let tok := if b.tok.kind = kMARK then b.tok else { b.tok with tag := s.my.otag k.toNat }
      (s.setPort s.cur.cid p t1).finish 1 [.emit k.toNat (s.stamp s.cur.cid tok)]
  | [], _ => .next s
  | _ :: _, .v _ => .next s
  | _ :: _, .x _ => .next s
  | _ :: _, .null => .next s

/-- The values a DATA head gives a write stream. -/
def Token.elements (t : Token) : List Nat :=
  if t.sc then [t.scalar.toNat % 2 ^ 32] else (Mask.list t.mask).map fun i => (t.lanes.get i).toNat

/-- The stores of a write stream's next elements. -/
def SPort.stores (t : SPort) (base : Nat) : Nat → Nat → List Nat → List Acc
  | _, _, [] => []
  | i, n, v :: rest => { lane := i, va := t.addrOf base (coordsOf t.counts n), size := 4, op := .wr v } :: t.stores base (i + 1) (n + 1) rest

/-- SREQ.W: the head feeds the write stream, and the instruction dequeues it itself; the port is idle once the last element has been stored
(R278). -/
def execSreqWrite (j p : Nat) (s : State) : Out :=
  let t := s.sport p
  let h := s.head j
  if h.kind = kPOISON then (s.countPoison s.cur.cid h).done [j]
  else if h.kind ≠ kDATA then s.done [j]
  else match s.gen s.cur.cid p with
    | none => s.done [j]
    | some g =>
      let vs := h.elements
      let left := t.total - t.pos
      let accs := t.stores g.base 0 t.pos (vs.take left)
      let t1 := { t with pos := t.pos + (vs.take left).length }
      let over_ (x : State) : State := if left < vs.length then x.countPoison s.cur.cid (s.myPoison 0x2B) else x
      if accs.isEmpty then ((over_ (s.setPort s.cur.cid p t1)).portRest s.cur.cid p).done [j]
      else match s.checkAll s.cur.cid p accs with
        | some (code, va) =>
          let r := s.accPoison s.cur.cid code s.firing.toNat va s.my.regs.kr
          ((over_ ((r.2.setPort s.cur.cid p t1).countPoison s.cur.cid r.1)).portRest s.cur.cid p).done [j]
        | none =>
          if s.keyFault p then s.trap 0x04
          else .next ((over_ ((s.setPort s.cur.cid p t1).shootRuns { port := p, accs, stream := true, bulk := t.bulk }
            (pageRuns g.page accs))).retire [j])

/-- SREQ (R277, R278). -/
def execSreq (d : Dst) (a : Src) (p : BitVec 2) (w : BitVec 1) (s : State) : Out :=
  if w = 0 then execSreqRead d p.toNat s
  else match a with
    | .inp j => execSreqWrite j.toNat p.toNat s
    | .v _ => s.done
    | .x _ => s.done
    | .lane => s.done
    | .zero => s.done
    | .lit _ => s.done

/-- SGATH: the rows of the active lanes are gathered, one token each; outK stays reserved until the last has left (R279). -/
def execSgath (d : Dst) (a : Src) (p : BitVec 2) (s : State) : Out :=
  let pn := p.toNat
  match s.poisoned [a], d, s.gen s.cur.cid pn with
  | some q, _, _ => s.poisonTo d 1 q
  | none, .out k, some g =>
    let t := s.sport pn
    let ix := s.srcVec a
    let rows := (Mask.list (s.active [a])).map fun j =>
      ((g.base + t.offset : Nat) : Int) + ((ix.get j).toNat : Int) * t.strides.getD 0 0
    if rows.isEmpty then s.done
    else if s.keyFault pn then s.trap 0x04
    else
      let s1 := s.openPend s.cur.cid [] [] [k.toNat]
      let s2 := s1.setPort s.cur.cid pn { t with rows, gath := some (k.toNat, s.pendNo), key := s.my.regs.kr, firing := s.firing.toNat,
                                                 pos := (s.my.otag k.toNat).toNat }
      let s3 := s2.updCtx s.cur.cid fun c =>
        let q := c.point pn
        { c with points := SMap.set c.points pn { q with last := some c.regs.kr,
                                                         floor := extKey (c.regs.kr + 1) (s.source s.cur.cid).toNat q.reqs },
                 regs := { c.regs with kr := c.regs.kr + 1 } }
      s3.done
  | none, .out _, none => s.done
  | none, .v _, _ => s.done
  | none, .x _, _ => s.done
  | none, .null, _ => s.done

/-! ### Tiles (R280, R281) -/

/-- The bytes TILEST writes: offset in the tile, size and value of each piece, in order. -/
def State.tileBytes (s : State) (a b : Src) (m : Nat) : List (Nat × Nat × Nat) :=
  let p := (s.srcSca b).toNat
  if m = 0 then (0, 8, (s.srcSca a).toNat) :: (rangeFrom 1 7).map fun i => (8 * i, 8, 0)
  else if m = 1 then (Mask.list (s.active [a])).map fun i => (64 + p + 4 * i, 4, ((s.srcVec a).get i).toNat)
  else if m = 2 then
    ((List.range 96).filter fun i => (s.active [a]).getLsbD (2 * i)).map fun i => (64 + p + 4 * i, 4, ((s.srcVec a).get (2 * i)).toNat)
  else (List.range 6).map fun i => (64 + p + i, 1, bitsN (s.srcSca a).toNat (8 * i + 7) (8 * i))

/-- Accesses to a tile from its pieces. -/
def tileAccs (base : Nat) : Nat → List (Nat × Nat × Nat) → List Acc
  | _, [] => []
  | i, (o, n, v) :: t => { lane := i, va := base + o, size := n, op := .wr v } :: tileAccs base (i + 1) t

/-- TILEST: header, data or scales into a tile of the region's own vault (R280). -/
def execTilest (d : Dst) (a b : Src) (m : BitVec 3) (tile : BitVec 12) (s : State) : Out :=
  let r := regionOf s.cur.cid
  match s.poisoned [a, b], s.tile r tile.toNat with
  | some p, _ => s.poisonTo d 1 p
  | none, none => s.done
  | none, some t =>
    let ws := s.tileBytes a b m.toNat
    if ((m = 1 ∨ m = 2) ∧ (s.srcSca b).toNat % 4 ≠ 0) ∨ ws.any (fun w => decide (t.bytes < w.1 + w.2.1)) then
      s.trap 0x11
    else s.access d [] { port := 4, accs := tileAccs (vaultVa r t.offset) 0 ws, dl := s.depDeliver d, os := outOf d, tile := some tile.toNat }

/-- The entry TILEQ reads (R281). -/
def Tile.word (t : Tile) : Dword :=
  let st := match t.st with | .empty => 0 | .filling => 1 | .opened => 1 | .ready => 2 | .draining => 3
  BitVec.ofNat 64 (t.offset % 2 ^ 26 + t.bytes / 64 % 2 ^ 21 * 2 ^ 32 + bit01 (t.st = .opened) * 2 ^ 57 + st * 2 ^ 58)

/-- TILEQ: reads the entry, and performs its transition or waits at the table (R262, R281). -/
def execTileq (d : Dst) (o : BitVec 4) (tile : BitVec 12) (s : State) : Out :=
  let r := regionOf s.cur.cid
  match s.tile r tile.toNat with
  | none => s.done
  | some t =>
    (if o = 0 then s else s.tileAsk r tile.toNat (.op o.toNat)).finish 2
      (s.write d (.sca ((SMap.find (s.region r).tilesSeen tile.toNat).getD t).word) 0)

/-! ### Allocations (R282, R283) -/

/-- The tiles of saved configurations whose launch has been granted a region, and that have still to be restored there (R413). -/
def State.savedTiles (s : State) (r : Nat) : List TileRec :=
  s.pkg.sched.launches.flatMap fun l => if !(l.2.evicted && l.2.st == .loaded) then [] else l.2.saved.flatMap fun v =>
    match SMap.find l.2.seqs v.g with
    | some q => if q.region = r then v.res.cfg.tiles else []
    | none => []

/-- The taken spans of the vault above a region: allocations whose bytes are not yet free, the tiles of its residents, and those that a restore
is to bring. -/
def State.taken (s : State) (r : Nat) : List (Nat × Nat) :=
  ((s.pkg.allocs.filter fun a => a.vault = r).map fun a => (a.offset, a.bytes))
    ++ (((s.region r).res.flatMap fun p => p.2.cfg.tiles) ++ s.savedTiles r).map fun t => (t.offset, t.bytes)

/-- Bytes o to o + n - 1 of a vault are free. -/
def fitsAt (l : List (Nat × Nat)) (o n : Nat) : Bool := decide (o + n ≤ 2 ^ 26) && l.all fun p => !meets o n p.1 p.2

/-- The lowest multiple of 4,096 where n bytes fit: 0 or the first such multiple past the end of a taken span. -/
def lowestFit (l : List (Nat × Nat)) (n : Nat) : Option Nat :=
  let cands := (0 :: l.map fun p => (p.1 + p.2 + 4095) / 4096 * 4096).filter fun o => fitsAt l o n
  match cands with
  | [] => none
  | o :: t => some (t.foldl min o)

/-- The allocations of the present configuration. -/
def State.myAllocs (s : State) : List Alloc :=
  match s.res s.cur.cid with
  | none => []
  | some p => s.pkg.allocs.filter fun a => a.lid == p.lid && a.region == regionOf s.cur.cid && a.cfg == p.cfg.num
      && a.freed.isNone && !a.retired

/-- Where VALLOC places its allocation, if it succeeds (R282). -/
def State.vallocAt (s : State) (size vault : Nat) (fixed : Option Nat) : Option Nat :=
  let n := (size + 4095) / 4096 * 4096
  if size = 0 ∨ 2 ^ 26 < size ∨ 16 ≤ s.myAllocs.length ∨ 256 ≤ (s.pkg.allocs.filter fun a => a.vault = vault).length then none
  else match fixed with
    | some o => if fitsAt (s.taken vault) o n then some o else none
    | none => lowestFit (s.taken vault) n

/-- The cycles VALLOC adds for a vault of another frond. -/
def vallocLat (r vault : Nat) : Nat := 8 + 40 * fronHops (frondOf r) (frondOf vault)

/-- VALLOC (R282). -/
def execValloc (d : Dst) (a : Src) (v f : BitVec 4) (at_ : BitVec 1) (off : BitVec 14) (s : State) : Out :=
  let c := s.cur.cid
  let vault := f.toNat * 16 + v.toNat
  let lat := vallocLat (regionOf c) vault
  match s.poisoned [a] with
  | some p => s.poisonTo d lat p
  | none =>
    let size := (s.srcSca a).toNat
    if s.keyed c ∧ at_ = 0 then s.trap 0x06
    else match s.vallocAt size vault (if at_ = 1 then some (off.toNat * 4096) else none), s.res c with
      | some o, some p =>
        let id := s.pkg.allocs.foldl (fun m x => max m (x.id + 1)) 0
        let al : Alloc := { id, vault, offset := o, bytes := (size + 4095) / 4096 * 4096, lid := p.lid, region := regionOf c, cfg := p.cfg.num }
        (s.updPkg fun k => { k with allocs := k.allocs ++ [al] }).finish lat (s.write d (.sca (BitVec.ofNat 64 (vaultVa vault o))) 0)
      | none, _ => if s.keyed c then s.trap 0x06 else s.finish lat (s.write d (.sca (BitVec.allOnes 64)) 0)
      | some _, none => s.finish lat (s.write d (.sca (BitVec.allOnes 64)) 0)

/-- VFREE: the allocation is no longer held; its bytes become free once the accesses before it have performed (R283). -/
def execVfree (a : Src) (s : State) : Out :=
  match s.poisoned [a] with
  | some p => s.poisonTo .null 1 p
  | none =>
    let va := (s.srcSca a).toNat
    match s.myAllocs.find? fun x => vaultVa x.vault x.offset = va with
    | none => s.trap 0x07
    | some x =>
      (s.updPkg fun k => { k with allocs := k.allocs.map fun y => if y.id = x.id then { y with freed := some s.reqNo } else y }).done

/-- The units of 4,096 bytes of a prefetch from an address that lie in the port's extent and on a page that is present in HBM, as the model's
addresses (R284). A V-space port has no rows. -/
def State.prefUnits (g : Gen) (va n : Nat) : List Nat :=
  if g.page = 3 then []
  else
    let lo := max va g.base
    let hi := min (va + 4096 * 2 ^ n) (g.base + g.extent)
    (rangeFrom (lo / 4096) (if lo < hi then (hi + 4095) / 4096 - lo / 4096 else 0)).filterMap fun u =>
      let e := g.entry (4096 * u)
      match e.p with
      | .frame b _ _ _ sp _ => if sp || e.awaits then none else some (b + 4096 * u % pageBytes g.page)
      | .pg => none
      | .np => none

/-- PREF: its port's channels are asked, in the bulk class, to open rows (R269, R284). It returns nothing and stops nothing. -/
def execPref (a : Src) (p : BitVec 2) (n : BitVec 4) (s : State) : Out :=
  match s.poisoned [a] with
  | some t => s.poisonTo .null 1 t
  | none =>
    match s.gen s.cur.cid p.toNat with
    | none => s.done
    | some g =>
      let l := State.prefUnits g (s.srcSca a).toNat n.toNat
      (if l.isEmpty then s else s.updPkg fun k => { k with prefs := k.prefs ++ [⟨l, s.cycle⟩] }).done

end Sys2Proof.Machine
end

