-- ==== Sys2Proof/Machine/Atomic.lean ====
section
/-! DEFINITION. The atomic instructions of the M-strips (R313 to R324). What an application makes of a word stands in Memory.lean. -/

namespace Sys2Proof.Machine

/-- The accesses of an atomic: one of w bits in the scalar shape; in the vector shape one of 32 bits for each active address, its operand
lane 96 × HI + j of D (R316). `f` builds the operation from the lane's place. -/
def State.atomAccs (s : State) (d : Dst) (a : Src) (h w : BitVec 1) (f : Nat → AccOp) : List Acc :=
  if isScalar d then [{ lane := 0, va := (s.srcSca a).toNat, size := 4 + 4 * w.toNat, op := f 0 }]
  else
    let v := s.srcVec a
    (activePairs (s.active [a])).map fun j => { lane := 96 * h.toNat + j, va := pairAt v j, size := 4, op := f (96 * h.toNat + j) }

/-- The operand of an atomic at a lane (R316): D itself. -/
def State.atomArg (s : State) (d : Dst) (i : Nat) : Nat := if isScalar d then (s.dstSca d).toNat else ((s.dstVec d).get i).toNat

/-- An atomic's request: without .NR its D awaits the old values, with .NR nothing does (R318). -/
def State.atomShot (s : State) (d : Dst) (v n : BitVec 1) (p : BitVec 2) (accs : List Acc) : Shot :=
  if n = 1 then { port := pathOf v p, accs }
  else { port := pathOf v p, accs, dl := if isScalar d then s.scaDeliver d else s.vecDeliver d, vs := vOf d, xs := xOf d }

/-- An atomic of R317: operation, sub-operation, shape and path. -/
def State.atomic (s : State) (op sub : Nat) (d : Dst) (a : Src) (h w v n : BitVec 1) (p : BitVec 2) : Out :=
  s.access .null [a] (s.atomShot d v n p (s.atomAccs d a h w fun i => .atom op sub (s.atomArg d i)))

/-- AADD (R317). -/
def execAadd (d : Dst) (a : Src) (h w v n : BitVec 1) (p : BitVec 2) (s : State) : Out := s.atomic 0xC0 0 d a h w v n p
/-- AAND (R317). -/
def execAand (d : Dst) (a : Src) (h w v n : BitVec 1) (p : BitVec 2) (s : State) : Out := s.atomic 0xC1 0 d a h w v n p
/-- AOR (R317). -/
def execAor (d : Dst) (a : Src) (h w v n : BitVec 1) (p : BitVec 2) (s : State) : Out := s.atomic 0xC2 0 d a h w v n p
/-- AXOR (R317). -/
def execAxor (d : Dst) (a : Src) (h w v n : BitVec 1) (p : BitVec 2) (s : State) : Out := s.atomic 0xC3 0 d a h w v n p
/-- AMIN (R317). -/
def execAmin (d : Dst) (a : Src) (h w v n : BitVec 1) (p : BitVec 2) (sub : BitVec 1) (s : State) : Out :=
  s.atomic 0xC4 sub.toNat d a h w v n p
/-- AMAX (R317). -/
def execAmax (d : Dst) (a : Src) (h w v n : BitVec 1) (p : BitVec 2) (sub : BitVec 1) (s : State) : Out :=
  s.atomic 0xC5 sub.toNat d a h w v n p
/-- AXCHG (R317). -/
def execAxchg (d : Dst) (a : Src) (h w v n : BitVec 1) (p : BitVec 2) (s : State) : Out := s.atomic 0xC6 0 d a h w v n p
/-- AFADD (R317). -/
def execAfadd (d : Dst) (a : Src) (h v n : BitVec 1) (p : BitVec 2) (s : State) : Out := s.atomic 0xC8 0 d a h 0 v n p
/-- AFMIN (R317). -/
def execAfmin (d : Dst) (a : Src) (h v n : BitVec 1) (p : BitVec 2) (s : State) : Out := s.atomic 0xC9 0 d a h 0 v n p
/-- AFMAX (R317). -/
def execAfmax (d : Dst) (a : Src) (h v n : BitVec 1) (p : BitVec 2) (s : State) : Out := s.atomic 0xCA 0 d a h 0 v n p
/-- AINC (R317). -/
def execAinc (d : Dst) (a : Src) (h w v n : BitVec 1) (p sub : BitVec 2) (s : State) : Out := s.atomic 0xCC sub.toNat d a h w v n p
/-- ABIT (R317). -/
def execAbit (d : Dst) (a : Src) (h w v n : BitVec 1) (p sub : BitVec 2) (s : State) : Out := s.atomic 0xCD sub.toNat d a h w v n p

/-- The scalar register after D's. -/
def State.pairSca (s : State) (d : Dst) : Dword :=
  match d with | .x k => s.my.x (k.toNat + 1) | .v _ => 0 | .out _ => 0 | .null => 0
/-- The vector register after D's. -/
def State.pairVec (s : State) (d : Dst) : Vec :=
  match d with | .v k => s.my.v (k.toNat + 1) | .x _ => ⟨[]⟩ | .out _ => ⟨[]⟩ | .null => ⟨[]⟩

/-- ACAS: xN or vK expects, the next register is the new value (R320). -/
def execAcas (d : Dst) (a : Src) (h w v n : BitVec 1) (p : BitVec 2) (s : State) : Out :=
  s.access .null [a] (s.atomShot d v n p (s.atomAccs d a h w fun i =>
    .cas (s.atomArg d i) (if isScalar d then (s.pairSca d).toNat else ((s.pairVec d).get i).toNat)))

/-- AWADD: a 128-bit add of x(N+1) ∥ xN (R319). -/
def execAwadd (d : Dst) (a : Src) (v n : BitVec 1) (p : BitVec 2) (s : State) : Out :=
  let accs : List Acc := [{ lane := 0, va := (s.srcSca a).toNat, size := 16,
                            op := .wadd ((s.dstSca d).toNat + (s.pairSca d).toNat * 2 ^ 64) }]
  match d with
  | .x k =>
    s.access .null [a] (if n = 1 then { port := pathOf v p, accs }
      else { port := pathOf v p, accs, dl := .pair k.toNat, xs := [k.toNat, k.toNat + 1] })
  | .v _ => s.done
  | .out _ => s.done
  | .null => s.done

end Sys2Proof.Machine
end

