-- ==== Sys2Proof/Machine/Translate.lean ====
section
/-! DEFINITION. Page tables, walks, patching, and the translation instructions and events (R325 to R355). -/

namespace Sys2Proof.Machine

/-! ### Entries and walks (R326 to R328) -/

/-- The index a level takes from an address. -/
def vaIndex (l va : Nat) : Nat :=
  if l = 0 then bitsN va 52 39 else if l = 1 then bitsN va 38 30 else if l = 2 then bitsN va 29 21 else bitsN va 20 16
/-- Bytes of a table of a level. -/
def tableBytes (l : Nat) : Nat := if l = 0 then 131072 else if l = 3 then 256 else 4096
/-- TYPE of an entry: 0 invalid, 1 table, 2 leaf. -/
def entType (w : Nat) : Nat := w / 2 ^ 62
/-- Where a walk ended: the level, the address of the entry and its word. -/
structure WalkEnd where
  level : Nat
  addr : Nat
  word : Nat
  deriving DecidableEq, Repr

/-- An entry of a table in memory; tables are never encrypted. -/
def State.entryAt (s : State) (a : Nat) : Nat := natLE (s.view 0 a 8)

/-- The walk from a table of level l down to level `stop`, which ends at the first entry that is no table (R326); fuel bounds the levels. -/
def State.walkFrom (s : State) (va stop : Nat) : Nat → Nat → Nat → WalkEnd
  | 0, l, t => ⟨l, t, 0⟩
  | f + 1, l, t =>
    let a := t + 8 * vaIndex l va
    let w := s.entryAt a
    if l = stop ∨ entType w ≠ 1 then ⟨l, a, w⟩ else s.walkFrom va stop f (l + 1) (bitsN w 51 8 * 256)

/-- A walk of an address space; none without a root. -/
def State.walk (s : State) (asid va stop : Nat) : Option WalkEnd :=
  match SMap.find s.pkg.xlat.xroot asid with
  | none => none
  | some t => some (s.walkFrom va stop 4 0 t)

/-- A table entry written. -/
def State.putEntry (s : State) (a w : Nat) : State := s.put 0 a (bytesLE 8 w)

/-- A leaf's A bit (bit 61) or D bit (bit 60) set. -/
def setBitN (w k : Nat) : Nat := if w.testBit k then w else w + 2 ^ k

/-! ### Patch entries (R332, R334) -/

/-- The patch entry a walk gives a page of a size, and the present leaf it is written from, whose A bit it sets (R332, R334). -/
def patchOf (va page : Nat) (w : Option WalkEnd) : Patch × Option WalkEnd :=
  match w with
  | none => (.np, none)
  | some e =>
    if entType e.word ≠ 2 then (.np, none)
    else if levelBytes e.level < page then (.pg, some e)
    else (.frame (bitsN e.word 51 16 * 2 ^ 16 + va % levelBytes e.level / page * page) (e.word.testBit 58) (e.word.testBit 59)
      (e.word.testBit 57) (e.word.testBit 56) (leafSlot e.word), some e)

/-- A page patched: its entry, and the machine with the leaf's A bit set (R334). -/
def State.patchPage (s : State) (asid page idx : Nat) : Patch × State :=
  let va := idx * page
  match patchOf va page (s.walk asid va 3) with
  | (p, none) => (p, s)
  | (p, some e) => (p, s.putEntry e.addr (setBitN e.word 61))

/-- Pages idx, idx + 1, … patched into a table. -/
def State.patchPages (s : State) (asid page : Nat) : List Nat → SMap PatchEntry → SMap PatchEntry × State
  | [], m => (m, s)
  | i :: t, m =>
    let r := s.patchPage asid page i
    r.2.patchPages asid page t (SMap.set m i { p := r.1 })

/-- The first and the last page of a generator's extent. -/
def Gen.pages (g : Gen) : List Nat :=
  rangeFrom (g.base / pageBytes g.page) ((g.base + g.extent - 1) / pageBytes g.page + 1 - g.base / pageBytes g.page)

/-- A generator patched from the tables; a V-space one never is. -/
def State.patchGen (s : State) (asid : Nat) (g : Gen) : Gen × State :=
  if g.page = 3 then (g, s)
  else
    let r := s.patchPages asid (pageBytes g.page) g.pages []
    ({ g with table := r.1, window := [] }, r.2)

/-- A page of a generator meets a range of addresses. -/
def Gen.meets (g : Gen) (i lo n : Nat) : Bool :=
  g.page != 3 && Machine.meets (i * pageBytes g.page) (pageBytes g.page) lo n

/-- Entries of a generator that meet a range changed. -/
def Gen.mark (g : Gen) (lo n : Nat) (f : PatchEntry → PatchEntry) : Gen :=
  { g with table := g.table.map fun e => (e.1, if g.meets e.1 lo n then f e.2 else e.2) }

/-- The generators that a sequence holds for configurations not resident changed. -/
def RegSeq.mapGens (q : RegSeq) (f : Gen → Gen) : RegSeq :=
  { q with gens := q.gens.map fun c => (c.1, c.2.map fun g => (g.1, f g.2)) }

/-- The sequences of an address space changed: those of launches, and those of system images. -/
def Sched.mapSeqs (d : Sched) (asid : Nat) (f : RegSeq → RegSeq) : Sched :=
  { d with launches := d.launches.map fun l => (l.1, if l.2.asid = asid then { l.2 with seqs := l.2.seqs.map fun q => (q.1, f q.2) } else l.2),
           sys := d.sys.map fun y => (y.1, if y.2.asid = asid then { y.2 with seq := f y.2.seq } else y.2) }

/-- Every generator of an address space changed, those of configurations not resident among them. -/
def State.mapGens (s : State) (asid : Nat) (f : Gen → Gen) : State :=
  { s with
    regions := s.regions.map fun r => (r.1, { r.2 with res := r.2.res.map fun p =>
      (p.1, if p.2.asid = asid then { p.2 with gens := p.2.gens.map fun g => (g.1, f g.2) } else p.2) })
    pkg := { s.pkg with sched := s.pkg.sched.mapSeqs asid fun q => q.mapGens f } }

/-- Entries of one table repatched when they pass a test. -/
def State.repatchTable (s : State) (asid page : Nat) (want : Nat → PatchEntry → Bool) : SMap PatchEntry → SMap PatchEntry × State
  | [] => ([], s)
  | (i, e) :: t =>
    if want i e then
      let r := s.patchPage asid page i
      let q := r.2.repatchTable asid page want t
      ((i, { p := r.1 }) :: q.1, q.2)
    else
      let q := s.repatchTable asid page want t
      ((i, e) :: q.1, q.2)

/-- The generators of a resident repatched. -/
def State.repatchGens (s : State) (asid : Nat) (want : Gen → Nat → PatchEntry → Bool) : SMap Gen → SMap Gen × State
  | [] => ([], s)
  | (k, g) :: t =>
    let r := if g.page = 3 then (g.table, s) else s.repatchTable asid (pageBytes g.page) (want g) g.table
    let q := r.2.repatchGens asid want t
    ((k, { g with table := r.1 }) :: q.1, q.2)

/-- Every generator of an address space among some residents repatched. -/
def State.repatchRes (s : State) (asid : Nat) (want : Gen → Nat → PatchEntry → Bool) : List (Nat × Nat) → State
  | [] => s
  | (r, x) :: t =>
    match SMap.find (s.region r).res x with
    | none => s.repatchRes asid want t
    | some p =>
      if p.asid = asid then
        let q := s.repatchGens asid want p.gens
        (q.2.updRegion r fun g => { g with res := SMap.set g.res x { p with gens := q.1 } }).repatchRes asid want t
      else s.repatchRes asid want t

/-- The places of all residents. -/
def State.residents (s : State) : List (Nat × Nat) := s.regions.flatMap fun r => r.2.res.map fun p => (r.1, p.1)

/-- The sequence of a launch for a region index, or (launch 0) of a region's system image. -/
def Sched.seq (d : Sched) (lid g : Nat) : Option RegSeq :=
  if lid = 0 then (SMap.find d.sys g).map SysRun.seq else (SMap.find d.launches lid).bind fun l => SMap.find l.seqs g

/-- It is changed. -/
def Sched.updSeq (d : Sched) (lid g : Nat) (f : RegSeq → RegSeq) : Sched :=
  if lid = 0 then { d with sys := d.sys.map fun y => (y.1, if y.1 = g then { y.2 with seq := f y.2.seq } else y.2) }
  else { d with launches := d.launches.map fun l =>
    (l.1, if l.1 = lid then { l.2 with seqs := l.2.seqs.map fun q => (q.1, if q.1 = g then f q.2 else q.2) } else l.2) }

/-- The sequences of an address space that hold generators: launch, region index and configuration number. -/
def Sched.storedGens (d : Sched) (asid : Nat) : List (Nat × Nat × Nat) :=
  ((d.launches.filter fun l => l.2.asid = asid).flatMap fun l => l.2.seqs.flatMap fun q => q.2.gens.map fun c => (l.1, q.1, c.1))
    ++ (d.sys.filter fun y => y.2.asid = asid).flatMap fun y => y.2.seq.gens.map fun c => (0, y.1, c.1)

/-- The generators of configurations not resident repatched. -/
def State.repatchStored (s : State) (asid : Nat) (want : Gen → Nat → PatchEntry → Bool) : List (Nat × Nat × Nat) → State
  | [] => s
  | (lid, g, c) :: t =>
    match (s.pkg.sched.seq lid g).bind fun q => SMap.find q.gens c with
    | none => s.repatchStored asid want t
    | some m =>
      let k := s.repatchGens asid want m
      (k.2.updPkg fun p => { p with sched := p.sched.updSeq lid g fun q => { q with gens := SMap.set q.gens c k.1 } }).repatchStored asid want t

/-- Every entry of an address space that passes a test repatched (R336 step 4). -/
def State.repatch (s : State) (asid : Nat) (want : Gen → Nat → PatchEntry → Bool) : State :=
  (s.repatchRes asid want s.residents).repatchStored asid want (s.pkg.sched.storedGens asid)

/-! ### Events -/

/-- A translation event by its number. -/
def State.xev (s : State) (n : Nat) : Option Xev := s.pkg.xlat.evs.find? fun e => e.id = n
/-- The translation state changed. -/
def State.updXlat (s : State) (f : Xlat → Xlat) : State := s.updPkg fun p => { p with xlat := f p.xlat }
/-- A translation event changed. -/
def State.updXev (s : State) (n : Nat) (f : Xev → Xev) : State :=
  s.updXlat fun x => { x with evs := x.evs.map fun e => if e.id = n then f e else e }

/-- The level of the entry an event is about. -/
def XKind.lvl (k : XKind) : Nat :=
  match k with
  | .map kind l => if kind = 2 then 0 else l
  | .unmap kind l => if kind = 2 then 0 else l
  | .protect l _ _ _ => l
  | .migrate l => l
  | .xinval _ => 0
  | .adread l _ _ => l
  | .xprobe => 3
  | .xsync => 0

/-- The span of an entry at a level: 2^(39 - 9 l) bytes, 64 KiB at level 3. -/
def entrySpan (l : Nat) : Nat := if l = 3 then 2 ^ 16 else 2 ^ (39 - 9 * l)

/-- The range of an event (R330). -/
def Xev.range (e : Xev) : Nat × Nat :=
  match e.kind with
  | .map kind l => if kind = 2 then (0, 2 ^ 64) else (e.va / entrySpan l * entrySpan l, entrySpan l)
  | .unmap kind l => if kind = 2 then (0, 2 ^ 64) else (e.va / entrySpan l * entrySpan l, entrySpan l)
  | .protect l _ _ _ => (e.va / entrySpan l * entrySpan l, entrySpan l)
  | .migrate l => (e.va / entrySpan l * entrySpan l, entrySpan l)
  | .xinval _ => (e.va, e.arg)
  | .adread l _ _ => (e.va / entrySpan l * entrySpan l, entrySpan l)
  | .xprobe => (e.va, 1)
  | .xsync => (0, 0)

/-- A step that only reads the tables: XPROBE, and ADREAD without a clear (R330). -/
def XKind.readsOnly (k : XKind) : Bool :=
  match k with
  | .adread _ d a => !d && !a
  | .xprobe => true
  | .map _ _ => false
  | .unmap _ _ => false
  | .protect _ _ _ _ => false
  | .migrate _ => false
  | .xinval _ => false
  | .xsync => false

/-- XSYNC. -/
def XKind.isSync (k : XKind) : Bool :=
  match k with
  | .xsync => true
  | .map _ _ => false
  | .unmap _ _ => false
  | .protect _ _ _ _ => false
  | .migrate _ => false
  | .xinval _ => false
  | .adread _ _ _ => false
  | .xprobe => false

/-- An event proper: it changes or checks a mapping and holds its place in translation order until it completes. -/
def XKind.orders (k : XKind) : Bool := !k.readsOnly && !k.isSync

/-- The event has reached its home agent. -/
def XStage.entered (g : XStage) : Bool :=
  match g with
  | .sent _ => false
  | .queued => true
  | .inval _ => true
  | .acked _ => true
  | .frozen _ => true
  | .copied _ => true
  | .replay _ => true
  | .settle _ => true
  | .done _ => true

/-- An event e waits for earlier event d of the same address space: XSYNC for every one; an event for one whose range it meets; a read
for one it meets, but for a migration, whose leaf it reads as FROZEN (log entry 18). -/
def Xev.waitsFor (e d : Xev) : Bool :=
  d.kind.orders && (e.kind.isSync || (meets e.range.1 e.range.2 d.range.1 d.range.2 && !(e.kind.readsOnly && decide (0 < d.kind.moves))))

/-- The events of a list before event n. -/
def beforeXev (n : Nat) : List Xev → List Xev
  | [] => []
  | e :: t => if e.id = n then [] else e :: beforeXev n t

/-- The event writes a table entry (R330). -/
def XKind.writesTable (k : XKind) : Bool :=
  match k with
  | .map _ _ => true
  | .unmap _ _ => true
  | .protect _ _ _ _ => true
  | .migrate _ => true
  | .adread _ d a => d || a
  | .xinval _ => false
  | .xprobe => false
  | .xsync => false

/-- The event has written its table entry, or will write none. -/
def XStage.written (g : XStage) : Bool :=
  match g with
  | .sent _ => false
  | .queued => false
  | .inval _ => false
  | .acked _ => false
  | .frozen _ => false
  | .copied _ => false
  | .replay _ => true
  | .settle _ => true
  | .done _ => true

/-- Every event before event e of its address space has made its table write: table writes happen in translation order (R330). -/
def State.writeTurn (s : State) (e : Xev) : Bool :=
  !e.kind.writesTable || (beforeXev e.id s.pkg.xlat.evs).all fun d =>
    d.asid != e.asid || d.away || !d.stage.entered || !d.kind.writesTable || d.stage.written

/-- The bytes of the table that an event links or unlinks (R329). -/
def State.tableOf (s : State) (e : Xev) : Option (Nat × Nat) :=
  match e.kind with
  | .map kind l => if kind = 1 then some (e.arg, tableBytes (l + 1)) else if kind = 2 then some (e.arg, 131072) else none
  | .unmap kind l =>
    if kind = 1 then (s.walk e.asid e.va l).map fun w => (bitsN w.word 51 8 * 256, tableBytes (l + 1))
    else if kind = 2 then (SMap.find s.pkg.xlat.xroot e.asid).map fun a => (a, 131072)
    else none
  | .protect _ _ _ _ => none
  | .migrate _ => none
  | .xinval _ => none
  | .adread _ _ _ => none
  | .xprobe => none
  | .xsync => none

/-- The frame an event's operand names. -/
def Xev.namesFrame (e : Xev) : Option (Nat × Nat) :=
  match e.kind with
  | .map kind l => if kind = 0 then some (frameOf e.arg, levelBytes l) else none
  | .migrate l => some (frameOf e.arg, levelBytes l)
  | .unmap _ _ => none
  | .protect _ _ _ _ => none
  | .xinval _ => none
  | .adread _ _ _ => none
  | .xprobe => none
  | .xsync => none

/-- The check of event e's frame depends on a table that event d has yet to link or unlink (R330, R347). -/
def State.checkAfter (s : State) (e d : Xev) : Bool :=
  match e.namesFrame, s.tableOf d with
  | some f, some t => !d.stage.written && meets (f.1 / 65536) ((f.1 + f.2 - 1) / 65536 + 1 - f.1 / 65536)
      (t.1 / 65536) ((t.1 + t.2 - 1) / 65536 + 1 - t.1 / 65536)
  | none, _ => false
  | some _, none => false

/-- Nothing earlier in translation order holds event e back. -/
def State.unblocked (s : State) (e : Xev) : Bool :=
  (beforeXev e.id s.pkg.xlat.evs).all fun d =>
    !(d.asid == e.asid && !d.away && d.stage.entered && (e.waitsFor d || s.checkAfter e d))

/-! ### Arguments and statuses (R346 to R353) -/

/-- STATUS codes. -/
def xOK : Nat := 0
/-- EXISTS. -/
def xEXISTS : Nat := 1
/-- NOTABLE. -/
def xNOTABLE : Nat := 2
/-- NOTMAPPED. -/
def xNOTMAPPED : Nat := 3
/-- NOTEMPTY. -/
def xNOTEMPTY : Nat := 4
/-- BADARG. -/
def xBADARG : Nat := 5
/-- NOROOT. -/
def xNOROOT : Nat := 6
/-- WRONGSIZE. -/
def xWRONGSIZE : Nat := 7

/-- The granules of a byte range hold a table (R329). -/
def State.anyTable (s : State) (a n : Nat) : Bool :=
  isHbm a && s.pkg.xlat.tableGran.any fun g => decide (0 < g.2) && meets (g.1 * 65536) 65536 a n

/-- A frame a leaf word names is refused: not aligned, against R328, a table granule, or a key slot that is not the space's (R436). -/
def State.frameBad (s : State) (asid l w : Nat) : Bool :=
  bitsN w 51 16 * 2 ^ 16 % levelBytes l != 0
    || (w.testBit 56 && (l == 1 || bitsN w 40 34 != 0))
    || s.anyTable (frameOf w) (levelBytes l)
    || (leafSlot w != 0 && (match SMap.find s.pkg.trust.kslots (leafSlot w) with | some k => k.asid != asid | none => true))

/-- The address of an event is canonical and aligned to n bytes. -/
def vaGood (va n : Nat) : Bool := canonical va && va % n == 0

/-- MAP's arguments are refused (R347); `own` is the issuing package. -/
def State.mapBad (s : State) (own asid kind l va arg : Nat) : Bool :=
  if kind = 0 then
    !vaGood va (levelBytes l) || entType arg != 2 || bitsN arg 61 60 != 0 || bitsN arg 55 52 != 0 || bitsN arg 15 12 != 0
      || s.frameBad asid l arg
  else if kind = 1 then !vaGood va (entrySpan l) || decide (2 ^ 52 ≤ arg) || arg % tableBytes (l + 1) != 0
  else va != 0 || decide (2 ^ 52 ≤ arg) || arg % 131072 != 0 || arg / 2 ^ 41 != own

/-- Every entry of a table is invalid. -/
def State.tableEmpty (s : State) (a n : Nat) : Bool := !(s.mem.any fun c => decide (a ≤ c.1 ∧ c.1 < a + n))

/-- The status and level MAP of a walk decides (R347). -/
def State.mapStatus (s : State) (own asid kind l va arg : Nat) : Nat × Nat :=
  if s.mapBad own asid kind l va arg then (xBADARG, l)
  else if kind = 2 then ((if (SMap.find s.pkg.xlat.xroot asid).isSome then xEXISTS else xOK), 0)
  else match s.walk asid va l with
    | none => (xNOROOT, 0)
    | some e =>
      if e.level < l then (if entType e.word = 2 then (xEXISTS, e.level) else (xNOTABLE, e.level))
      else if entType e.word ≠ 0 then (xEXISTS, l) else (xOK, l)

/-- The leaf at a named level, or the status and level (R346, R348). -/
def State.findLeaf (s : State) (asid l va : Nat) : (Nat × Nat) × Option WalkEnd :=
  if !vaGood va (levelBytes l) then ((xBADARG, l), none)
  else match s.walk asid va 3 with
    | none => ((xNOROOT, 0), none)
    | some e =>
      if entType e.word = 2 then (if e.level = l then ((xOK, l), some e) else ((xWRONGSIZE, e.level), none))
      else if e.level < l then ((xNOTABLE, e.level), none) else ((xNOTMAPPED, e.level), none)

/-- The status UNMAP.TABLE and UNMAP.ROOT decide (R348). -/
def State.unmapTable (s : State) (asid kind l va : Nat) : (Nat × Nat) × Option WalkEnd :=
  if kind = 2 then
    match SMap.find s.pkg.xlat.xroot asid with
    | none => ((if va ≠ 0 then xBADARG else xNOROOT, 0), none)
    | some t => if va ≠ 0 then ((xBADARG, 0), none)
      else if s.tableEmpty t 131072 then ((xOK, 0), some ⟨0, t, 0⟩) else ((xNOTEMPTY, 0), none)
  else if !vaGood va (entrySpan l) then ((xBADARG, l), none)
  else match s.walk asid va l with
    | none => ((xNOROOT, 0), none)
    | some e =>
      if e.level < l then ((if entType e.word = 2 then xEXISTS else xNOTABLE, e.level), none)
      else if entType e.word = 1 ∧ s.tableEmpty (bitsN e.word 51 8 * 256) (tableBytes (l + 1)) then ((xOK, l), some e)
      else ((xNOTEMPTY, l), none)

/-- An XINVAL range is refused (R351). -/
def xinvalBad (va n : Nat) : Bool :=
  va % 65536 != 0 || n % 65536 != 0 || n == 0 || !canonical va || !canonical (va + n - 1) || va / 2 ^ 52 != (va + n - 1) / 2 ^ 52

/-- XPROBE's result (R353). -/
def State.probe (s : State) (asid va : Nat) : Nat :=
  if !canonical va then 3 * 2 ^ 62 + xBADARG
  else match s.walk asid va 3 with
    | none => 3 * 2 ^ 62 + xNOROOT
    | some e =>
      if entType e.word = 2 then
        let froz := s.pkg.xlat.evs.any fun d => d.asid == asid && decide (0 < d.kind.moves) && d.stage.freezes && d.leafAt == e.addr
        e.word - bitsN e.word 55 53 * 2 ^ 53 + e.level * 2 ^ 54 + bit01 froz * 2 ^ 53
      else e.level * 2 ^ 54

/-! ### What an event does -/

/-- The count of linked tables of the granules of a table raised or lowered (R329). -/
def countTable (m : SMap Nat) (a n : Nat) (up : Bool) : SMap Nat :=
  (rangeFrom (a / 65536) ((a + n - 1) / 65536 + 1 - a / 65536)).foldl (fun m g =>
    let k := if up then SMap.get m g 0 + 1 else SMap.get m g 0 - 1
    if k = 0 then SMap.del m g else SMap.set m g k) m

/-- A range cut out of a list of ranges. -/
def cutRange (a n : Nat) (l : List (Nat × Nat)) : List (Nat × Nat) :=
  l.flatMap fun p => if meets p.1 p.2 a n then
      (if p.1 < a then [(p.1, a - p.1)] else []) ++ (if a + n < p.1 + p.2 then [(a + n, p.1 + p.2 - (a + n))] else [])
    else [p]

/-- A table's bytes zeroed, its granules counted and no longer retired (R347, R342). -/
def State.newTable (s : State) (a n : Nat) : State :=
  ({ s with mem := s.mem.filter (fun c => !(decide (a ≤ c.1 ∧ c.1 < a + n))),
            pkg := { s.pkg with encTag := s.pkg.encTag.filter fun t => !(decide (a / 64 ≤ t.1 ∧ t.1 < (a + n) / 64)),
                                marked := s.pkg.marked.filter fun t => !(decide (a / 64 ≤ t ∧ t < (a + n) / 64)),
                                dead := s.pkg.dead.filter fun g => !(decide (a / 65536 ≤ g ∧ g ≤ (a + n - 1) / 65536)) } }).updXlat fun x =>
    { x with tableGran := countTable x.tableGran a n true, retired := cutRange a n x.retired }

/-- A key slot's count of leaves raised or lowered (R436). -/
def State.countSlot (s : State) (k : Nat) (up : Bool) : State :=
  if k = 0 then s
  else match SMap.find s.pkg.trust.kslots k with
    | none => s
    | some e =>
      let e1 : KSlot := { e with refs := if up then e.refs + 1 else e.refs - 1 }
      s.updPkg fun p => { p with trust := { p.trust with kslots := SMap.set p.trust.kslots k e1 } }

/-- The status and, once it is decided, the stage of an event. -/
def State.xdone (s : State) (n st lvl at_ : Nat) : State := s.updXev n fun e => { e with status := st, level := lvl, stage := .done at_ }

/-- ADREAD's result where no leaf lies at the named level (R352). -/
def adreadBad (st : Nat) : Nat := 3 * 2 ^ 62 + st

/-- A message for another package goes on its way by the port that ROUTE gives it; without one it goes nowhere (R448). -/
def State.forward (s : State) (dst : Nat) (m : FabMsg) : State :=
  match s.pkg.fabric.portFor dst with
  | some k => s.updPkg fun p => { p with fabric := { p.fabric with sent := p.fabric.sent ++ [(k, dst, m)] } }
  | none => s

/-- The other packages that hold an address space, as far as they have told its home agent. -/
def State.sharers (s : State) (asid : Nat) : List Nat := SMap.get s.pkg.xlat.sharers asid []

/-- Every package that holds the address space is told to mark or repatch the entries of an event's range, and its answer is awaited
(R336). -/
def State.tellSharers (s : State) (e : Xev) (what : Nat) : State :=
  let l := s.sharers e.asid
  (l.foldl (fun s p => s.forward p (.xmark what e.asid e.range.1 e.range.2 e.id s.pkg.pkgId)) s).updXev e.id fun x => { x with acks := l }

/-- XINVAL.HOLD. -/
def XKind.holds (k : XKind) : Bool :=
  match k with
  | .xinval o => o == 1
  | .map _ _ => false
  | .unmap _ _ => false
  | .protect _ _ _ _ => false
  | .migrate _ => false
  | .adread _ _ _ => false
  | .xprobe => false
  | .xsync => false

/-- ADREAD with a clear waits, before its atomic, for the writes translated through its page (R352 step 2). -/
def XKind.waitsWrites (k : XKind) : Bool :=
  match k with
  | .adread _ d a => d || a
  | .map _ _ => false
  | .unmap _ _ => false
  | .protect _ _ _ _ => false
  | .migrate _ => false
  | .xinval _ => false
  | .xprobe => false
  | .xsync => false

/-- The invalidations of an event go out, in this package and to the others that hold its address space (R336 step 1). -/
def State.sendInval (s : State) (n lvl leaf old : Nat) : State :=
  let s1 := s.updXev n fun e => { e with stage := .inval (s.cycle + 64), level := lvl, leafAt := leaf, oldBase := old }
  match s1.xev n with
  | some e => s1.tellSharers e (if e.kind.waitsWrites then 6 else bit01 e.kind.holds)
  | none => s1

/-- An event that nothing holds back begins (R336, R340, R347 to R354): its status is decided, or its invalidations go out, or its write
follows. Cycles as R355 gives them. -/
def State.beginXev (s : State) (e : Xev) : State :=
  let c := s.cycle
  match e.kind with
  | .map kind l =>
    let r := s.mapStatus (match e.origin with | some o => o.1 | none => s.pkg.pkgId) e.asid kind l e.va e.arg
    if r.1 = xOK then s.updXev e.id fun e => { e with stage := .acked (c + 280), level := l } else s.xdone e.id r.1 r.2 (c + 140)
  | .unmap kind l =>
    if kind = 0 then
      match s.findLeaf e.asid l e.va with
      | (_, some w) => s.sendInval e.id l w.addr 0
      | (r, none) => s.xdone e.id r.1 r.2 (c + 140)
    else
      match s.unmapTable e.asid kind l e.va with
      | (_, some w) => s.updXev e.id fun e => { e with stage := .acked (c + 280), level := l, leafAt := w.addr }
      | (r, none) => s.xdone e.id r.1 r.2 (c + 140)
  | .protect l _ _ _ =>
    match s.findLeaf e.asid l e.va with
    | (_, some w) => s.sendInval e.id l w.addr 0
    | (r, none) => s.xdone e.id r.1 r.2 (c + 140)
  | .migrate l =>
    match s.findLeaf e.asid l e.va with
    | (_, some w) =>
      if bitsN e.arg 63 57 ≠ 0 ∨ bitsN e.arg 55 52 ≠ 0 ∨ bitsN e.arg 15 12 ≠ 0 ∨ s.frameBad e.asid l e.arg ∨ frameOf e.arg = frameOf w.word then
        s.xdone e.id xBADARG l (c + 140)
      else s.sendInval e.id l w.addr (frameOf w.word)
    | (r, none) => s.xdone e.id r.1 r.2 (c + 140)
  | .xinval o =>
    if xinvalBad e.va e.arg then s.xdone e.id xBADARG 0 (c + 1)
    else if o = 2 then s.updXev e.id fun e => { e with stage := .acked c }
    else s.sendInval e.id 0 0 0
  | .adread l d a =>
    match s.findLeaf e.asid l e.va with
    | (_, some w) =>
      if d || a then s.sendInval e.id l w.addr 0
      else s.updXev e.id fun e => { e with stage := .done (c + 140), level := l, result := w.word }
    | (r, none) => s.updXev e.id fun e => { e with stage := .done (c + 140), status := r.1, level := r.2, result := adreadBad r.1 }
  | .xprobe => s.updXev e.id fun e => { e with stage := .done (c + 140), result := s.probe e.asid e.va }
  | .xsync => s.updXev e.id fun e => { e with stage := .done c }

/-- Requests issued before mark m through the mapping of an event's page that have yet to perform, those returned by a freeze among them
(R339). -/
def State.throughMapping (s : State) (asid lo n m : Nat) (writesOnly : Bool) : Bool :=
  s.reqs.any fun r => decide (r.id < m) && r.issued && r.port != 4 && s.asidOf r.cid == asid
    && (match s.gen r.cid r.port with | some g => g.page != 3 | none => false)
    && r.accs.any fun a => !a.atRest && meets a.va a.size lo n && (!writesOnly || a.op.writes)

/-- The answers owed to other packages' events leave once the accesses they wait for have come to rest (R339, R352). -/
def State.payOwed (s : State) : State :=
  let ready (o : OwedAck) : Bool := !s.throughMapping o.asid o.lo o.len o.mark o.writes
  if s.pkg.xlat.owed.isEmpty then s
  else
    (s.pkg.xlat.owed.filter ready).foldl (fun s o => s.forward o.src (.xack o.event s.pkg.pkgId))
      (s.updXlat fun x => { x with owed := x.owed.filter (!ready ·) })

/-! ### The instructions (R345) -/

/-- The scalar register a source names. -/
def srcNo (a : Src) : Nat := match a with | .x k => k.toNat | .v _ => 0 | .inp _ => 0 | .lane => 0 | .zero => 0 | .lit _ => 0

/-- What a translation instruction is, as a number in a message to another package. -/
def XKind.code (k : XKind) : Nat :=
  match k with
  | .map a l => 0 + 8 * (a + 4 * l)
  | .unmap a l => 1 + 8 * (a + 4 * l)
  | .protect l u w r => 2 + 8 * (l + 4 * (bit01 u + 2 * bit01 w + 4 * bit01 r))
  | .migrate l => 3 + 8 * l
  | .xinval o => 4 + 8 * o
  | .adread l d a => 5 + 8 * (l + 4 * (bit01 d + 2 * bit01 a))
  | .xprobe => 6
  | .xsync => 7

/-- The translation instruction a number stands for. -/
def XKind.ofCode (n : Nat) : XKind :=
  let b := n / 8
  if n % 8 = 0 then .map (b % 4) (b / 4)
  else if n % 8 = 1 then .unmap (b % 4) (b / 4)
  else if n % 8 = 2 then .protect (b % 4) (b.testBit 2) (b.testBit 3) (b.testBit 4)
  else if n % 8 = 3 then .migrate b
  else if n % 8 = 4 then .xinval b
  else if n % 8 = 5 then .adread (b % 4) (b.testBit 2) (b.testBit 3)
  else if n % 8 = 6 then .xprobe
  else .xsync

/-- The package of the home agent of an address space: the one whose HBM holds the root, or this one where there is none (R325). -/
def State.homeOf (s : State) (asid : Nat) : Nat := match SMap.find s.pkg.xlat.xroot asid with | some a => a / 2 ^ 41 | none => s.pkg.pkgId

/-- A translation instruction sends its event to the home agent, on frond 0 of its package; its destination waits for completion (R325,
R345, R355). -/
def State.sendXev (s : State) (d : Dst) (asid : Nat) (k : XKind) (va arg : Nat) : Out :=
  let c := s.cur.cid
  let home := s.homeOf asid
  let e : Xev := { id := s.reqNo, cid := c, asid, kind := k, va, arg, pend := some s.pendNo, out := s.outTag d,
                   stage := .sent (s.cycle + 4 + 40 * fronHops (frondOf (regionOf c)) 0), away := home != s.pkg.pkgId }
  let s1 := s.openPend c [] (xOf d) (outOf d)
  let s2 : State := { s1.updXlat (fun x => { x with evs := x.evs ++ [e] }) with reqNo := s.reqNo + 1 }
  (if e.away then s2.forward home (.xevent k.code asid va arg s.pkg.pkgId c e.id) else s2).done

/-- MAP (R347). -/
def execMap (d : Dst) (a : Src) (kind level : BitVec 2) (asid : BitVec 12) (s : State) : Out :=
  s.sendXev d asid.toNat (.map kind.toNat level.toNat) (s.my.x (srcNo a)).toNat (s.my.x (srcNo a + 1)).toNat
/-- UNMAP (R348). -/
def execUnmap (d : Dst) (a : Src) (kind level : BitVec 2) (asid : BitVec 12) (s : State) : Out :=
  s.sendXev d asid.toNat (.unmap kind.toNat level.toNat) (s.my.x (srcNo a)).toNat 0
/-- PROTECT (R349). -/
def execProtect (d : Dst) (a : Src) (level : BitVec 2) (usr wr rd : BitVec 1) (asid : BitVec 12) (s : State) : Out :=
  s.sendXev d asid.toNat (.protect level.toNat (usr == 1) (wr == 1) (rd == 1)) (s.my.x (srcNo a)).toNat 0
/-- MIGRATE (R350). -/
def execMigrate (d : Dst) (a : Src) (level : BitVec 2) (asid : BitVec 12) (s : State) : Out :=
  s.sendXev d asid.toNat (.migrate level.toNat) (s.my.x (srcNo a)).toNat (s.my.x (srcNo a + 1)).toNat
/-- XINVAL (R351). -/
def execXinval (d : Dst) (a : Src) (o : BitVec 2) (asid : BitVec 12) (s : State) : Out :=
  s.sendXev d asid.toNat (.xinval o.toNat) (s.my.x (srcNo a)).toNat (s.my.x (srcNo a + 1)).toNat
/-- ADREAD (R352). -/
def execAdread (d : Dst) (a : Src) (level : BitVec 2) (clrd clra : BitVec 1) (asid : BitVec 12) (s : State) : Out :=
  s.sendXev d asid.toNat (.adread level.toNat (clrd == 1) (clra == 1)) (s.my.x (srcNo a)).toNat 0
/-- XPROBE (R353). -/
def execXprobe (d : Dst) (a : Src) (asid : BitVec 12) (s : State) : Out :=
  s.sendXev d asid.toNat .xprobe (s.my.x (srcNo a)).toNat 0
/-- XSYNC (R354). -/
def execXsync (d : Dst) (asid : BitVec 12) (s : State) : Out := s.sendXev d asid.toNat .xsync 0 0

/-! ### The events of the home agent (R330, R336, R339 to R341) -/

/-- The cycle in which an event is due at its present stage. -/
def XStage.due (g : XStage) : Nat :=
  match g with
  | .sent n => n
  | .queued => 0
  | .inval n => n
  | .acked n => n
  | .frozen n => n
  | .copied n => n
  | .replay _ => 0
  | .settle n => n
  | .done n => n

/-- The source number of an event's context (R29), of this package or of another. -/
def Xev.source (s : State) (e : Xev) : Nat := match e.origin with | some (p, c, _) => p * 2 ^ 18 + c | none => (s.source e.cid).toNat

/-- Event e reaches its agent before d: earlier, or in the same cycle from a lower source number (R330). -/
def Xev.first (s : State) (e d : Xev) : Bool :=
  match e.stage, d.stage with
  | .sent m, .sent n => !e.away && decide (m < n ∨ (m = n ∧ Xev.source s e < Xev.source s d))
  | _, _ => false

/-- TRANSLATION_EVENT_ENTRY (R330): the event enters its order, and begins once nothing earlier holds it back. -/
def execTranslationEventEntry (n : Nat) (s : State) : Out :=
  match s.xev n with
  | none => .next s
  | some e =>
    match e.stage with
    | .sent at_ =>
      if e.away ∨ s.cycle < at_ ∨ (s.pkg.xlat.evs.any fun d => d.asid == e.asid && Xev.first s d e) then .next s
      else
        let e1 := { e with stage := .queued }
        let s1 := s.updXlat fun x => { x with evs := (x.evs.filter fun d => d.id ≠ n) ++ [e1] }
        .next (if s1.unblocked e1 then s1.beginXev e1 else s1)
    | .queued => .next (if s.unblocked e then s.beginXev e else s)
    | .inval _ => .next s
    | .acked _ => .next s
    | .frozen _ => .next s
    | .copied _ => .next s
    | .replay _ => .next s
    | .settle _ => .next s
    | .done _ => .next s

/-- The generators of an address space mark their entries of a range stale, or also held (R336 step 2, R351). -/
def State.markEntries (s : State) (asid lo n : Nat) (hold : Bool) : State :=
  s.mapGens asid fun g => g.mark lo n fun p =>
    if hold then { p with stale := true, held := true, lazy := false } else { p with stale := true, lazy := false }

/-- INVALIDATION_ACK (R336 steps 1 and 2): the generators mark the entries of the range stale, or held, and acknowledge. -/
def execInvalidationAck (n : Nat) (s : State) : Out :=
  match s.xev n with
  | none => .next s
  | some e =>
    match e.stage with
    | .inval at_ =>
      if s.cycle < at_ ∨ !e.acks.isEmpty then .next s
      else
        let s1 := s.markEntries e.asid e.range.1 e.range.2 e.kind.holds
        let g : XStage := if e.kind.holds then .done (s.cycle + 1) else .acked (s.cycle + (if 0 < e.kind.moves then 0 else 140))
        .next (s1.updXev n fun x => { x with mark := s.reqNo, stage := g })
    | .sent _ => .next s
    | .queued => .next s
    | .acked _ => .next s
    | .frozen _ => .next s
    | .copied _ => .next s
    | .replay _ => .next s
    | .settle _ => .next s
    | .done _ => .next s

/-- Entries that were stale, and not held, in a range. -/
def staleIn (lo n : Nat) (g : Gen) (i : Nat) (p : PatchEntry) : Bool := p.stale && !p.held && !p.lazy && g.meets i lo n

/-- The packages ROUTE reaches, but for this one. -/
def State.peers (s : State) : List Nat :=
  (List.range s.pkg.fabric.route.length).filter fun p => p != s.pkg.pkgId && (s.pkg.fabric.portFor p).isSome

/-- The home agent of an address space in another package learns that generators of this one hold it (R336). -/
def State.shareAsid (s : State) (asid : Nat) : State :=
  if s.homeOf asid = s.pkg.pkgId then s else s.forward (s.homeOf asid) (.xshare asid s.pkg.pkgId)

/-- Generators of this package hold an address space, or launches here are to. -/
def State.holdsAsid (s : State) (asid : Nat) : Bool :=
  (s.pkg.sched.launches.any fun l => l.2.asid == asid) || (s.pkg.sched.sys.any fun y => y.2.asid == asid)
    || s.regions.any fun g => g.2.res.any fun p => p.2.asid == asid

/-- The root of an address space has changed: a home agent in another package learns whether this one holds it (R325, R336). -/
def State.reshare (s : State) (asid : Nat) : State := if s.holdsAsid asid then s.shareAsid asid else s

/-- The home package of an address space tells the others what its root is (R325). -/
def State.tellRoot (s : State) (asid : Nat) : State :=
  (s.peers.foldl (fun s p => s.forward p (.xroot asid (SMap.find s.pkg.xlat.xroot asid) s.pkg.pkgId)) s).reshare asid

/-- The repatch an event asks of every generator of its address space (R336 step 4): 2 and 7 the stale entries, 3 the held ones, 4 those not
present. -/
def State.repatchWhat (s : State) (asid lo n what : Nat) : State :=
  s.repatch asid fun g i q => (if what = 3 then q.held && g.meets i lo n else if what = 4 then q.p.absent && !q.held && g.meets i lo n
    else staleIn lo n g i q)

/-- The repatch after an event's table write, here and in the other packages that hold the address space. -/
def State.repatchAll (s : State) (e : Xev) (what : Nat) : State :=
  (s.repatchWhat e.asid e.range.1 e.range.2 what).tellSharers e what

/-- ADREAD.CLRA leaves the stale entries of its page to be repatched by the fetch that next needs them (R352). -/
def State.leaveStale (s : State) (asid lo n : Nat) : State :=
  s.mapGens asid fun g => g.mark lo n fun p => if p.stale && !p.held then { p with lazy := true } else p

/-- The write of an event's table entry, and the repatch that follows (R336 step 4, R347 to R352). -/
def State.writeXev (s : State) (e : Xev) : State :=
  let w := s.entryAt e.leafAt
  match e.kind with
  | .map kind l =>
    if kind = 0 then
      match s.walk e.asid e.va l with
      | none => s
      | some p =>
        let s1 := ((s.putEntry p.addr e.arg).countSlot (leafSlot e.arg) true).updXlat fun x =>
          { x with retired := cutRange (frameOf e.arg) (levelBytes l) x.retired }
        s1.repatchAll e 4
    else if kind = 1 then
      match s.walk e.asid e.va l with
      | none => s
      | some p => (s.newTable e.arg (tableBytes (l + 1))).putEntry p.addr (2 ^ 62 + e.arg / 256 * 256)
    else ((s.newTable e.arg 131072).updXlat fun x => { x with xroot := SMap.set x.xroot e.asid e.arg }).tellRoot e.asid
  | .unmap kind l =>
    if kind = 0 then
      ((s.putEntry e.leafAt 0).countSlot (leafSlot w) false).repatchAll e 7
    else if kind = 1 then
      (s.putEntry e.leafAt 0).updXlat fun x => { x with tableGran := countTable x.tableGran (bitsN w 51 8 * 256) (tableBytes (l + 1)) false }
    else (s.updXlat fun x => { x with xroot := SMap.del x.xroot e.asid, tableGran := countTable x.tableGran e.leafAt 131072 false }).tellRoot
      e.asid
  | .protect _ u wr rd =>
    (s.putEntry e.leafAt (w - bitsN w 59 57 * 2 ^ 57 + bit01 u * 2 ^ 57 + bit01 rd * 2 ^ 58 + bit01 wr * 2 ^ 59)).repatchAll e 7
  | .migrate _ => s
  | .xinval o =>
    s.repatchAll e (if o = 2 then 3 else 2)
  | .adread _ d a =>
    let w1 := if d ∧ w.testBit 60 then w - 2 ^ 60 else w
    let w2 := if a ∧ w1.testBit 61 then w1 - 2 ^ 61 else w1
    let s1 := (s.putEntry e.leafAt w2).updXev e.id fun x => { x with result := w }
    if a then (s1.leaveStale e.asid e.range.1 e.range.2).tellSharers e 5 else s1.repatchAll e 2
  | .xprobe => s
  | .xsync => s

/-- REPATCH (R336 step 4): the table write, and the repatch of the stale entries after it. -/
def execRepatch (n : Nat) (s : State) : Out :=
  match s.xev n with
  | none => .next s
  | some e =>
    match e.stage with
    | .acked at_ =>
      if s.cycle < at_ ∨ 0 < e.kind.moves ∨ !s.writeTurn e ∨ (e.kind.waitsWrites ∧ s.throughMapping e.asid e.range.1 e.range.2 e.mark true) then .next s
      else .next ((s.writeXev e).updXev n fun x => { x with stage := .settle (s.cycle + 64) })
    | .sent _ => .next s
    | .queued => .next s
    | .inval _ => .next s
    | .frozen _ => .next s
    | .copied _ => .next s
    | .replay _ => .next s
    | .settle _ => .next s
    | .done _ => .next s

/-- An access in the frame a migration moves. -/
def Acc.inFrame (a : Acc) (base n : Nat) : Bool := match a.pa with | some p => decide (base ≤ p ∧ p < base + n) | none => false

/-- MIGRATE_FREEZE (R340 step 1, R341): the nodes of the old frame have refused what had not been applied. A keyed access that was placed is
returned with the standing of a performed store. -/
def execMigrateFreeze (n : Nat) (s : State) : Out :=
  match s.xev n with
  | none => .next s
  | some e =>
    match e.stage with
    | .acked at_ =>
      if s.cycle < at_ ∨ e.kind.moves = 0 then .next s
      else
        let back (a : Acc) : Acc :=
          if a.st = .placed ∧ a.inFrame e.oldBase e.kind.moves then { a with st := .flight, kept := !a.op.reads } else a
        let s1 : State := { s with reqs := s.reqs.map fun r : Req => ({ r with accs := r.accs.map back } : Req) }
        .next (s1.updXev n fun x => { x with stage := .frozen (s.cycle + 280 + e.kind.moves / 256) })
    | .sent _ => .next s
    | .queued => .next s
    | .inval _ => .next s
    | .frozen _ => .next s
    | .copied _ => .next s
    | .replay _ => .next s
    | .settle _ => .next s
    | .done _ => .next s

/-- The bytes of a frame moved to another, seen under the old key slot and stored under the new one, block by block. -/
def State.moveFrame (s : State) (old new oslot nslot : Nat) : Nat → State
  | 0 => s
  | k + 1 =>
    let o := 64 * k
    let b := s.view oslot (old + o) 64
    (if b.all (· = 0) ∧ s.tagOf nslot = s.blockTag ((new + o) / 64) then { s with mem := memWrite s.mem (new + o) b }
     else s.put nslot (new + o) b).moveFrame old new oslot nslot k

/-- The blocks of a range of HBM that hold an uncorrectable error are those of another range, moved with it (R415). -/
def moveMarks (l : List Nat) (old new n : Nat) : List Nat :=
  l.filter (fun b => !decide (new / 64 ≤ b ∧ b < (new + n) / 64))
    ++ (l.filter fun b => decide (old / 64 ≤ b ∧ b < (old + n) / 64) && isHbm new).map fun b => b - old / 64 + new / 64

/-- The granules of a moved frame: those of the new frame are live, but for one whose old granule was not (R270). -/
def moveDead (l : List Nat) (old new n : Nat) : List Nat :=
  l.filter (fun g => !decide (new / 65536 ≤ g ∧ g < (new + n) / 65536))
    ++ (l.filter fun g => decide (old / 65536 ≤ g ∧ g < (old + n) / 65536) && isHbm new).map fun g => g - old / 65536 + new / 65536

/-- The uncorrectable errors that the reads of a frame find, as marks: the copy carries them along (R415, log entry 20). -/
def State.findErrs (s : State) (a n : Nat) : State :=
  let hit (e : Nat × Nat) : Bool := decide (e.1 ≤ s.cycle) && decide (a / 64 ≤ e.2 ∧ e.2 < (a + n) / 64)
  if s.hbmErrs.any hit then
    { s with hbmErrs := s.hbmErrs.filter (!hit ·),
             pkg := { s.pkg with marked := s.pkg.marked ++ ((s.hbmErrs.filter hit).map Prod.snd).filter fun b => !s.pkg.marked.contains b } }
  else s

/-- MIGRATE_COPY (R340 step 2): every byte of the old frame stands in the new one, under the new key slot. -/
def execMigrateCopy (n : Nat) (s : State) : Out :=
  match s.xev n with
  | none => .next s
  | some e =>
    match e.stage with
    | .frozen at_ =>
      if s.cycle < at_ then .next s
      else
        let w := s.entryAt e.leafAt
        let new := frameOf e.arg
        let s1 := ((s.findErrs e.oldBase e.kind.moves).moveFrame e.oldBase new (leafSlot w) (leafSlot e.arg) (e.kind.moves / 64)).updPkg fun p =>
          { p with marked := moveMarks p.marked e.oldBase new e.kind.moves, dead := moveDead p.dead e.oldBase new e.kind.moves }
        .next (s1.updXev n fun x => { x with stage := .copied (s.cycle + 140) })
    | .sent _ => .next s
    | .queued => .next s
    | .inval _ => .next s
    | .acked _ => .next s
    | .copied _ => .next s
    | .replay _ => .next s
    | .settle _ => .next s
    | .done _ => .next s

/-- MIGRATE_REMAP (R340 step 3): FRAME, SP and KSLOT of the leaf are replaced; the repatch of the stale entries, here and elsewhere, is under
way until the replay (R355). -/
def execMigrateRemap (n : Nat) (s : State) : Out :=
  match s.xev n with
  | none => .next s
  | some e =>
    match e.stage with
    | .copied at_ =>
      if s.cycle < at_ ∨ !s.writeTurn e then .next s
      else
        let w := s.entryAt e.leafAt
        let keep := bitsN w 63 57 * 2 ^ 57 + bitsN w 55 52 * 2 ^ 52 + bitsN w 15 12 * 2 ^ 12
        let new := keep + bit01 (e.arg.testBit 56) * 2 ^ 56 + bitsN e.arg 51 16 * 2 ^ 16 + bitsN e.arg 11 0
        let s1 := ((s.putEntry e.leafAt new).countSlot (leafSlot w) false).countSlot (leafSlot e.arg) true
        .next ((s1.tellSharers e 2).updXev n fun x => { x with stage := .replay (s.cycle + 64), mark := 0 })
    | .sent _ => .next s
    | .queued => .next s
    | .inval _ => .next s
    | .acked _ => .next s
    | .frozen _ => .next s
    | .replay _ => .next s
    | .settle _ => .next s
    | .done _ => .next s

/-- The status word of R345, or the word a read returns. -/
def Xev.word (e : Xev) : Dword :=
  match e.answer with
  | some w => BitVec.ofNat 64 w
  | none => if e.kind.readsOnly || e.kind.waitsWrites then BitVec.ofNat 64 e.result else BitVec.ofNat 64 (e.status + e.level % 4 * 256)

/-- An event that holds its page until accesses translated through it have performed: UNMAP.LEAF and PROTECT (R339, R349). -/
def XKind.settles (k : XKind) : Bool :=
  match k with
  | .unmap kind _ => kind == 0
  | .protect _ _ _ _ => true
  | .map _ _ => false
  | .migrate _ => false
  | .xinval _ => false
  | .adread _ _ _ => false
  | .xprobe => false
  | .xsync => false

/-- TRANSLATION_COMPLETION (R331, R339, R345): the event leaves its order, and its status, word or token is delivered. -/
def execTranslationCompletion (n : Nat) (s : State) : Out :=
  match s.xev n with
  | none => .next s
  | some e =>
    let go (s : State) : State :=
      let s1 := s.updXlat fun x => { x with evs := x.evs.filter fun d => d.id ≠ n }
      match e.origin, e.out with
      | some (p, _, tag), _ => s1.forward p (.xanswer tag e.word.toNat)
      | none, some (k, t) => s1.settleOpt e.cid e.pend 1 [.emit k (s1.stamp e.cid (depTok t e.word))]
      | none, none =>
        match (s.ctx e.cid).pend.find? fun p => some p.id = e.pend with
        | some p => s1.settleOpt e.cid e.pend 1 (p.xs.map fun x => .sreg x e.word)
        | none => s1
    match e.stage with
    | .settle at_ =>
      if s.cycle < at_ ∨ !e.acks.isEmpty ∨ (e.kind.settles ∧ s.throughMapping e.asid e.range.1 e.range.2 e.mark false) then .next s
      else .next (go s)
    | .done at_ => if s.cycle < at_ then .next s else .next (go s)
    | .sent _ => .next s
    | .queued => .next s
    | .inval _ => .next s
    | .acked _ => .next s
    | .frozen _ => .next s
    | .copied _ => .next s
    | .replay _ => .next s

/-! ### What a generator fetches (R333, R335, R352) -/

/-- The context of a port's M-strip from a region, a context number and 4 × pinna + port. -/
def portCid (r x p : Nat) : Nat := mkCid r (p / 4 * 8 + 5) x

/-- The request at the head of a port. -/
def State.headReq (s : State) (c p : Nat) : Option Req := s.reqs.find? fun r => r.cid = c ∧ r.port = p ∧ r.issued = false

/-- What the head of a port waits for. -/
def State.headGate (s : State) (c p : Nat) : Gate := match s.headReq c p with | some r => s.gate r | none => .wait

/-- The pages of a request whose entries its generator still has to fetch (R333). -/
def Req.misses (r : Req) (g : Gen) : List Nat :=
  ((r.accs.map fun a => a.va / pageBytes g.page).eraseDups).filter fun p => !(r.stream || g.window.contains p || r.fetched.contains p)

/-- The pages of a request whose entries ADREAD.CLRA left. -/
def Req.lazies (r : Req) (g : Gen) : List Nat :=
  ((r.accs.map fun a => a.va / pageBytes g.page).eraseDups).filter fun p => (SMap.get g.table p { p := .np }).lazy

/-- Some pages of a port's generator patched again. -/
def State.refetch (s : State) (c p page : Nat) (l : List Nat) : State :=
  l.foldl (fun s i =>
    let q := s.patchPage (s.asidOf c) page i
    q.2.updGen c p fun g => { g with table := SMap.set g.table i { p := q.1 } }) s

/-- PATCH_FETCH (R333): the entries that the window lacks are there for the request at the head of the port 40 cycles later; one that
ADREAD.CLRA left is repatched first, which sets A again (R352). -/
def execPatchFetch (r x p : Nat) (s : State) : Out :=
  let c := portCid r x p
  match s.headReq c (p % 4), s.gen c (p % 4) with
  | some q, some g =>
    match s.gate q with
    | .fetch _ =>
      let miss := q.misses g
      match g.fetchAt with
      | none =>
        if miss.isEmpty then .next (s.refetch c (p % 4) (pageBytes g.page) (q.lazies g))
        else .next (s.updGen c (p % 4) fun g => { g with fetchAt := some (s.cycle + 39) })
      | some n =>
        if s.cycle < n then .next s
        else
          let s1 := (s.refetch c (p % 4) (pageBytes g.page) (q.lazies g)).updGen c (p % 4) fun g =>
            { g with fetchAt := none, window := (miss.reverse ++ g.window).take 16 }
          .next (s1.updReq q.id fun y => { y with fetched := y.fetched ++ miss })
    | .go => .next s
    | .fail _ _ => .next s
    | .notPresent _ => .next s
    | .dirty _ => .next s
    | .wait => .next s
  | some _, none => .next s
  | none, _ => .next s

/-- DIRTY_UPDATE (R335): D is set in the leaf if it still matches the patch entry, and D-done then. -/
def execDirtyUpdate (r x p : Nat) (s : State) : Out :=
  let c := portCid r x p
  match s.headGate c (p % 4) with
  | .dirty pg =>
    match s.gen c (p % 4) with
    | none => .next s
    | some g =>
      let e := SMap.get g.table pg { p := .np }
      let va := pg * pageBytes g.page
      match patchOf va (pageBytes g.page) (s.walk (s.asidOf c) va 3) with
      | (q, some w) =>
        if q = e.p then
          .next ((s.putEntry w.addr (setBitN w.word 60)).updGen c (p % 4) fun g =>
            { g with table := SMap.set g.table pg { e with dDone := true } })
        else .next s
      | (_, none) => .next s
  | .go => .next s
  | .fail _ _ => .next s
  | .notPresent _ => .next s
  | .fetch _ => .next s
  | .wait => .next s

end Sys2Proof.Machine
end

