-- ==== Sys2Proof/Machine/Order.lean ====
section
/-! DEFINITION. Ordering instructions (R287 to R312) and the conditions under which they hold. -/

namespace Sys2Proof.Machine

/-! ### What a fence waits for (R289, R306) -/

/-- A stream of context c is not finished. -/
def State.streaming (s : State) (c : Nat) (loadsOnly : Bool) : Bool := (s.ctx c).ports.any fun p => p.2.unfinished loadsOnly

/-- Every earlier access of context c that passes a test has performed. -/
def State.allPerformed (s : State) (c : Nat) (want : Acc → Bool) : Bool :=
  s.reqs.all fun r => r.cid != c || r.accs.all fun a => a.performed || !want a

/-- An access of request r is committed at a scope (R289): performed, or a store that has entered the network of the scope's instance. It
stands in its port's queue as soon as its firing has made it; at the wider scopes it enters the figure of R312 after its issue, unless an
earlier access of its party still holds it back. From there the network keeps its place (State.netFirst, State.queueFirst). -/
def State.committed (s : State) (r : Req) (scope : Nat) (a : Acc) : Bool :=
  a.performed || (!a.op.reads && s.entered r scope a && (decide (scope ≤ 1) || !s.orderFirst r))

/-- Every earlier access of context c is committed at a scope. -/
def State.allCommitted (s : State) (c scope : Nat) : Bool := s.reqs.all fun r => r.cid != c || r.accs.all (s.committed r scope)

/-- The figure of R312 at die and pkg has passed since the last accesses of the wanted kinds that context c issued. -/
def State.dieLag (s : State) (c scope : Nat) (stores : Bool) : Bool :=
  let past (o : Option Nat) (far : Nat) : Bool :=
    match o with | some t => decide ((if scope = 5 then max t far else t) + 14 ≤ s.cycle) | none => true
  (scope ≠ 4 && scope ≠ 5) || (s.ctx c).points.all fun p =>
    past p.2.readAt p.2.readFar && (!stores || past p.2.wroteAt p.2.wroteFar)

/-- A translation event that FENCEX waits for: MAP, UNMAP, PROTECT and MIGRATE (R307). -/
def XKind.fenced (k : XKind) : Bool :=
  match k with
  | .map _ _ => true
  | .unmap _ _ => true
  | .protect _ _ _ _ => true
  | .migrate _ => true
  | .xinval _ => false
  | .adread _ _ _ => false
  | .xprobe => false
  | .xsync => false

/-- An access to a page of a generator still causes an accessed or dirty update: its entry is to be written again first, or a write finds D
not done (R334, R335). -/
def Gen.owesUpdate (g : Gen) (va : Nat) (write : Bool) : Bool :=
  let e := g.entry va
  g.page != 3 && (e.stale || e.held || e.p.absent || (write && !e.dDone && e.p.verdict false true false == 0))

/-- The elements of a stream that no request covers yet: how many counters a read stream has passed, or how many elements a write stream has
taken. -/
def SPort.passed (t : SPort) : Nat :=
  match t.mode with
  | .write => t.pos
  | .read => (t.counts.zip t.chain.c).foldr (fun x n => x.2 + x.1 * n) 0
  | .gath => 0
  | .idle => 0

/-- A store of a request goes to host-visible memory: HBM, of this package or another; one whose page is not known yet may (R306, R443). -/
def State.hostVisible (s : State) (r : Req) (a : Acc) : Bool :=
  a.op.writes && match (s.whereTo r.cid r.port a).pa with | some p => isHbm p | none => true

/-- A write stream of context c still has elements to store in host-visible memory (R287, R306). -/
def State.hostStream (s : State) (c p : Nat) (t : SPort) : Bool :=
  decide (t.mode = .write) && match s.gen c p with
    | none => false
    | some g => g.page != 3 && (rangeFrom t.passed (t.total - t.passed)).any fun n =>
        match (g.entry (t.addrOf g.base (coordsOf t.counts n))).p with | .frame _ _ _ _ sp _ => !sp | .pg => true | .np => true

/-- Every earlier store of context c to host-visible memory has performed (R306). -/
def State.hostHolds (s : State) (c : Nat) : Bool :=
  (s.reqs.all fun r => r.cid != c || r.accs.all fun a => a.performed || !s.hostVisible r a)
    && !(s.ctx c).ports.any fun p => s.hostStream c p.1 p.2

/-- FENCE holds: K 0 .AR, 1 .ACQ, 2 .REL (R306). At host (scope 11) a release waits for the stores to host-visible memory alone. -/
def State.fenceHolds (s : State) (c scope k : Nat) : Bool :=
  let acq := s.allPerformed c (fun a => a.op.reads) && !s.streaming c true && s.dieLag c scope false
  let rel := if scope = 11 then s.hostHolds c else s.allCommitted c scope && !s.streaming c false && s.dieLag c scope true
  if k = 1 then acq else if k = 2 then rel else acq && rel

/-- A running stream of a context still makes accesses that cause such updates; they stand in program order at its SPORT or SGATH (R287). -/
def State.streamOwes (s : State) (c p : Nat) (t : SPort) : Bool :=
  match s.gen c p with
  | none => false
  | some g =>
    match t.mode with
    | .idle => false
    | .gath => t.rows.any fun x => decide (0 ≤ x) && (List.range t.roww).any fun i => g.owesUpdate (x.toNat + 4 * i) false
    | .read => (t.todo.any fun x => g.owesUpdate x.2 false) || (!t.chain.spent &&
        (rangeFrom t.passed (t.total - t.passed)).any fun n => g.owesUpdate (t.addrOf g.base (coordsOf t.counts n)) false)
    | .write => (rangeFrom t.passed (t.total - t.passed)).any fun n => g.owesUpdate (t.addrOf g.base (coordsOf t.counts n)) true

/-- FENCEX holds (R307): the context's own events, of which a user context has none, have completed, and every accessed and dirty update of
its earlier accesses has been made. -/
def State.fencexHolds (s : State) (c : Nat) : Bool :=
  (s.pkg.xlat.evs.all fun e => e.cid != c || !e.kind.fenced)
    && (s.reqs.all fun r => r.cid != c || r.issued || decide (4 ≤ r.port) || match s.gen c r.port with
        | none => true
        | some g => r.accs.all fun a => !g.owesUpdate a.va a.op.writes)
    && (s.ctx c).ports.all fun p => !s.streamOwes c p.1 p.2

/-- FENCEP holds: every earlier store and atomic of the context has performed (R308). -/
def State.fencepHolds (s : State) (c : Nat) : Bool :=
  s.allPerformed c (fun a => a.op.writes) && !((s.ctx c).ports.any fun p => decide (p.2.mode = .write))

/-- PERFW holds: the stores the context issued, or the configuration's count, are at rest (R310). -/
def State.perfwHolds (s : State) (c : Nat) (cfg : Bool) : Bool :=
  if cfg then (match s.res c with | some p => p.stAck == 0 | none => true) else s.allPerformed c (fun a => a.op.writes)

/-- MCSYNC holds: the stores that the emitter of the head issued before it have performed (R311). -/
def State.mcsyncHolds (s : State) (t : Token) : Bool :=
  s.reqs.all fun r => r.cid != t.emitter || decide (t.stores ≤ r.serial) || r.accs.all fun a => a.performed || !a.op.writes

/-! ### The instructions -/

/-- FENCE: once it fires, its order stands (R305, R306). A release at lane or elem leaves its mark on the port queues (R289). -/
def execFence (g : BitVec 4) (k : BitVec 2) (s : State) : Out :=
  (if g.toNat ≤ 1 ∧ k ≠ 1 then s.updCtx s.cur.cid fun c => { c with fenceMark := s.reqNo } else s).done

/-- A dependence token on an output in the cycle after the firing (R305). -/
def State.depDone (s : State) (d : Dst) : Out :=
  match d with
  | .out k => s.finish 1 [.emit k.toNat (s.stamp s.cur.cid (depTok (s.my.otag k.toNat)))]
  | .v _ => s.done
  | .x _ => s.done
  | .null => s.done

/-- FENCEX (R307). -/
def execFencex (d : Dst) (s : State) : Out := s.depDone d
/-- FENCEP (R308). -/
def execFencep (d : Dst) (s : State) : Out := s.depDone d

/-- The value SEQKEY gives KR, and whether STEP carries out (R309). -/
def seqKey (k : Nat) (kr w : Dword) : Dword × Bool :=
  let ph := fld kr 63 48 * 2 ^ 48
  if k = 0 then (BitVec.ofNat 64 (ph + fld w 47 0), false)
  else if k = 1 then (BitVec.ofNat 64 (ph + fld w 31 0 * 2 ^ 16), false)
  else (kr + BitVec.ofNat 64 (fld w 15 0), decide (2 ^ 16 ≤ fld kr 15 0 + fld w 15 0))

/-- SEQKEY (R309). -/
def execSeqkey (d : Dst) (a : Src) (k : BitVec 2) (s : State) : Out :=
  let kr := s.my.regs.kr
  if k = 3 then s.finish 1 (s.write d (.sca kr) 0)
  else match s.poisoned [a] with
    | some p => s.poisonTo .null 1 p
    | none =>
      let r := seqKey k.toNat kr (s.srcSca a)
      if r.2 ∨ (s.keyed s.cur.cid ∧ r.1.toNat < kr.toNat) then s.trap 0x04
      else (s.updCtx s.cur.cid fun c => c.updRegs fun g => { g with kr := r.1 }).done

/-- PERFW (R310). -/
def execPerfw (_c : BitVec 1) (s : State) : Out := s.done

/-- MCSYNC: the head stays (R311); a POISON head is counted (R305). -/
def execMcsync (a : Src) (s : State) : Out :=
  match s.poisoned [a] with
  | some p => s.poisonTo .null 1 p
  | none => s.done

end Sys2Proof.Machine
end

