-- ==== Sys2Proof/Machine/MemEvents.lean ====
section
/-! DEFINITION. What memory nodes, ports and the tile table do on their own (R262, R265 to R269, R276, R279, R301). -/

namespace Sys2Proof.Machine

/-! ### Rhizoid units (R267, R269) -/

/-- The merge window after an access to an HBM address: an entry of the bank at another row closes, and the access joins its row's entry or
opens one, if the window has room. -/
def mergeAccess (l : List MergeEntry) (ch bank row cyc : Nat) : List MergeEntry :=
  let l := l.filter fun e => !(e.ch = ch ∧ e.bank = bank ∧ e.row ≠ row)
  if l.any fun e => e.ch = ch ∧ e.bank = bank ∧ e.row = row ∧ e.cols < 64 then
    l.map fun e => if e.ch = ch ∧ e.bank = bank ∧ e.row = row then { e with cols := e.cols + 1 } else e
  else if (l.filter fun e => e.ch = ch).length < 64 then l ++ [⟨ch, bank, row, cyc, 1⟩] else l

/-- The open rows after an access: its bank holds its row, and its channel has served one more row hit, or none (R269). -/
def openRows (l : List OpenRow) (ch bank row : Nat) (hit : Bool) : List OpenRow :=
  let n := if hit then (match l.find? fun o => o.ch = ch with | some o => o.hits + 1 | none => 1) else 0
  let l := if l.any fun o => o.ch = ch ∧ o.bank = bank then l.map fun o => if o.ch = ch ∧ o.bank = bank then { o with row } else o
    else l ++ [⟨ch, bank, row, 0⟩]
  l.map fun o => if o.ch = ch then { o with hits := n } else o

/-- A bank's open row as a prefetch leaves it (R284): no row hit is counted. -/
def openRow (l : List OpenRow) (ch bank row : Nat) : List OpenRow :=
  if l.any fun o => o.ch = ch ∧ o.bank = bank then l.map fun o => if o.ch = ch ∧ o.bank = bank then { o with row } else o
  else l ++ [⟨ch, bank, row, match l.find? fun o => o.ch = ch with | some o => o.hits | none => 0⟩]

/-- The merge windows and the open rows after an access. -/
def State.merged (s : State) (a : Acc) : State :=
  match a.pa with
  | none => s
  | some p =>
    if isHbm p then
      let h := Config.hbmPlace p
      s.updPkg fun k => { k with merge := mergeAccess k.merge (chanOf p) h.2.1 h.2.2 s.cycle,
                                 rows := openRows k.rows (chanOf p) h.2.1 h.2.2 (s.rowHit p) }
    else s

/-- An access that a test picks has come to its channel, and waits for nothing but its service there. -/
def State.waitsOn (s : State) (ch : Nat) (want : Req → Nat → Bool) : Bool :=
  s.reqs.any fun q => q.accs.any fun b =>
    (match b.pa with | some x => isHbm x && chanOf x == ch && want q x | none => false) && s.accReady q b

/-- The controller serves another normal access of the channel first (R269): a row hit, up to 16 in a row, else the oldest. -/
def State.rowWaits (s : State) (r : Req) (a : Acc) : Bool :=
  r.cls == 0 && match a.pa with
    | none => false
    | some p =>
      isHbm p &&
        (let ch := chanOf p
         let older := s.waitsOn ch fun q _ => q.cls == 0 && decide (q.id < r.id)
         if s.pkg.rows.any fun o => o.ch == ch && decide (16 ≤ o.hits) then older
         else !s.rowHit p && (s.waitsOn ch (fun q x => q.cls == 0 && s.rowHit x) || older))

/-- A bulk request is served only when no normal request waits on its channel (R269). -/
def State.bulkWaits (s : State) (r : Req) (a : Acc) : Bool :=
  r.cls == 1 && match a.pa with
    | none => false
    | some p => isHbm p && s.waitsOn (chanOf p) fun q _ => q.cls == 0

/-- A unit of a prefetch that its channels open now: no normal request waits on them, or it has waited 4,096 cycles (R269, R284). -/
def State.prefGoes (s : State) (since a : Nat) : Bool :=
  decide (since + 4096 ≤ s.cycle) || !(rangeFrom (a / 64) 64).any fun b => s.waitsOn (chanOf (64 * b)) fun q _ => q.cls == 0

/-- The rows of a unit of 4,096 bytes opened. -/
def State.openUnit (s : State) (a : Nat) : State :=
  s.updPkg fun k => { k with rows := (rangeFrom (a / 64) 64).foldl (fun l b =>
    let h := Config.hbmPlace (64 * b)
    openRow l (chanOf (64 * b)) h.2.1 h.2.2) k.rows }

/-- The channels open rows that PREF has asked for (R284). -/
def State.servePrefs (s : State) : State :=
  if s.pkg.prefs.isEmpty then s
  else
    let go := s.pkg.prefs.flatMap fun p => p.units.filter (s.prefGoes p.since)
    go.foldl State.openUnit (s.updPkg fun k => { k with
      prefs := (k.prefs.map fun p => { p with units := p.units.filter (!s.prefGoes p.since ·) }).filter fun p => !p.units.isEmpty })

/-- A keyed access is placed: its node accepts it. A store has performed with that, and meets there what a store of open mode meets as it
performs (R301). -/
def State.placeAcc (s : State) (r : Req) (a : Acc) : State :=
  match a.pa with
  | none => s
  | some pa =>
    let code := if a.op.reads then 0 else s.nodeCode r a pa
    let s := if a.op.reads then s else s.updRegion (regionOf r.cid) fun g => { g with progress := true }
    if code ≠ 0 then s.dropAcc r a pa code else s.updAcc r.id a fun b => { b with st := .placed }

/-- The read of an access finds an uncorrectable error in its block (R415): the access returns nothing. -/
def State.finds (s : State) (r : Req) (a : Acc) : Bool := match a.pa with | some p => s.latentErr p && r.readsBlock a p | none => false
/-- The error an access finds. -/
def State.foundBy (s : State) (r : Req) (a : Acc) : State := match a.pa with | some p => s.findFor r.cid r.fcount p r.key | none => s

/-- ACCESS_PERFORM (R265, R301): an access reaches its node. In open mode it is applied; in keyed mode it is placed. The tile of a TILEST
whose writes have performed becomes ready (R262). -/
def execAccessPerform (n lane : Nat) (s : State) : Out :=
  match s.req n with
  | none => .next s
  | some r =>
    match r.tile, r.settled with
    | some t, true => .next (s.fillDone r t)
    | _, _ =>
      match r.acc lane with
      | none => .next s
      | some a =>
        if !s.accReady r a || s.bulkWaits r a || s.rowWaits r a then .next s
        else if s.finds r a && !(r.keyed && a.op.reads) then .next (s.foundBy r a)
        else
          let s1 := s.merged a
          .next ((if r.keyed then s1.placeAcc r a else s1.applyAcc r a).finishReq n)

/-- KEYED_APPLY (R301): a placed access below every watermark is applied. -/
def execKeyedApply (n lane : Nat) (s : State) : Out :=
  match s.req n with
  | none => .next s
  | some r =>
    match r.acc lane with
    | none => .next s
    | some a =>
      if !s.keyReady r a then .next s
      else if s.finds r a then .next (s.foundBy r a)
      else .next ((s.applyAcc r a).finishReq n)

/-- PORT_RETURN (R268): the oldest request of a port that returns data leaves the reorder buffer once it is whole. -/
def execPortReturn (c p : Nat) (s : State) : Out :=
  match s.reqs.find? fun r => r.cid == c && r.port == p && r.accs.any fun a => a.op.reads with
  | none => .next s
  | some r => if r.over ∧ p < 4 then .next ((s.deliver r).dropReq r.id) else .next s

/-- MERGE_WINDOW_CLOSE (R267): an entry open for 32 cycles, or with 64 column accesses, closes. -/
def execMergeWindowClose (ch row : Nat) (s : State) : Out :=
  .next (s.updPkg fun k => { k with merge := k.merge.filter fun e =>
    !(e.ch = ch ∧ e.row = row ∧ (e.opened + 32 ≤ s.cycle ∨ 64 ≤ e.cols)) })

/-- BULK_AGEING (R269): a bulk request that has waited 4,096 cycles is served like a normal one. -/
def execBulkAgeing (n : Nat) (s : State) : Out :=
  match s.req n with
  | none => .next s
  | some r => if r.cls = 1 ∧ r.cycle + 4096 ≤ s.cycle then .next (s.updReq n fun q => { q with cls := 0 }) else .next s

/-- A request of the deadline class begins: a PSAVE or a context save moves its pieces for some cycles (R269). -/
def State.addDeadline (s : State) (c fcount : Nat) (key : Dword) (pas : List Nat) (cycles : Nat) : State :=
  { s with reqNo := s.reqNo + 1, pkg := { s.pkg with deadlines := s.pkg.deadlines ++ [⟨s.reqNo, c, fcount, key, pas, s.cycle + cycles⟩] } }

/-- The rows a deadline request closes to be served at once are no longer open (R269). -/
def State.closeRows (s : State) (pas : List Nat) : State :=
  s.updPkg fun p => { p with rows := p.rows.filter fun o =>
    !(pas.any fun x => isHbm x && chanOf x == o.ch && (Config.hbmPlace x).2.1 == o.bank) }

/-- DLMISS (R269): a deadline request that misses its time is served at once, and the event is logged to the system context. -/
def execDlmiss (n : Nat) (s : State) : Out :=
  match s.pkg.deadlines.find? fun d => d.id = n with
  | none => .next s
  | some d =>
    .next (((s.closeRows d.pas).updPkg fun p => { p with deadlines := p.deadlines.filter fun e => e.id ≠ n }).report
      d.cid 0x82 4 0xFF d.fcount none d.key)

/-! ### Streams (R276, R279) -/

/-- A request of a port's generator, under the key of the SPORT or SGATH that runs it. -/
def State.genReq (s : State) (c p : Nat) (t : SPort) (accs : List Acc) : State :=
  let k := s.ctx c
  let r : Req :=
    { id := s.reqNo, cid := c, port := p, vspace := false, accs, deliver := .port, pend := none, fcount := t.firing, lid := s.lidOf c,
      keyed := s.keyed c, key := t.key, ext := extKey t.key (s.source c).toNat (k.point p).reqs, cls := bit01 t.bulk, release := none,
      tile := none, seq := t.seq, cycle := s.cycle, issued := false, stopped := false, reported := none,
      acquire := false, serial := k.stIssued, stream := decide (t.mode = .read) }
  let s1 := (s.addReq r).updCtx c fun k =>
    let q := k.point p
    { k with points := SMap.set k.points p { q with last := some (match q.last with | some l => if l.toNat < t.key.toNat then t.key else l | none => t.key),
                                                    reqs := q.reqs + 1 } }
  s1.tryReq r

/-- The elements of a DATA token of a read stream, as lanes and addresses. -/
def SPort.reads (t : SPort) (base cnt f : Nat) : List (Nat × Nat) :=
  (List.range cnt).map fun i => (i, t.addrOf base (listSet t.chain.c 0 (f + i)))

/-- An exact address as the checks of R271 take it: one below 0 is not canonical. -/
def exactVa (x : Int) : Nat := if x < 0 then 2 ^ 64 else x.toNat

/-- The first elements of a list that lie in one page; an indexed access of SGATH and a V-space stream are not split (R264). -/
def SPort.run (t : SPort) (page : Nat) (l : List (Nat × Nat)) : List (Nat × Nat) :=
  match l with
  | [] => []
  | x :: _ => if t.mode = .gath ∨ page = 3 then l else l.takeWhile fun y => y.2 / pageBytes page = x.2 / pageBytes page

/-- The generator makes the next request of the last token of its buffer: as many of its elements as lie in one page (R264). -/
def State.nextRun (s : State) (c p : Nat) (g : Gen) (t : SPort) : State :=
  let l := t.run g.page t.todo
  let rest := t.todo.drop l.length
  let buf := match t.buf.getLast? with
    | some b => t.buf.dropLast ++ [{ b with reqs := b.reqs ++ [s.reqNo], more := !rest.isEmpty }]
    | none => []
  (s.setPort c p { t with todo := rest, buf }).genReq c p t (l.map fun x => { lane := x.1, va := x.2, size := 4, op := .rd })

/-- STREAM_REQUEST (R263, R264, R276, R279): the generator of a running stream makes its next request, or queues a MARK or the EOS. -/
def execStreamRequest (c p : Nat) (s : State) : Out :=
  let t := SMap.get (s.ctx c).ports p {}
  if s.cycle < t.start ∨ t.frozen ∨ (s.headReq c p).isSome ∨ s.portBusy c p then .next s
  else match s.gen c p with
    | none => .next s
    | some g =>
      if !t.todo.isEmpty then .next (s.nextRun c p g t)
      else if 16 ≤ t.buf.length then .next s
      else match t.mode with
        | .read =>
          if t.chain.spent then .next s
          else
            let r := t.chain.next 192 false
            let u := { t with chain := r.2 }
            match r.1 with
            | .data cnt f =>
              .next (s.nextRun c p g { u with todo := t.reads g.base cnt f,
                                              buf := t.buf ++ [{ tok := vecTok 0 (Mask.first cnt) ⟨[]⟩, more := true }] })
            | .mark l w => .next (s.setPort c p { u with buf := t.buf ++ [{ tok := markTok l true (BitVec.ofNat 64 w) }] })
            | .eos => .next (s.setPort c p { u with buf := t.buf ++ [{ tok := eosTok 0 }] })
        | .gath =>
          match t.rows with
          | [] => .next s
          | row :: rest =>
            .next (s.nextRun c p g { t with rows := rest, todo := (List.range t.roww).map fun i => (i, exactVa (row + 4 * i)),
                                            buf := t.buf ++ [{ tok := vecTok (BitVec.ofNat 4 t.pos) (Mask.first t.roww) ⟨[]⟩, more := true }] })
        | .write => .next s
        | .idle => .next s

/-- SGATH_ROW_EMIT (R279): a row's token leaves when the output register is empty; the last one frees the output. -/
def execSgathRowEmit (c p : Nat) (s : State) : Out :=
  let t := SMap.get (s.ctx c).ports p {}
  match t.gath, t.buf with
  | some (k, pd), b :: rest =>
    if !b.whole ∨ ((s.ctx c).outReg k).isSome then .next s
    else
      let s1 := (s.putTok c k b.tok)
      if rest.isEmpty ∧ t.rows.isEmpty then .next ((s1.setPort c p { t with buf := [], gath := none }).dropPend c pd)
      else .next (s1.setPort c p { t with buf := rest })
  | none, _ => .next s
  | some _, [] => .next s

/-! ### The tile table (R262) -/

/-- Stores of a configuration of a region into some bytes, of requests before mark m, have performed. -/
def State.storesDone (s : State) (r x a n m : Nat) : Bool :=
  s.reqs.all fun q => decide (m ≤ q.id) || regionOf q.cid != r || ctxOf q.cid != x || q.accs.all fun b =>
    b.performed || !b.op.writes || (match b.pa with | some p => !meets p b.size a n | none => !(q.vspace && meets (s.vaultKey b.va) b.size a n))

/-- TILE_CLOSE_DONE (R262): an opened tile is ready once the stores before its CLOSE have performed. -/
def execTileCloseDone (r t : Nat) (s : State) : Out :=
  match s.tile r t with
  | none => .next s
  | some x =>
    match x.st, x.mark with
    | .opened, some m =>
      if s.storesDone r x.owner (s.vaultKey (vaultVa r x.offset)) x.bytes m then
        .next (s.tileTurn r t fun x => { x with st := .ready, mark := none })
      else .next s
    | .opened, none => .next s
    | .empty, _ => .next s
    | .filling, _ => .next s
    | .ready, _ => .next s
    | .draining, _ => .next s

/-- TILE_FREE_DONE (R262): a draining tile is empty once the accesses that named it before have performed; a TILEST that still waits at the
table has not been let to it. -/
def execTileFreeDone (r t : Nat) (s : State) : Out :=
  match s.tile r t with
  | none => .next s
  | some x =>
    match x.st, x.mark with
    | .draining, some m =>
      if x.holders = 0 ∧ s.reqs.all (fun q => decide (m ≤ q.id) || regionOf q.cid != r || q.tile != some t || x.waitq.contains (.store q.id)
          || q.accs.all Acc.performed) then
        .next (s.tileTurn r t fun x => { x with st := .empty, mark := none })
      else .next s
    | .draining, none => .next s
    | .empty, _ => .next s
    | .filling, _ => .next s
    | .opened, _ => .next s
    | .ready, _ => .next s

end Sys2Proof.Machine
end

