-- ==== Sys2Proof/Machine/Async.lean ====
section
/-! DEFINITION. Dependence tokens, copies, barriers, time and RAND (R356 to R380). -/

namespace Sys2Proof.Machine

/-! ### What an agent delivers -/

/-- A word an agent delivers to the destination of a firing: a scalar token on its output, or its scalar register. `dep` marks a dependence
token. -/
def State.deliverWord (s : State) (c : Nat) (pend : Option Nat) (out : Option (Nat × BitVec 4)) (lat : Nat) (dep : Bool) (w : Dword) : State :=
  match out with
  | some (k, t) => s.settleOpt c pend lat [.emit k (s.stamp c { scaTok t w with dep })]
  | none =>
    match (s.ctx c).pend.find? fun p => some p.id = pend with
    | some p => s.settleOpt c pend lat (p.xs.map fun x => .sreg x w)
    | none => s

/-- Poison an agent delivers: on the output, else to the sink, with the register released. -/
def State.deliverBad (s : State) (c : Nat) (pend : Option Nat) (out : Option (Nat × BitVec 4)) (lat : Nat) (t : Token) : State :=
  match out, pend with
  | some (k, g), some _ => s.settleOpt c pend lat [.emit k (s.stamp c { t with tag := g })]
  | some _, none => s.countPoison c t
  | none, some n => (s.dropPend c n).countPoison c t
  | none, none => s.countPoison c t

/-- An open result for a destination that an agent settles later, if it has one to settle. -/
def State.owe (s : State) (d : Dst) : Option Nat × State :=
  match d with
  | .null => (none, s)
  | .v k => (some s.pendNo, s.openPend s.cur.cid [k.toNat] [] [])
  | .x k => (some s.pendNo, s.openPend s.cur.cid [] [k.toNat] [])
  | .out k => (some s.pendNo, s.openPend s.cur.cid [] [] [k.toNat])

/-! ### Copy descriptors (R362, R363) -/

/-- SRC, DST, ROWBYTES, ROWS and the signed strides of a descriptor. -/
def cpSrc (d : BitVec 384) : Nat := fld d 63 0
/-- DST. -/
def cpDst (d : BitVec 384) : Nat := fld d 127 64
/-- ROWBYTES. -/
def cpBytes (d : BitVec 384) : Nat := fld d 159 128
/-- ROWS. -/
def cpRows (d : BitVec 384) : Nat := fld d 191 160
/-- SSTRIDE. -/
def cpSstride (d : BitVec 384) : Int := signedN 32 (fld d 223 192)
/-- DSTRIDE. -/
def cpDstride (d : BitVec 384) : Int := signedN 32 (fld d 255 224)
/-- The source side is V-space. -/
def cpSv (d : BitVec 384) : Bool := d.getLsbD 268
/-- The destination side is V-space. -/
def cpDv (d : BitVec 384) : Bool := d.getLsbD 269
/-- The destination is a tile. -/
def cpDten (d : BitVec 384) : Bool := d.getLsbD 270
/-- DTILE. -/
def cpTile (d : BitVec 384) : Nat := fld d 282 271
/-- 4 × pinna + port of the source side. -/
def cpSport (d : BitVec 384) : Nat := 4 * fld d 259 256 + fld d 261 260
/-- 4 × pinna + port of the destination side. -/
def cpDport (d : BitVec 384) : Nat := 4 * fld d 265 262 + fld d 267 266

/-- The generator of a port of a context's configuration, by 4 × pinna + port. -/
def State.genAt (s : State) (c p : Nat) : Option Gen := match s.res c with | some r => SMap.find r.gens p | none => none

/-- A port serves a copy's side: bound, and for read or update, or write or update. -/
def State.portServes (s : State) (c p : Nat) (write : Bool) : Bool :=
  match s.genAt c p with | some g => g.access != (if write then 0 else 1) | none => false

/-- A breach of R363. -/
def State.copyBad (s : State) (c : Nat) (d : BitVec 384) : Bool :=
  fld d 383 283 != 0 || cpRows d == 0 || decide (2 ^ 20 < cpRows d) || decide (cpBytes d < 4) || decide (2 ^ 31 < cpBytes d)
    || cpBytes d % 4 != 0 || decide (2 ^ 32 < cpRows d * cpBytes d) || cpSrc d % 4 != 0 || cpDst d % 4 != 0
    || cpSstride d % 4 != 0 || cpDstride d % 4 != 0
    || (cpSv d && fld d 261 256 != 0) || (cpDv d && fld d 267 262 != 0)
    || (!cpSv d && !s.portServes c (cpSport d) false) || (!cpDv d && !s.portServes c (cpDport d) true)
    || (cpDten d && (!cpDv d || (s.tile (regionOf c) (cpTile d)).isNone
        || !((s.res c).any fun r => r.cfg.tiles.any fun t => t.tile == cpTile d)))

/-- The inputs the enabled dependence fields name, in order (R361). -/
def depInputs (d2 d1 d0 : BitVec 4) : List Nat := ([d0, d1, d2].filter fun x => x.getLsbD 3).map fun x => fld x 2 0

/-- What dependence heads give a COPY (R358): the first poison, or DEPTOK for a head that is no dependence token. -/
def State.depVerdict (s : State) (l : List Nat) : Option PTok :=
  match l.find? fun k => (s.head k).kind = kPOISON with
  | some k => some (.tok (s.head k))
  | none => if l.any fun k => !((s.head k).kind = kDATA ∧ (s.head k).dep) then some (.bad 0x44) else none

/-! ### Transaction barriers (R367) -/

/-- A transaction barrier of a region. -/
def State.tb (s : State) (r b : Nat) : TBar := SMap.get (s.region r).tbs b {}
/-- A transaction barrier changed. -/
def State.updTb (s : State) (r b : Nat) (f : TBar → TBar) : State := s.updRegion r fun g => { g with tbs := SMap.upd g.tbs b {} f }
/-- A barrier belongs to another launch. -/
def State.tbForeign (s : State) (r b lid : Nat) : Bool := match (s.tb r b).owner with | some o => o != lid | none => false
/-- A copy counted against a barrier completes (R364). -/
def TBar.copyDone (t : TBar) (bad : Bool) : TBar := { t with owed := t.owed - 1, pois := t.pois || bad }

/-! ### COPY (R362 to R365) -/

/-- The entries of copy queue q that are taken or claimed (R359). -/
def State.copyTaken (s : State) (r q : Nat) : Nat :=
  (SMap.get (s.region r).copyQ q {}).cmds.length + ((s.region r).copyIn.filter fun k => k.q = q).length

/-- The key of an engine command used, and STEP advanced (R299, R300). -/
def State.engineKey (s : State) : State := s.stepKey 5

/-- COPY: dependence inputs consumed; a poison or a wrong one goes to D and the command is not performed; else it is on its way to its queue,
and a tile it fills fills from now on, or as soon as its table lets it (R262, R358, R359, R362). -/
def execCopy (d : Dst) (a : Src) (q : BitVec 2) (tben : BitVec 1) (tbid : BitVec 6) (bulk : BitVec 1) (dep2 dep1 dep0 : BitVec 4)
    (s : State) : Out :=
  let c := s.cur.cid
  let r := regionOf c
  let ds : BitVec 384 := BitVec.ofNat 384 (portDesc (s.srcVec a))
  let deps := depInputs dep2 dep1 dep0
  if s.copyBad c ds then s.trap 0x0F
  else if tben = 1 ∧ s.tbForeign r tbid.toNat (s.lidOf c) then s.trap 0x0C
  else match s.depVerdict deps with
    | some t =>
      let s1 := if tben = 1 then s.updTb r tbid.toNat fun b => b.copyDone true else s
      s1.poisonTo d 1 (match t with | .tok h => h | .bad k => s.poisonNew d k) deps
    | none =>
      if s.keyFault 5 then s.trap 0x04
      else
        let o := s.owe d
        let cmd : CopyCmd :=
          { cid := c, fcount := s.firing.toNat, key := s.my.regs.kr, reqs := (s.my.point 5).reqs, d := ds,
            tb := if tben = 1 then some tbid.toNat else none, bulk := bulk == 1, pend := o.1, out := s.outTag d, lid := s.lidOf c,
            cfg := (match s.res c with | some p => p.cfg.num | none => 0), arrives := s.cycle + 2, id := s.reqNo, q := q.toNat,
            since := s.cycle + 2 }
        let s1 := { o.2 with reqNo := s.reqNo + 1 }
        let s2 := if cpDten ds then s1.tileAsk r (cpTile ds) (.copy s.reqNo) else s1
        let s3 := s2.updRegion r fun g => { g with copyIn := g.copyIn ++ [cmd] }
        .next (s3.engineKey.retire deps)

/-- The commands that reach a queue: of those due, the earliest, in ascending source number. -/
def State.copyNext (s : State) (r q : Nat) : Option CopyCmd :=
  ((s.region r).copyIn.filter fun k => k.q = q ∧ k.arrives ≤ s.cycle + 1).foldl (fun m k => match m with
    | none => some k
    | some b => if k.arrives < b.arrives ∨ (k.arrives = b.arrives ∧ k.cid < b.cid) then some k else some b) none

/-- One queue takes its next command. -/
def State.copyEnter (s : State) (r q : Nat) : State :=
  match s.copyNext r q with
  | none => s
  | some k => s.updRegion r fun g => { g with copyIn := g.copyIn.filter fun x => x.id ≠ k.id,
                                              copyQ := SMap.upd g.copyQ q {} fun z => { z with cmds := z.cmds ++ [k] } }

/-- COPY_QUEUE_ENTRY (R359): each queue of a copy node accepts one command in a cycle. -/
def execCopyQueueEntry (r : Nat) (s : State) : Out := .next ((((s.copyEnter r 0).copyEnter r 1).copyEnter r 2).copyEnter r 3)

/-- The verdict on bytes of one side of a copy: go on; a check failed; a page is not present; wait for a repatch. -/
inductive Side where
  | ok
  | fail (code : Nat) (addr : Nat)
  | np (va : Nat)
  | wait
  deriving DecidableEq, Repr

/-- The spans of V-space a copy may use: those its configuration holds, and those freed since it was issued, which it keeps (R283, R365). -/
def State.copySpans (s : State) (k : CopyCmd) : List (Nat × Nat) :=
  s.spans k.cid ++ (s.pkg.allocs.filter fun a => a.lid == k.lid && a.region == regionOf k.cid && a.cfg == k.cfg
    && (match a.freed with | some m => decide (k.id < m) | none => false)).map fun a => (vaultVa a.vault a.offset, a.bytes)

/-- The first page of some, in order, at which a side fails its rights or has to wait (R271 check 4, R336). -/
def Gen.firstBad (g : Gen) (user write : Bool) (a : Nat) : List Nat → Side
  | [] => .ok
  | i :: t =>
    let e := SMap.get g.table i { p := .np }
    if e.awaits then .wait
    else if e.p.verdict user write false ≠ 0 then .fail (e.p.verdict user write false) (max a (i * pageBytes g.page))
    else g.firstBad user write a t

/-- The pages of `n` bytes from an address. -/
def Gen.pageNos (g : Gen) (a n : Nat) : List Nat :=
  rangeFrom (a / pageBytes g.page) ((a + n - 1) / pageBytes g.page + 1 - a / pageBytes g.page)

/-- What `n` bytes of a side find at their patch entries. -/
def Gen.sidePages (g : Gen) (user write : Bool) (a n : Nat) : Side :=
  match g.firstBad user write a (g.pageNos a n) with
  | .ok =>
    (match (g.pageNos a n).find? fun i => (SMap.get g.table i { p := .np }).p.absent with
      | some i => .np (max a (i * pageBytes g.page))
      | none => .ok)
  | .fail c v => .fail c v
  | .np v => .np v
  | .wait => .wait

/-- The generator of a copy's side in G-space through a port that is not bound to V-space. -/
def State.sideGen (s : State) (c : Nat) (v : Bool) (port : Nat) : Option Gen :=
  if v then none else match s.genAt c port with | some g => if g.page = 3 then none else some g | none => none

/-- The check of `n` bytes of a copy's side from an address against port, extent and pages, or R259 and R260. -/
def State.sideCheck (s : State) (k : CopyCmd) (v : Bool) (port : Nat) (va : Int) (n : Nat) (write : Bool) : Side :=
  if va < 0 then .fail 0x20 (va % 2 ^ 64).toNat
  else
    let a := va.toNat
    let held := (s.copySpans k).any fun p => decide (p.1 ≤ a ∧ a + n ≤ p.1 + p.2)
    match s.genAt k.cid port, v with
    | _, true => if 2 ^ 34 ≤ a then .fail 0x20 a else if held then .ok else .fail 0x22 a
    | none, false => .fail 0x22 a
    | some g, false =>
      if g.page = 3 then
        (if 2 ^ 34 ≤ a then .fail 0x20 a else if decide (g.base ≤ a ∧ a + n ≤ g.base + g.extent) && held then .ok else .fail 0x22 a)
      else if !canonical a || !canonical (a + n - 1) then .fail 0x20 a
      else if !decide (g.base ≤ a ∧ a + n ≤ g.base + g.extent) then .fail 0x22 a
      else g.sidePages (decide (ctxOf k.cid < 4)) write a n

/-- What the two sides of a copy come to: a page that is not present counts only once neither side fails. -/
def Side.both (a b : Side) : Side :=
  match a, b with
  | .fail c v, _ => .fail c v
  | .wait, _ => .wait
  | _, .fail c v => .fail c v
  | _, .wait => .wait
  | .np v, _ => .np v
  | .ok, y => y

/-- The model's address and key slot of a copy's side at an address. -/
def State.sidePlace (s : State) (c : Nat) (v : Bool) (port va : Nat) : Nat × Nat :=
  match (if v then none else s.genAt c port) with
  | none => (s.vaultKey va, 0)
  | some g =>
    if g.page = 3 then (s.vaultKey va, 0)
    else match (g.entry va).p with
      | .frame b _ _ _ sp k => (physKey sp (b + va % pageBytes g.page), if sp then 0 else k)
      | .pg => (va, 0)
      | .np => (va, 0)

/-- The address of the destination of row w of a copy: in its tile, or as the descriptor gives it. -/
def CopyCmd.rowDst (k : CopyCmd) (w : Nat) : Int := ((cpDst k.d : Nat) : Int) + (w : Int) * cpDstride k.d
/-- The address of the source of a row. -/
def CopyCmd.rowSrc (k : CopyCmd) (w : Nat) : Int := ((cpSrc k.d : Nat) : Int) + (w : Int) * cpSstride k.d

/-- The check of row w of a copy at its head (R364): the source, then the destination. -/
def State.rowCheck (s : State) (r : Nat) (k : CopyCmd) (w : Nat) : Side :=
  let n := cpBytes k.d
  (s.sideCheck k (cpSv k.d) (cpSport k.d) (k.rowSrc w) n false).both
    (if cpDten k.d then
      (match s.tile r (cpTile k.d) with
        | some t => if 0 ≤ k.rowDst w ∧ k.rowDst w + n ≤ t.bytes then .ok else .fail 0x11 0
        | none => .fail 0x11 0)
    else s.sideCheck k (cpDv k.d) (cpDport k.d) (k.rowDst w) n true)

/-- The bytes of the present piece of a copy: at most 256, from which of its row's on (R364). -/
def CopyCmd.span (k : CopyCmd) : Nat × Nat := (256 * k.piece, min 256 (cpBytes k.d - 256 * k.piece))

/-- What the present piece finds at its patch entries: a row is checked whole at its first piece, and a piece waits for a repatch, or stops,
as any request of a generator does (R336, R337). -/
def State.pieceCheck (s : State) (k : CopyCmd) : Side :=
  let user := decide (ctxOf k.cid < 4)
  let side (g : Option Gen) (a : Int) (write : Bool) : Side :=
    match g with | some g => g.sidePages user write (a.toNat + k.span.1) k.span.2 | none => .ok
  (side (s.sideGen k.cid (cpSv k.d) (cpSport k.d)) (k.rowSrc k.row) false).both
    (side (s.sideGen k.cid (cpDv k.d) (cpDport k.d)) (k.rowDst k.row) true)

/-- The pages of a piece's side with something to do before use: an entry that ADREAD.CLRA left is repatched as it is fetched (R352), and D
is set for a side that writes (R335). -/
def Gen.sideDue (g : Gen) (a n : Nat) (write : Bool) : List Nat :=
  (g.pageNos a n).filter fun i => let e := SMap.get g.table i { p := .np }; e.lazy || (write && !e.dDone)

/-- The pages of the present piece that are due: port, page, and whether the side writes. -/
def State.pieceDue (s : State) (k : CopyCmd) : List (Nat × Nat × Bool) :=
  let side (v : Bool) (p : Nat) (a : Int) (write : Bool) : List (Nat × Nat × Bool) :=
    match s.sideGen k.cid v p with
    | some g => (g.sideDue (a.toNat + k.span.1) k.span.2 write).map fun i => (p, i, write)
    | none => []
  side (cpSv k.d) (cpSport k.d) (k.rowSrc k.row) false ++ side (cpDv k.d) (cpDport k.d) (k.rowDst k.row) true

/-- One page of a port made ready for a copy: its entry repatched, or D set in its leaf if that still matches the entry (R335, R352). -/
def State.touchPage (s : State) (c : Nat) (x : Nat × Nat × Bool) : State :=
  match s.genAt c x.1 with
  | none => s
  | some g =>
    let pb := pageBytes g.page
    let e := SMap.get g.table x.2.1 { p := .np }
    let set (s : State) (e : PatchEntry) : State :=
      s.updRes c fun r => { r with gens := SMap.upd r.gens x.1 g fun g => { g with table := SMap.set g.table x.2.1 e } }
    if e.lazy then let q := s.patchPage (s.asidOf c) pb x.2.1; set q.2 { p := q.1 }
    else if x.2.2 && !e.dDone then
      match patchOf (x.2.1 * pb) pb (s.walk (s.asidOf c) (x.2.1 * pb) 3) with
      | (p, some w) => if p = e.p then set (s.putEntry w.addr (setBitN w.word 60)) { e with dDone := true } else s
      | (_, none) => s
    else s

/-- Where the source and the destination of byte `o` of row w stand. -/
def State.rowPlaces (s : State) (r : Nat) (k : CopyCmd) (w o : Nat) : (Nat × Nat) × (Nat × Nat) :=
  let a := (k.rowSrc w).toNat + o
  let b := (k.rowDst w).toNat + o
  (s.sidePlace k.cid (cpSv k.d) (cpSport k.d) a,
   if cpDten k.d then (match s.tile r (cpTile k.d) with | some t => (s.vaultKey (vaultVa r (t.offset + b)), 0) | none => (0, 0))
   else s.sidePlace k.cid (cpDv k.d) (cpDport k.d) b)

/-- The poison an engine access meets at its node, or 0: MIGRATED, PTSTORE, PTFRAME, DEADROW, HBMUE, VAULTECC. A store of every byte of a
marked block clears its mark (R415). -/
def State.engineCode (s : State) (c a : Nat) (write whole : Bool) : Nat :=
  if s.isRetired a then 0x28
  else if s.isTable a ∧ write then 0x26
  else if s.isTable a ∧ ctxOf c < 4 then 0x27
  else if !s.granLive a ∧ !write then 0x29
  else if s.isMarked a ∧ !(write && whole) then 0x2C
  else if !write && s.vaultBad a then 0x2A
  else 0

/-- A block that a store writes whole is marked no longer (R415). -/
def State.unmark (s : State) (a : Nat) (whole : Bool) : State :=
  if whole && s.isMarked a then s.updPkg fun p => { p with marked := p.marked.filter (· ≠ a / 64) } else s

/-- The words of a piece of a row: `n` words from byte o. -/
def pieceWords (o n : Nat) : List Nat := (List.range n).map fun i => o + 4 * i

/-- The queue's head command changed. -/
def State.updCopy (s : State) (r q : Nat) (f : CopyCmd → CopyCmd) : State :=
  s.updRegion r fun g => { g with copyQ := SMap.upd g.copyQ q {} fun z => { z with cmds := match z.cmds with | k :: t => f k :: t | [] => [] } }

/-- A copy ends in poison, with its report (R364, R271). -/
def State.copyFail (s : State) (r q : Nat) (k : CopyCmd) (code addr : Nat) : State :=
  ((s.accPoison k.cid code k.fcount addr k.key).2).updCopy r q fun k =>
    { k with result := some (BitVec.ofNat 8 code), finished := true, arrives := s.cycle + 1 }

/-- Nothing of the launch with a lower extended key is still to come: at another issue point, among its requests, or among the engine commands
of its own context (R301). -/
def State.engineTurn (s : State) (c : Nat) (key : Dword) (reqs : Nat) : Bool :=
  let e := extKey key (s.source c).toNat reqs
  !s.keyed c || (decide (e < s.launchMark (s.lidOf c) (c, 5))
    && !(s.reqs.any fun q => q.lid == s.lidOf c && q.keyed && decide (q.ext < e) && !q.over)
    && !(s.engineHolds c).any fun x => decide (x < e))

/-- The places of the words of a copy's present piece as its descriptor names them, each source with its destination. -/
def State.pieceNames (s : State) (r : Nat) (k : CopyCmd) : List ((Nat × Nat) × (Nat × Nat)) :=
  (pieceWords k.span.1 (k.span.2 / 4)).map (s.rowPlaces r k k.row)
/-- Where they go: what a frozen frame refused is issued again against the new one (R340, R341). -/
def State.piecePlaces (s : State) (r : Nat) (k : CopyCmd) : List ((Nat × Nat) × (Nat × Nat)) :=
  (s.pieceNames r k).map fun p => (s.redirect p.1, s.redirect p.2)

/-- A piece writes every byte of the block of an address. -/
def wholeIn (pl : List ((Nat × Nat) × (Nat × Nat))) (a : Nat) : Bool :=
  decide (16 ≤ (pl.filter fun p => p.2.1 / 64 = a / 64).length)

/-- The first poison a piece meets at its nodes, with its address: of its reads, or of its writes (R271). -/
def State.pieceCode (s : State) (c : Nat) (pl : List ((Nat × Nat) × (Nat × Nat))) : Option (Nat × Nat) :=
  pl.findSome? fun p =>
    let x := s.engineCode c p.1.1 false false
    let y := s.engineCode c p.2.1 true (wholeIn pl p.2.1)
    if x ≠ 0 then some (x, p.1.1) else if y ≠ 0 then some (y, p.2.1) else none

/-- The queue of a copy rests on its next piece, or on the last one's end. -/
def CopyCmd.step (k : CopyCmd) (now at_ : Nat) (piece row : Nat) : CopyCmd :=
  let last := decide (cpRows k.d ≤ row)
  { k with piece, row, since := now + 1, finished := last, arrives := if last then at_ else k.arrives }

/-- The vault bytes a piece moves, with those of its source first. -/
def pieceBytes (pl : List ((Nat × Nat) × (Nat × Nat))) : List Nat := (pl.map fun p => p.1.1) ++ pl.map fun p => p.2.1

/-- The block of a piece whose read finds an uncorrectable error: one of its source, or one it writes only in part (R415). -/
def State.pieceErr (s : State) (pl : List ((Nat × Nat) × (Nat × Nat))) : Option Nat :=
  if s.hbmErrs.isEmpty then none
  else ((pl.map fun p => p.1.1) ++ (pl.map fun p => p.2.1).filter (!wholeIn pl ·)).find? s.latentErr

/-- One piece of at most 256 bytes of a row: its words are read, then written (R364). -/
def State.copyPiece (s : State) (r q : Nat) (k : CopyCmd) : State :=
  let pl := s.piecePlaces r k
  let s := s.takeBanks (pieceBytes pl)
  match s.pieceErr pl with
  | some a => s.findFor k.cid k.fcount a k.key
  | none =>
  match s.pieceCode k.cid pl with
  | some bad => (if bad.1 = 0x2A then s.vaultMet bad.2 else s).copyFail r q k bad.1 (bad.2 % 2 ^ 52)
  | none =>
    let vals := pl.map fun p => s.view p.1.2 p.1.1 4
    let s1 := (pl.zip vals).foldl (fun s x =>
      ((s.revive x.1.2.2 x.1.2.1).unmark x.1.2.1 (wholeIn pl x.1.2.1)).put x.1.2.2 x.1.2.1 x.2) s
    let more := decide (k.span.1 + k.span.2 < cpBytes k.d)
    let lat := match pl with | p :: _ => s.latency r p.1.1 + s.latency r p.2.1 | [] => 1
    (s1.updRegion r fun g => { g with progress := true }).updCopy r q fun k =>
      k.step s.cycle (s.cycle + lat) (if more then k.piece + 1 else 0) (if more then k.row else k.row + 1)

/-- The destination of a copy is in V-space by its address: DV, or a port bound to V-space (R66). -/
def State.intoV (s : State) (k : CopyCmd) : Bool :=
  !cpDten k.d && (cpDv k.d || (match s.genAt k.cid (cpDport k.d) with | some g => g.page == 3 | none => false))
/-- The source of a copy is in V-space by its address. -/
def State.outOfV (s : State) (k : CopyCmd) : Bool :=
  cpSv k.d || (match s.genAt k.cid (cpSport k.d) with | some g => g.page == 3 | none => false)

/-- A copy's row lies in an allocation retired since the copy was issued (R401). -/
def State.rowRetired (s : State) (k : CopyCmd) (w : Nat) : Bool :=
  s.intoV k && s.pkg.allocs.any fun a => a.retired && (match a.freed with | some m => decide (k.id < m) | none => false)
    && a.lid == k.lid && a.cfg == k.cfg && a.region == regionOf k.cid
    && decide (0 ≤ k.rowDst w) && meets (k.rowDst w).toNat (cpBytes k.d) (vaultVa a.vault a.offset) a.bytes

/-- A normal request of the package waits on the channel of one of a bulk copy's bytes; after 4,096 cycles the copy waits no more
(R269). -/
def State.copyYields (s : State) (k : CopyCmd) (pl : List ((Nat × Nat) × (Nat × Nat))) : Bool :=
  k.bulk && decide (s.cycle < k.since + 4096) && ([pl.map fun p => p.1.1, pl.map fun p => p.2.1].flatten).any fun a =>
    isHbm a && s.waitsOn (chanOf a) fun q _ => q.cls == 0

/-- What the copy at the head of a queue does next. -/
inductive CopyNext where
  /-- Nothing yet. -/
  | hold
  /-- The rest of its row stays unwritten (R401). -/
  | skip
  | fail (code addr : Nat)
  /-- Its queue stops on a page. -/
  | stop (va : Nat)
  /-- Patch entries of its piece are made ready. -/
  | touch
  /-- Its piece is moved. -/
  | move
  deriving DecidableEq, Repr

/-- What the copy at the head of queue q is to do next (R359, R360, R364). -/
def State.copyWants (s : State) (r : Nat) (z : CopyQ) (k : CopyCmd) : CopyNext :=
  if k.finished || (z.qstop && k.piece == 0) || decide (s.cycle ≤ k.arrives) || !s.engineTurn k.cid k.key k.reqs
      || (cpDten k.d && s.tileWaits r (cpTile k.d) (.copy k.id)) then .hold
  else if k.cut && s.rowRetired k k.row then .skip
  else match (if k.piece = 0 then s.rowCheck r k k.row else .ok).both (s.pieceCheck k) with
    | .fail c v => .fail c v
    | .wait => .hold
    | .np v => .stop v
    | .ok => if !(s.pieceDue k).isEmpty then .touch else .move

/-- What it does now: a piece waits for a migration, for its package, for its channels and for its banks (R257, R269, R340, R448). -/
def State.copyDoes (s : State) (r : Nat) (z : CopyQ) (k : CopyCmd) : CopyNext :=
  match s.copyWants r z k with
  | .move =>
    let pl := s.piecePlaces r k
    if ((pieceBytes pl).any fun a => s.isFrozen a || !s.linked a) || s.copyYields k pl || !s.banksFree k.cid (pieceBytes pl) then .hold
    else .move
  | .hold => .hold
  | .skip => .skip
  | .fail c a => .fail c a
  | .stop va => .stop va
  | .touch => .touch

/-- A copy queue stands still: it holds a stop code, or QSTOP stops it and it is before a row (R360, R425). -/
def CopyQ.stopped (z : CopyQ) : Bool :=
  z.stop.isSome || (z.qstop && match z.cmds with | [] => true | k :: _ => k.piece == 0)

/-- The stopping point of copy queue n of a region (R425). -/
def State.copyPoint (s : State) (r n : Nat) : Dword :=
  let z := SMap.get (s.region r).copyQ n {}
  let st := if z.stopped then 3 else match z.cmds with
    | [] => 0
    | k :: _ => if cpDten k.d && s.tileWaits r (cpTile k.d) (.copy k.id) then 2 else 1
  BitVec.ofNat 64 (z.cmds.length + st * 2 ^ 6 + (if z.stopped then z.stop.getD 0x86 else 0) * 2 ^ 8
    + (match z.cmds with | [] => 0 | k :: _ => k.row % 2 ^ 32 * 2 ^ 16) + z.done % 65536 * 2 ^ 48)

/-- A copy queue stops on a page that is not present, or goes on. -/
def State.setCopyStop (s : State) (r q : Nat) (va : Option Nat) : State :=
  s.updRegion r fun g => { g with copyQ := SMap.upd g.copyQ q {} fun z => { z with reported := va, stop := va.map fun _ => 0x25 } }

/-- COPY_RUN (R364): the copy at the head of its queue checks its row and moves a piece of it; a page that is not present stops the queue
(R337, R360). -/
def execCopyRun (r q : Nat) (s : State) : Out :=
  let z := SMap.get (s.region r).copyQ q {}
  match z.cmds with
  | [] => .next s
  | k :: _ =>
    let go := if z.reported.isSome then s.setCopyStop r q none else s
    match s.copyDoes r z k with
    | .hold => .next s
    | .skip => .next (s.updCopy r q fun k => k.step s.cycle s.cycle 0 (k.row + 1))
    | .fail c v => .next (go.copyFail r q k c v)
    | .stop v =>
      if z.reported = some v then .next s
      else
        let s1 := s.setCopyStop r q (some v)
        .next (s1.report k.cid 0x25 2 (0x10 + 12 + q) k.fcount (some v) k.key (s1.copyPoint r q).toNat)
    | .touch => .next ((s.pieceDue k).foldl (fun s x => s.touchPage k.cid x) s)
    | .move => .next (go.copyPiece r q k)

/-- COPY_COMPLETION (R364): every write has performed; the tile is ready, OWED falls, and D receives its token or the poison. -/
def execCopyCompletion (r q : Nat) (s : State) : Out :=
  let z := SMap.get (s.region r).copyQ q {}
  match z.cmds with
  | [] => .next s
  | k :: rest =>
    if !k.finished ∨ s.cycle < k.arrives then .next s
    else
      let s1 := s.updRegion r fun g => { g with copyQ := SMap.set g.copyQ q { z with cmds := rest, done := z.done + 1 } }
      let s2 := if cpDten k.d then s1.tileFilled r (cpTile k.d) else s1
      let s3 := match k.tb with | some b => s2.updTb r b fun t => t.copyDone k.result.isSome | none => s2
      let s4 := if k.dropTok then (match k.pend with | some n => s3.dropPend k.cid n | none => s3)
        else match k.result with
        | some c => s3.deliverBad k.cid k.pend k.out 2 (s3.poison k.cid (BitVec.ofNat 48 k.fcount) c.toNat)
        | none => s3.deliverWord k.cid k.pend k.out 2 true 1
      .next s4

/-! ### DTOKEN (R366) -/

/-- The inputs DTOKEN names, in order, each once. -/
def dtokenIns (a b : Src) : List Nat :=
  ((match srcIn a with | some k => [k] | none => []) ++ (match srcIn b with | some k => [k] | none => [])).eraseDups

/-- DTOKEN's plan (R358, R366). -/
def State.planDtoken (s : State) (d : Dst) (a b : Src) : Option Plan :=
  let k := outNo d
  let ins := dtokenIns a b
  if ins.any fun i => (s.headOpt i).isNone then none
  else if ins.any fun i => (s.head i).kind = kEOS ∨ (s.head i).kind = kDRAIN then
    match ins with
    | [i] => some (alone s.slotNow (s.head i) i [k])
    | [i, j] => (pairRule (s.head i) (s.head j)).map fun r => r.plan s.slotNow i j [k]
    | [] => none
    | _ :: _ :: _ :: _ => none
  else
    some { takes := ins, slot := s.slotNow,
           emits := [(k, match s.depVerdict ins with | some t => t | none => .tok (depTok (s.my.otag k)))] }

/-- DTOKEN (R366). -/
def execDtoken (d : Dst) (a b : Src) (_m : BitVec 1) (s : State) : Out := s.runPlan 1 (s.planDtoken d a b)

/-! ### TBARR, TBWAIT, TBANY (R368 to R370) -/

/-- A count outside the 32-bit range. -/
def owedBad (n : Int) : Bool := decide (n < -(2 ^ 31) ∨ 2 ^ 31 - 1 < n)

/-- The barrier after an operation of TBARR, none for TBSTATE (R368): 0 INIT, 1 SEAL, 2 OWE. -/
def TBar.op (t : TBar) (k lid n : Nat) : Option TBar :=
  if k = 0 then
    (if (t.nseal ≠ 0 ∧ (t.seals ≠ t.nseal ∨ t.owed ≠ 0)) ∨ n % 65536 = 0 then none
     else some { t with nseal := n % 65536, seals := n % 65536, owed := 0, owner := match t.owner with | some o => some o | none => some lid })
  else if k = 1 then
    (if t.nseal = 0 ∨ t.seals = 0 ∨ owedBad (t.owed + (n % 2 ^ 32 : Nat)) then none
     else some { t with owed := t.owed + (n % 2 ^ 32 : Nat), seals := t.seals - 1 })
  else if t.nseal = 0 ∨ owedBad (t.owed + (n % 2 ^ 32 : Nat)) then none
  else some { t with owed := t.owed + (n % 2 ^ 32 : Nat) }

/-- TBARR (R368): xD receives GEN of the open generation from a SEAL. -/
def execTbarr (d : Dst) (a : Src) (b : BitVec 6) (k : BitVec 2) (s : State) : Out :=
  let c := s.cur.cid
  let r := regionOf c
  match s.poisoned [a] with
  | some p => s.poisonTo d 1 p
  | none =>
    if s.tbForeign r b.toNat (s.lidOf c) then s.trap 0x0C
    else match (s.tb r b.toNat).op k.toNat (s.lidOf c) (s.srcSca a).toNat with
      | none => s.trap 0x0D
      | some t =>
        (s.updTb r b.toNat fun _ => t).finish 1 (if k = 1 then s.write d (.sca (BitVec.ofNat 64 (s.tb r b.toNat).gen)) 0 else [])

/-- Generation g of a barrier has closed (R369). -/
def TBar.closed (t : TBar) (g : Nat) : Bool :=
  let n := (t.gen + 2 ^ 32 - g % 2 ^ 32) % 2 ^ 32
  decide (1 ≤ n ∧ n ≤ 2 ^ 31 - 1)

/-- TBWAIT (R369). -/
def execTbwait (d : Dst) (a : Src) (b : BitVec 6) (s : State) : Out :=
  let c := s.cur.cid
  let t := s.tb (regionOf c) b.toNat
  match s.poisoned [a] with
  | some p => s.poisonTo d 1 p
  | none =>
    if s.tbForeign (regionOf c) b.toNat (s.lidOf c) then s.trap 0x0C
    else if t.poisGens.contains ((s.srcSca a).toNat % 2 ^ 32) then (s.countPoison c (s.myPoison 0x45)).done
    else s.finish 1 (s.write d (.sca (BitVec.ofNat 64 t.gen)) 0)

/-- Barrier b is ready for TBANY (R370). -/
def State.tbReady (s : State) (c : Nat) (m : Dword) (b : Nat) : Bool :=
  m.getLsbD b && (s.tb (regionOf c) b).gen != (SMap.get (s.ctx c).regs.seen b 0).toNat

/-- The first ready barrier in the order of the rotation. -/
def State.tbFirst (s : State) (c : Nat) (m : Dword) : Option Nat :=
  ((List.range 64).map fun i => ((s.ctx c).regs.rp + i) % 64).find? (s.tbReady c m)

/-- TBANY (R370). -/
def execTbany (d : Dst) (a : Src) (s : State) : Out :=
  let c := s.cur.cid
  let m := s.srcSca a
  if (List.range 64).any fun b => m.getLsbD b && s.tbForeign (regionOf c) b (s.lidOf c) then s.trap 0x0C
  else match s.tbFirst c m with
    | none => .next s
    | some b =>
      let t := s.tb (regionOf c) b
      let s1 := s.updCtx c fun k => k.updRegs fun g => { g with seen := SMap.set g.seen b (BitVec.ofNat 32 t.gen), rp := (b + 1) % 64 }
      let s2 := if t.poisGens.contains ((t.gen + 2 ^ 32 - 1) % 2 ^ 32) then s1.countPoison c (s.myPoison 0x45) else s1
      s2.finish 1 (s.write d (.sca (BitVec.ofNat 64 (b * 2 ^ 32 + t.gen))) 0)

/-- GENERATION_CLOSE (R367). -/
def execGenerationClose (r b : Nat) (s : State) : Out :=
  let t := s.tb r b
  if t.nseal = 0 ∨ t.seals ≠ 0 ∨ t.owed ≠ 0 then .next s
  else
    let s1 := s.updRegion r fun g => { g with progress := true }
    .next (s1.updTb r b fun t => { t with gen := (t.gen + 1) % 2 ^ 32, seals := t.nseal, pois := false,
                                          poisGens := if t.pois then t.gen :: t.poisGens else t.poisGens.filter (· ≠ t.gen) })

/-! ### Named and global barriers (R371 to R373) -/

/-- The barriers by number: region × 32 + i named, 8,192 + i package, 8,200 + i pod. -/
def State.barrier (s : State) (b : Nat) : Barrier :=
  if b < 8192 then SMap.get (s.region (b / 32)).nbar (b % 32) {} else SMap.get s.pkg.gbar (b - 8192) {}
/-- A barrier changed. -/
def State.updBarrier (s : State) (b : Nat) (f : Barrier → Barrier) : State :=
  if b < 8192 then s.updRegion (b / 32) fun g => { g with nbar := SMap.upd g.nbar (b % 32) {} f }
  else s.updPkg fun p => { p with gbar := SMap.upd p.gbar (b - 8192) {} f }
/-- The limit of a barrier's count. -/
def barLimit (b : Nat) : Nat := if b < 8192 then 384 else if b < 8200 then 98304 else 2 ^ 31
/-- The cycles from the last arrival to departure (R371); those of global barriers are its bounds. -/
def barDepart (b : Nat) : Nat := if b < 8192 then 4 else if b < 8200 then 900 else 5250

/-- The open instance completes: its departures are due `n` cycles on. -/
def Barrier.complete (t : Barrier) (now n : Nat) : Barrier :=
  { t with inst := (t.inst + 1) % 2 ^ 32, count := 0, arrived := 0, bad := false, syncs := [],
           leaving := t.leaving ++ [(now + n, t.inst, t.bad, t.syncs)] }

/-- An arrival with a count (R371): the first sets the count of the instance. -/
def Barrier.arrive (t : Barrier) (lid cnt limit now n : Nat) (a : Option Arrival) : Barrier :=
  let t1 := { t with owner := some lid, syncs := t.syncs ++ (match a with | some x => [x] | none => []) }
  if t.arrived = 0 then
    let t2 := { t1 with count := cnt, arrived := 1, bad := decide (cnt = 0 ∨ limit < cnt) }
    if cnt = 0 ∨ limit < cnt ∨ cnt = 1 then t2.complete now n else t2
  else
    let t2 := { t1 with arrived := t.arrived + 1, bad := t.bad || cnt != t.count }
    if t2.arrived = t.count then t2.complete now n else t2

/-- An arrival by the firing in hand; .SYNC departs later on D (R372). A pod barrier's arrival also goes to the other packages of the launch. -/
def State.arrive (s : State) (b : Nat) (d : Dst) (a : Src) (sync : Bool) : Out :=
  let c := s.cur.cid
  match s.poisoned [a] with
  | some p => s.poisonTo d 1 p
  | none =>
    if (match (s.barrier b).owner with | some o => o != s.lidOf c | none => false) then s.trap 0x0E
    else
      let o := if sync then s.owe d else (none, s)
      let lid := s.lidOf c
      let cnt := (s.srcSca a).toNat % 2 ^ 32
      let arr : Option Arrival := if sync then some { cid := c, pend := o.1, out := s.outTag d, fcount := s.firing } else none
      let s1 := o.2.updBarrier b fun t => t.arrive lid cnt (barLimit b) s.cycle (barDepart b) arr
      let others := (match SMap.find s.pkg.sched.launches lid with | some l => l.pkgs.filter (· ≠ s.pkg.pkgId) | none => [])
      let s2 := if 8200 ≤ b then others.foldl (fun s q => s.forward q (.arrive (b - 8200) cnt lid)) s1 else s1
      s2.done

/-- NBAR: K 0 .SYNC, 1 .ARRIVE (R372). -/
def execNbar (d : Dst) (a : Src) (i : BitVec 5) (k : BitVec 3) (s : State) : Out :=
  s.arrive (regionOf s.cur.cid * 32 + i.toNat) d a (k == 0)
/-- GBAR: O 1 for the pod's barriers (R372). -/
def execGbar (d : Dst) (a : Src) (i : BitVec 3) (o k : BitVec 1) (s : State) : Out :=
  s.arrive ((if o = 1 then 8200 else 8192) + i.toNat) d a (k == 0)

/-- Departures of one instance: the instance number or a dependence token, nothing for D = 28, or BARCOUNT of the arrival's firing (R372). -/
def State.depart (s : State) (inst : Nat) (bad : Bool) : List Arrival → State
  | [] => s
  | a :: t =>
    let s1 := if bad then s.deliverBad a.cid a.pend a.out 1 (s.poison a.cid a.fcount 0x46)
      else match a.out, a.pend with
        | some _, p => s.deliverWord a.cid p a.out 1 true 1
        | none, some n => s.deliverWord a.cid (some n) none 1 false (BitVec.ofNat 64 inst)
        | none, none => s
    s1.depart inst bad t

/-- BARRIER_INSTANCE_COMPLETE (R371, R372): the instance whose departures are due leaves. -/
def execBarrierInstanceComplete (b : Nat) (s : State) : Out :=
  match (s.barrier b).leaving with
  | [] => .next s
  | (due, inst, bad, l) :: rest =>
    if s.cycle < due then .next s
    else .next ((s.updBarrier b fun t => { t with leaving := rest }).depart inst bad l)

/-! ### Time (R374 to R377) -/

/-- TIMER.STAT's word (R376). -/
def Time.stat (t : Time) : Dword :=
  let st := match t.disc with | .free => 0 | .acquiring => 1 | .locked => 2 | .holdover => 3
  BitVec.ofNat 64 (st * 2 ^ 62 + t.locks % 65536 * 2 ^ 32 + (BitVec.ofInt 32 (clampI (-(2 ^ 31)) (2 ^ 31 - 1) t.off)).toNat)

/-- This package is the pod's time master. -/
def State.isMaster (s : State) : Bool := s.pkg.time.tmaster == some s.pkg.pkgId

/-- The discipline's status; OFFSET always reads 0 on the time master (R376). -/
def State.timeStat (s : State) : Dword := (if s.isMaster then { s.pkg.time with off := 0 } else s.pkg.time).stat

/-- TIMER (R376). -/
def execTimer (d : Dst) (k : BitVec 1) (s : State) : Out :=
  s.finish 1 (s.write d (.sca (if k = 1 then s.timeStat else s.now)) 0)

/-- TIMEW (R377): the context waits until the sampled counter reaches its target. -/
def execTimew (d : Dst) (a : Src) (r : BitVec 1) (s : State) : Out :=
  match s.poisoned [a] with
  | some p => s.poisonTo d 1 p
  | none =>
    let t := if r = 1 then s.now + s.srcSca a else s.srcSca a
    if s.now.toNat + 2 ^ 36 < t.toNat then s.trap 0x08
    else
      let o := s.owe d
      (o.2.updCtx s.cur.cid fun k => k.updCtl fun g => { g with wait := .timew t o.1 }).done

/-- TIMEW_WAKE (R377): the sampled counter has reached the target. -/
def execTimewWake (c : Nat) (s : State) : Out :=
  match (s.ctx c).ctl.wait with
  | .timew t p =>
    if s.now.toNat < t.toNat then .next s
    else .next ((s.updCtx c fun k => k.updCtl fun g => { g with wait := .none }).deliverWord c p none 1 false (s.now - t))
  | .none => .next s
  | .idle _ => .next s
  | .resumed _ => .next s
  | .held _ _ => .next s

/-! ### RAND (R378, R379) -/

/-- SEED, CLO and CCOUNT of a context's launch; 0 for a system configuration (R378). -/
def State.randArgs (s : State) (c : Nat) : Dword × Nat × Nat :=
  match SMap.find s.pkg.sched.launches (s.lidOf c) with
  | some l => (l.pkt.seed, l.pkt.clo, l.pkt.ccount)
  | none => (0, 0, 0)

/-- The four words of draw j from counter n: r[4j + k] is Y[32k+31:32k]. -/
def randWords (seed stream : Dword) (n : Nat) : List Word :=
  let y := sm4 (BitVec.ofNat 128 (seed.toNat * 2 ^ 64 + stream.toNat)) (BitVec.ofNat 128 n)
  (List.range 4).map fun k => BitVec.ofNat 32 (y.toNat / 2 ^ (32 * k))

/-- Draws a destination takes: one for a scalar register or none, 48 for a vector (R378). -/
def draws (d : Dst) : Nat := match d with | .x _ => 1 | .null => 1 | .v _ => 48 | .out _ => 48

/-- RAND (R378): every firing occupies the SM4 unit (R379). -/
def execRand (d : Dst) (a b : Src) (s0 : State) : Out :=
  let s := s0.updElem (eidOf s0.cur.cid) fun e => { e with sm4Busy := some (s0.cycle + 4) }
  match s.poisoned [a, b] with
  | some p => s.poisonTo d 34 p
  | none =>
    let g := s.randArgs s.cur.cid
    let o := (s.srcSca b).toNat
    if g.2.2 < o + draws d then s.poisonTo d 34 (s.poisonNew d 0x48)
    else
      let r := (List.range (draws d)).flatMap fun j => randWords g.1 (s.srcSca a) (g.2.1 + o + j)
      s.finish 34 (s.write d (if isScalar d then .sca (BitVec.ofNat 64 ((r.getD 1 0).toNat * 2 ^ 32 + (r.getD 0 0).toNat))
        else .vec (Vec.ofList r)) s.my.regs.mask)

end Sys2Proof.Machine
end

