-- ==== Sys2Proof/Machine/Control.lean ====
section
/-! DEFINITION. Element control instructions (R97 to R113). -/

namespace Sys2Proof.Machine

/-- NOP: no effect of its own (R97). -/
def execNop (s : State) : Out := s.done

/-- IDLE: not a candidate in cycles c + 1 to c + n (R100). -/
def execIdle (i : BitVec 13) (s : State) : Out :=
  .next ((if i = 0 then s else s.updCtx s.cur.cid fun k => k.updCtl fun t => { t with wait := .idle (s.cycle + i.toNat + 1) }).retire)

/-- HALT: halted at the end of the firing cycle (R101). -/
def execHalt (s : State) : Out := .next (s.retire.updCtx s.cur.cid fun k => k.updCtl fun t => { t with halted := true })

/-- The result of a predicate instruction: written at the end of the cycle, after the rule's updates (R80, R102). -/
def State.setPred (s : State) (k : BitVec 2) (d : BitVec 5) (r : Bool) (inv : BitVec 1) : Out :=
  s.finish 1 [.pred (32 * k.toNat + d.toNat) (r != (inv == 1))]

/-- PSET (R102). -/
def execPset (k : BitVec 2) (d : BitVec 5) (v : BitVec 1) (s : State) : Out := s.setPred k d false v

/-- PLOG (R102). -/
def execPlog (k : BitVec 2) (d a b : BitVec 5) (v : BitVec 1) (s : State) : Out :=
  s.setPred k d (s.my.p (32 * k.toNat + a.toNat) != s.my.p (32 * k.toNat + b.toNat)) v

/-- The predicates PS1 to PS2 of a bank (R33). -/
def predRange (k : BitVec 2) (a b : BitVec 5) : List Nat := rangeFrom (32 * k.toNat + a.toNat) (b.toNat + 1 - a.toNat)

/-- PANY (R102). -/
def execPany (k : BitVec 2) (d a b : BitVec 5) (v : BitVec 1) (s : State) : Out :=
  s.setPred k d ((predRange k a b).any s.my.p) v

/-- PALL (R102). -/
def execPall (k : BitVec 2) (d a b : BitVec 5) (v : BitVec 1) (s : State) : Out :=
  s.setPred k d ((predRange k a b).all s.my.p) v

/-- MOV (R103). -/
def execMov (d : Dst) (a : Src) (m : BitVec 3) (s : State) : Out :=
  match s.poisoned [a] with
  | some p => s.poisonTo d 1 p
  | none => s.finish 1 (s.write d (s.srcVal d a) (s.maskFor (m == 1)))

/-- MOVI: sign-extended to 32 bits in every lane, or to 64 bits for an x destination (R104). -/
def execMovi (d : Dst) (i : BitVec 13) (s : State) : Out :=
  s.finish 1 (s.write d (if isScalar d then .sca (i.signExtend 64) else .vec (Vec.splat (i.signExtend 32))) s.my.regs.mask)

/-- LIT (R105). -/
def execLit (d : Dst) (zx : BitVec 1) (hi : BitVec 8) (lo : BitVec 24) (s : State) : Out :=
  let v : Word := BitVec.ofNat 32 (hi.toNat * 2 ^ 24 + lo.toNat)
  s.finish 1 (s.write d (if isScalar d then .sca (if zx = 1 then v.setWidth 64 else v.signExtend 64) else .vec (Vec.splat v))
    s.my.regs.mask)

/-- SEL: every lane written (R106). -/
def execSel (d : Dst) (a b : Src) (m : BitVec 3) (s : State) : Out :=
  match s.poisoned [a, b] with
  | some p => s.poisonTo d 1 p
  | none =>
    let va := (s.srcVal d a).lanes
    let vb := (s.srcVal d b).lanes
    s.finish 1 (s.write d (.vec (Vec.gen fun i => if s.my.regs.mask.getLsbD i != (m == 1) then va.get i else vb.get i)) Mask.full)

/-- The input a source names, as a list. -/
def inputOf (a : Src) : List Nat := match a with | .inp k => [k.toNat] | .v _ => [] | .x _ => [] | .lane => [] | .zero => [] | .lit _ => []

/-- DEQ: one token removed, whether or not the rule names the input too (R107). -/
def execDeq (a : Src) (s : State) : Out := s.done (inputOf a)

/-- EMIT (R108). -/
def execEmit (d : Dst) (a : Src) (g c : BitVec 4) (s : State) : Out :=
  match d with
  | .out k =>
    match s.poisoned [a] with
    | some p => s.poisonTo d 1 p
    | none =>
      let kind := c.toNat % 4
      let sc := decide (4 ≤ c.toNat % 8)
      let tag := if 8 ≤ c.toNat then g else s.my.otag k.toNat
      let put (t : Token) : Out := s.finish 1 [.emit k.toNat (s.stamp s.cur.cid t)]
      if kind = 0 then
        if sc then put (scaTok tag (s.srcSca a))
        else if s.my.regs.mask = 0 then s.done
        else put (vecTok tag s.my.regs.mask (s.srcVal d a).lanes)
      else if kind = 1 then put (markTok g.toNat sc (if sc then s.srcSca a else 0))
      else put (eosTok tag)
  | .v _ => s.done
  | .x _ => s.done
  | .null => s.done

/-- TAGSET (R109). -/
def execTagset (d : Dst) (a : Src) (g c : BitVec 4) (s : State) : Out :=
  match d with
  | .out k =>
    let t := if c = 0 then g else if c = 1 then (match a with
        | .inp j => (s.head j.toNat).tag | .v _ => 0 | .x _ => 0 | .lane => 0 | .zero => 0 | .lit _ => 0)
      else s.my.otag k.toNat + 1
    match (if c = 1 then s.poisoned [a] else none) with
    | some p => s.poisonTo d 1 p
    | none => s.finish 1 [.otag k.toNat t]
  | .v _ => s.done
  | .x _ => s.done
  | .null => s.done

/-- The word HDREAD gives for a selector (R110). -/
def Token.field (t : Token) (c : Nat) : Dword :=
  if c = 0 then BitVec.ofNat 64 (t.kind.toNat + t.tag.toNat * 8 + t.ctx.toNat * 128 + bit01 t.sys * 512 + bit01 t.sc * 1024
      + Mask.count t.mask * 2048)
  else if c = 1 then (if t.kind = kPOISON then BitVec.ofNat 64 (t.psrc.toNat + t.pcode.toNat * 2 ^ 29) else 0)
  else if c = 2 then (if t.kind = kPOISON then t.pcount.setWidth 64 else 0)
  else if c = 3 then BitVec.ofNat 64 (fld t.mask 63 0)
  else if c = 4 then BitVec.ofNat 64 (fld t.mask 127 64)
  else if c = 5 then BitVec.ofNat 64 (fld t.mask 191 128)
  else if t.sc then t.scalar
  else if t.kind = kDATA then t.sca else 0

/-- HDREAD: the only instruction of its chapter that reads a POISON head without propagating it (R110). -/
def execHdread (d : Dst) (a : Src) (c : BitVec 4) (s : State) : Out :=
  match a with
  | .inp j => s.finish 1 (s.write d (.sca ((s.head j.toNat).field c.toNat)) 0)
  | .v _ => s.done
  | .x _ => s.done
  | .lane => s.done
  | .zero => s.done
  | .lit _ => s.done

/-- FCOUNT: the counter before this firing (R111). -/
def execFcount (d : Dst) (s : State) : Out := s.finish 1 (s.write d (.sca (s.my.regs.fcount.setWidth 64)) 0)

/-- The new mask of MASKSET (R112). -/
def State.newMask (s : State) (a : Src) (m : BitVec 3) : Mask :=
  let v := s.srcVec a
  let old := s.my.regs.mask
  if m = 0 then Mask.gen fun i => v.get i != 0
  else if m = 1 then Mask.gen fun i => old.getLsbD i && v.get i != 0
  else if m = 2 then Mask.gen fun i => old.getLsbD i || v.get i != 0
  else if m = 3 then Mask.first (s.srcSca a).toNat
  else match a with
    | .inp k => if (s.head k.toNat).kind = kDATA ∧ (s.head k.toNat).sc = false then (s.head k.toNat).mask else 0
    | .v _ => 0 | .x _ => 0 | .lane => 0 | .zero => 0 | .lit _ => 0

/-- MASKSET: a POISON head leaves the mask unchanged and is counted (R112). -/
def execMaskset (a : Src) (m : BitVec 3) (s : State) : Out :=
  match s.poisoned [a] with
  | some p => (s.countPoison s.cur.cid p).done
  | none => s.finish 1 [.mask (s.newMask a m)]

/-- BRK: retires in full, then trap state (R113). -/
def execBrk (i : BitVec 8) (s : State) : Out := .next (s.takeBreak i.toNat)

end Sys2Proof.Machine
end

