-- ==== Sys2Proof/Machine/FStrip.lean ====
section
/-! DEFINITION. Floating-point and conversion instructions of the F-strips (R153 to R181). None touches memory and none traps; lanes
whose mask bit is clear are not computed and raise no flag (R155). -/

namespace Sys2Proof.Machine

/-- A lane-wise float instruction: lane i's result and flags from f, for the lanes under the mask (R155). -/
def State.fLanes (s : State) (lat : Nat) (d : Dst) (srcs : List Src) (f : Nat → Fr) : Out :=
  let rs := (List.range 192).map fun i => if s.my.regs.mask.getLsbD i then f i else (0, {})
  s.laneOp lat d srcs ⟨rs.map Prod.fst⟩ (Fl.all (rs.map Prod.snd)).bits

/-- A lane-wise float instruction of one source. -/
def State.f1 (s : State) (lat : Nat) (d : Dst) (a : Src) (f : Word → Fr) : Out :=
  let va := s.srcVec a
  s.fLanes lat d [a] fun i => f (va.get i)

/-- A lane-wise float instruction of two sources. -/
def State.f2 (s : State) (lat : Nat) (d : Dst) (a b : Src) (f : Word → Word → Fr) : Out :=
  let va := s.srcVec a
  let vb := s.srcVec b
  s.fLanes lat d [a, b] fun i => f (va.get i) (vb.get i)

/-- The special-function unit taken for n cycles (R162). -/
def State.takeSfu (s : State) (n : Nat) : State :=
  s.updElem (eidOf s.cur.cid) fun e => { e with sfuBusy := some (s.cycle + n) }

/-! ### Arithmetic (R159 to R162) -/

/-- FADD (R159). -/
def execFadd (d : Dst) (a b : Src) (m : BitVec 3) (s : State) : Out := s.f2 4 d a b (fadd m.toNat)
/-- FSUB (R159). -/
def execFsub (d : Dst) (a b : Src) (m : BitVec 3) (s : State) : Out := s.f2 4 d a b (fsub m.toNat)
/-- FMUL (R159). -/
def execFmul (d : Dst) (a b : Src) (m : BitVec 3) (s : State) : Out := s.f2 4 d a b (fmul m.toNat)
/-- FDIV: takes the special-function unit for 8 cycles (R159, R162). -/
def execFdiv (d : Dst) (a b : Src) (m : BitVec 3) (s : State) : Out := (s.takeSfu 8).f2 14 d a b (fdiv m.toNat)
/-- FFMA: D's value before the firing is the addend (R160). -/
def execFfma (d : Dst) (a b : Src) (m : BitVec 3) (s : State) : Out :=
  let va := s.srcVec a
  let vb := s.srcVec b
  let vd := s.dstVec d
  s.fLanes 4 d [a, b] fun i => ffma m.toNat (va.get i) (vb.get i) (vd.get i)
/-- FRCP (R161). -/
def execFrcp (d : Dst) (a : Src) (m : BitVec 3) (s : State) : Out := (s.takeSfu 4).f1 8 d a (frcp m.toNat)
/-- FRSQ (R161). -/
def execFrsq (d : Dst) (a : Src) (m : BitVec 3) (s : State) : Out := (s.takeSfu 4).f1 8 d a (frsq m.toNat)
/-- FSQRT (R161). -/
def execFsqrt (d : Dst) (a : Src) (m : BitVec 3) (s : State) : Out := (s.takeSfu 8).f1 12 d a (fsqrt m.toNat)
/-- FEXP2 (R161). -/
def execFexp2 (d : Dst) (a : Src) (m : BitVec 3) (s : State) : Out := (s.takeSfu 4).f1 10 d a (fexp2 m.toNat)
/-- FLOG2 (R161). -/
def execFlog2 (d : Dst) (a : Src) (m : BitVec 3) (s : State) : Out := (s.takeSfu 4).f1 10 d a (flog2 m.toNat)

/-! ### Minimum, maximum, compare, sign and class (R163 to R166) -/

/-- FMIN (R163). -/
def execFmin (d : Dst) (a b : Src) (s : State) : Out := s.f2 2 d a b (fminmax false false)
/-- FMAX (R163). -/
def execFmax (d : Dst) (a b : Src) (s : State) : Out := s.f2 2 d a b (fminmax true false)
/-- FMINN (R163). -/
def execFminn (d : Dst) (a b : Src) (s : State) : Out := s.f2 2 d a b (fminmax false true)
/-- FMAXN (R163). -/
def execFmaxn (d : Dst) (a b : Src) (s : State) : Out := s.f2 2 d a b (fminmax true true)
/-- FCMP (R164). -/
def execFcmp (d : Dst) (a b : Src) (m : BitVec 3) (s : State) : Out := s.f2 2 d a b (fcmp m.toNat)

/-- One lane of FSGN (R165). -/
def fsgn (m : Nat) (a b : Word) : Fr :=
  match val32 a with
  | .nan sg => frNan sg
  | .inf _ | .fin _ _ _ =>
    let sa := a.getLsbD 31
    let sb := b.getLsbD 31
    (putBit a 31 (if m = 0 then sb else if m = 1 then !sb else if m = 2 then sa != sb else if m = 3 then false else !sa), {})

/-- FSGN: S2 is read for its sign alone; .ABS and .NEG read no S2 (R165). -/
def execFsgn (d : Dst) (a b : Src) (m : BitVec 3) (s : State) : Out :=
  if m.toNat < 3 then s.f2 2 d a b (fsgn m.toNat) else s.f1 2 d a fun w => fsgn m.toNat w 0

/-- The class bit of an encoding (R166). -/
def fclass (w : Word) : Nat :=
  match val32 w with
  | .nan sg => if sg then 8 else 9
  | .inf n => if n then 0 else 7
  | .fin n _ _ =>
    if bitsN w.toNat 30 0 = 0 then (if n then 3 else 4)
    else if bitsN w.toNat 30 23 = 0 then (if n then 2 else 5)
    else if n then 1 else 6

/-- FCLASS (R166). -/
def execFclass (d : Dst) (a : Src) (s : State) : Out := s.f1 2 d a fun w => (BitVec.ofNat 32 (2 ^ fclass w), {})

/-! ### Lane reductions (R167, R168) -/

/-- One halving of the list. -/
def halve : List Fr → List Fr
  | a :: b :: t => ((fadd 0 a.1 b.1).1, ((fadd 0 a.1 b.1).2.or a.2).or b.2) :: halve t
  | [a] => [a]
  | [] => []

/-- The tree over 64 lanes: six halvings. -/
def tree64 (l : List Fr) : Fr := (halve (halve (halve (halve (halve (halve l)))))).headD (0, {})

/-- The sum FRED gives and the flags of its additions. -/
def fredSum (mask : Mask) (v : Vec) : Fr :=
  let u (t : Nat) : Fr := tree64 ((rangeFrom (64 * t) 64).map fun i => (if mask.getLsbD i then v.get i else 0, {}))
  let a := fadd 0 (u 0).1 (u 1).1
  let b := fadd 0 a.1 (u 2).1
  (b.1, (((u 0).2.or (u 1).2).or (u 2).2).or (a.2.or b.2))

/-- FRED: a scalar result (R167). -/
def execFred (d : Dst) (a : Src) (s : State) : Out :=
  match s.poisoned [a] with
  | some p => s.poisonTo d 8 p
  | none =>
    let r := fredSum s.my.regs.mask (s.srcVec a)
    s.finish 8 (s.write d (.sca (r.1.setWidth 64)) s.my.regs.mask ++ (if r.2.bits = 0 then [] else [.flags r.2.bits]))

/-- The best of the lanes listed, ties keeping the lowest: value and index. -/
def bestLane (max : Bool) (v : Vec) : List Nat → Option (Word × Nat) → Option (Word × Nat)
  | [], b => b
  | i :: t, none => bestLane max v t (some (v.get i, i))
  | i :: t, some (w, j) =>
    if (if max then orderKey w < orderKey (v.get i) else orderKey (v.get i) < orderKey w)
    then bestLane max v t (some (v.get i, i)) else bestLane max v t (some (w, j))

/-- Value, index and flags of FRMAX or FRMIN (R168). -/
def frExtreme (max : Bool) (mask : Mask) (v : Vec) : Word × Nat × Fl :=
  let l := mask.list
  match l.find? fun i => (val32 (v.get i)).isNan with
  | some i => (0x7FC00000#32, i, { inv := l.any fun j => (val32 (v.get j)).snan })
  | none =>
    match bestLane max v l none with
    | some (w, i) => (w, i, {})
    | none => (if max then 0xFF800000#32 else 0x7F800000#32, 2 ^ 32 - 1, {})

/-- FRMAX and FRMIN (R168). -/
def State.frExt (s : State) (max : Bool) (d : Dst) (a : Src) (m : BitVec 3) : Out :=
  match s.poisoned [a] with
  | some p => s.poisonTo d 6 p
  | none =>
    let r := frExtreme max s.my.regs.mask (s.srcVec a)
    let w : Dword := if m = 0 then r.1.setWidth 64 else if m = 1 then BitVec.ofNat 64 r.2.1
      else BitVec.ofNat 64 (r.1.toNat + r.2.1 % 65536 * 2 ^ 32)
    s.finish 6 (s.write d (.sca w) s.my.regs.mask ++ (if r.2.2.bits = 0 then [] else [.flags r.2.2.bits]))

/-- FRMAX (R168). -/
def execFrmax (d : Dst) (a : Src) (m : BitVec 3) (s : State) : Out := s.frExt true d a m
/-- FRMIN (R168). -/
def execFrmin (d : Dst) (a : Src) (m : BitVec 3) (s : State) : Out := s.frExt false d a m

/-! ### Packed slices (R169) -/

/-- Element i of part p of a vector of w-bit elements. -/
def elemAt (w p : Nat) (v : Vec) (i : Nat) : Nat :=
  (v.get (p * (6 * w) + i * w / 32)).toNat / 2 ^ (w * (i % (32 / w))) % 2 ^ w

/-- A word with its w-bit element k replaced. -/
def putElem (w : Nat) (a : Word) (k x : Nat) : Word := putField a (w * k + w - 1) (w * k) x

/-- D with element i of part p set to f i, for the elements that `on` selects. -/
def packPart (w p : Nat) (d : Vec) (on : Nat → Bool) (f : Nat → Nat) : Vec :=
  Vec.gen fun j =>
    if p * (6 * w) ≤ j ∧ j < (p + 1) * (6 * w) then
      (List.range (32 / w)).foldl (fun a k =>
        let i := (j - p * (6 * w)) * (32 / w) + k
        if on i then putElem w a k (f i) else a) (d.get j)
    else d.get j

/-- A narrowing instruction (R169): element i of part p where the mask is set, with the flags of those lanes. -/
def State.narrowOp (s : State) (d : Dst) (a : Src) (w p : Nat) (f : Nat → Word → Nat × Fl) : Out :=
  match s.poisoned [a] with
  | some t => s.poisonTo d 3 t
  | none =>
    let va := s.srcVec a
    let mk := s.my.regs.mask
    let rs := (List.range 192).map fun i => if mk.getLsbD i then f i (va.get i) else (0, {})
    let res := packPart w p (s.dstVec d) (fun i => mk.getLsbD i) fun i => (rs.getD i (0, {})).1
    let fl := (Fl.all (rs.map Prod.snd)).bits
    s.finish 3 (s.write d (.vec res) Mask.full ++ (if fl = 0 then [] else [.flags fl]))

/-- The random number of lane i for an instruction with no S2: bits [15:0] of lane i of v15 (R156). -/
def State.qOf (s : State) (i : Nat) : Nat := ((s.my.v 15).get i).toNat % 65536

/-- The format CVTF's FMT field names (R170). -/
def cvtFmt (f : BitVec 2) : Fmt := if f = 0 then fp16 else if f = 1 then bf16 else if f = 2 then e4m3 else e5m2

/-- CVTF: narrows (DIR 0) or widens (DIR 1) (R170). -/
def execCvtf (d : Dst) (a : Src) (r : BitVec 1) (f p : BitVec 2) (n : BitVec 3) (s : State) : Out :=
  let fm := cvtFmt f
  if r = 0 then s.narrowOp d a fm.width p.toNat fun i w => fm.conv n.toNat (s.qOf i) (val32 w)
  else
    let va := s.srcVec a
    s.fLanes 3 d [a] fun i => fr (fp32.conv 0 0 (fm.value (elemAt fm.width p.toNat va i)))

/-- CVTI: FP32 to INT32 or packed INT8 (R171). -/
def execCvti (d : Dst) (a : Src) (g : BitVec 1) (p : BitVec 2) (n : BitVec 3) (s : State) : Out :=
  if g = 0 then
    let va := s.srcVec a
    s.fLanes 3 d [a] fun i => fr (toInt 32 n.toNat (s.qOf i) (val32 (va.get i)))
  else s.narrowOp d a 8 p.toNat fun i w => toInt 8 n.toNat (s.qOf i) (val32 w)

/-- CVTIF: INT32, signed or unsigned, or packed INT8 to FP32 (R172). -/
def execCvtif (d : Dst) (a : Src) (g u : BitVec 1) (p : BitVec 2) (n : BitVec 3) (s : State) : Out :=
  let va := s.srcVec a
  s.fLanes 3 d [a] fun i =>
    let v : Int := if g = 1 then signedN 8 (elemAt 8 p.toNat va i)
      else if u = 1 then ((va.get i).toNat : Int) else (va.get i).toInt
    fr (ofInt32 n.toNat (s.qOf i) v)

/-- One lane of FROUND (R173). -/
def fround (m q : Nat) (w : Word) : Fr :=
  match val32 w with
  | .nan sg => frNan sg
  | .inf _ => (w, {})
  | .fin neg n e =>
    if n = 0 ∨ 0 ≤ e then (w, {})
    else
      let r := roundAt (if m = 6 then 0 else m) neg q n e 0 false
      ((fr (fp32.round 0 0 neg r.1 0)).1, { inx := r.2 })

/-- FROUND: code 5 draws q from S2 (R173). -/
def execFround (d : Dst) (a b : Src) (m : BitVec 3) (s : State) : Out :=
  if m = 5 then s.f2 3 d a b fun x y => fround 5 (y.toNat % 65536) x
  else s.f1 3 d a (fround m.toNat 0)

/-- One lane of FSCALE (R174); a power past ±4,096 is out of range either way. -/
def fscale (m : Nat) (w n : Word) : Fr :=
  match val32 w with
  | .nan sg => frNan sg
  | .inf _ => (w, {})
  | .fin neg k e => fr (fp32.round m 0 neg k (e + clampI (-4096) 4096 n.toInt))

/-- FSCALE (R174). -/
def execFscale (d : Dst) (a b : Src) (m : BitVec 3) (s : State) : Out := s.f2 3 d a b (fscale m.toNat)

/-- The value of a 4-bit element by source kind (R175). -/
def nibbleValue (k x : Nat) : Fv :=
  if k = 0 then e2m1.value x
  else
    let v : Int := if k = 1 then signedN 4 x else (x : Int)
    .fin (decide (v < 0)) v.natAbs 0

/-- CVT4: expands 4-bit elements to FP8, exactly (R175). -/
def execCvt4 (d : Dst) (a : Src) (k : BitVec 2) (g h : BitVec 1) (s : State) : Out :=
  let va := s.srcVec a
  let fm := if g = 0 then e4m3 else e5m2
  s.fLanes 3 d [a] fun j =>
    (BitVec.ofNat 32 (((List.range 4).map fun i =>
      (fm.conv 0 0 (nibbleValue k.toNat (bitsN (va.get (96 * h.toNat + j / 2)).toNat
        (4 * ((4 * j + i) % 8) + 3) (4 * ((4 * j + i) % 8))))).1 * 256 ^ i).sum), {})

/-! ### Block packing (R176 to R180) -/

/-- An exact magnitude compared: n × 2^e below k × 2^d. -/
def magLt (n : Nat) (e : Int) (k : Nat) (d : Int) : Bool :=
  let g := min e d
  decide (n * 2 ^ (e - g).toNat < k * 2 ^ (d - g).toNat)

/-- The greatest magnitude of a list of finite values. -/
def amaxOf : List Fv → Nat × Int
  | [] => (0, 0)
  | .fin _ n e :: t => if magLt (amaxOf t).1 (amaxOf t).2 n e then (n, e) else amaxOf t
  | .nan _ :: t => amaxOf t
  | .inf _ :: t => amaxOf t

/-- An infinity or a signalling NaN is in the block. -/
def blockInv (l : List Fv) : Bool :=
  l.any fun v => match v with | .nan sg => sg | .inf _ => true | .fin _ _ _ => false

/-- A block packed to MXFP4: the scale, the elements and the flags (R176). -/
def mxBlock (l : List Fv) : Nat × List Nat × Fl :=
  if l.any Fv.special then (255, l.map fun _ => 0, { inv := blockInv l })
  else
    let a := amaxOf l
    let x := if a.1 = 0 then 0 else (max (topExp a.1 a.2 + 125) 0).toNat
    let rs := l.map fun v => match v with
      | .fin s n e => e2m1.round 6 0 s n (e - ((x : Int) - 127))
      | .nan _ => (0, {})
      | .inf _ => (0, {})
    (x, rs.map Prod.fst, Fl.all (rs.map Prod.snd))

/-- Lanes a source shows to a packer: masked lanes as +0. -/
def packSrc (mask : Mask) (v : Vec) (i : Nat) : Word := if mask.getLsbD i then v.get i else 0

/-- MXPACK: six blocks of 32 lanes; the whole slice and the whole of xS are written (R176). -/
def execMxpack (d : Dst) (a : Src) (p : BitVec 4) (x : BitVec 2) (s : State) : Out :=
  match s.poisoned [a] with
  | some t => (s.countPoison s.cur.cid t).done
  | none =>
    let va := s.srcVec a
    let bs := (List.range 6).map fun b =>
      mxBlock ((rangeFrom (32 * b) 32).map fun i => val32 (packSrc s.my.regs.mask va i))
    let es := bs.flatMap fun b => b.2.1
    let sc := ((List.range 6).map fun b => (bs.getD b (0, [], {})).1 * 256 ^ b).sum
    let dv := s.dstVec d
    let res := Vec.gen fun j =>
      if 24 * p.toNat ≤ j ∧ j < 24 * p.toNat + 24 then
        BitVec.ofNat 32 ((List.range 8).map fun k => es.getD (8 * (j - 24 * p.toNat) + k) 0 * 16 ^ k).sum
      else dv.get j
    let fl := (Fl.all (bs.map fun b => b.2.2)).bits
    s.finish 6 (s.write d (.vec res) Mask.full ++ [.sreg x.toNat (BitVec.ofNat 64 sc)] ++ (if fl = 0 then [] else [.flags fl]))

/-- MXUNPK (R177). -/
def execMxunpk (d : Dst) (a : Src) (p : BitVec 4) (x : BitVec 2) (s : State) : Out :=
  let va := s.srcVec a
  let sc := (s.my.x x.toNat).toNat
  s.fLanes 3 d [a] fun i =>
    let e := bitsN (va.get (24 * p.toNat + i / 8)).toNat (4 * (i % 8) + 3) (4 * (i % 8))
    fr (fp32.conv 0 0 (e8m0Value (e2m1.value e) (bitsN sc (8 * (i / 32) + 7) (8 * (i / 32)))))

/-- The S24 scale of a block of finite values: the least S24 value at or above amax / MAXF, and the scale of zeros is the zero
scale (R179). -/
def s24Scale (fm : Fmt) (l : List Fv) : Nat :=
  let a := amaxOf l
  if a.1 = 0 then 0
  else
    match fm.value fm.maxF with
    | .fin _ k d =>
      let r := quotient a.1 a.2 k d
      let g := max (topExp r.1 r.2.1 - 16) (-142)
      let u := roundAt 3 false 0 r.1 r.2.1 g r.2.2
      ((u.1 : Int) + (g + 142) * 65536).toNat
    | .nan _ => 0
    | .inf _ => 0

/-- A block packed to scaled FP8: the scale, the elements and their flags (R179). -/
def scBlock (fm : Fmt) (rnd : Nat) (l : List Fv) : Nat × List Nat × Fl :=
  if l.any Fv.special then (0x00FF0000, l.map fun _ => 0, { inv := blockInv l })
  else
    let w := s24Scale fm l
    let rs := l.map fun v => match v with
      | .fin s n e =>
        match s24Value w with
        | some (k, d) =>
          if n = 0 ∨ k = 0 then (fm.signed s 0, {})
          else let r := quotient n e k d; fm.round rnd 0 s r.1 r.2.1 r.2.2
        | none => (0, {})
      | .nan _ => (0, {})
      | .inf _ => (0, {})
    (w, rs.map Prod.fst, Fl.all (rs.map Prod.snd))

/-- The rounding code SCPACK's RND field names. -/
def scRnd (n : BitVec 2) : Nat := if n = 0 then 0 else if n = 1 then 1 else 4

/-- SCPACK: elements (KIND 0) or scales (KIND 1) of scaled FP8 blocks (R179). -/
def execScpack (d : Dst) (a : Src) (k f g : BitVec 1) (p n : BitVec 2) (s : State) : Out :=
  match s.poisoned [a] with
  | some t => s.poisonTo d 6 t
  | none =>
    let va := s.srcVec a
    let fm := if f = 0 then e4m3 else e5m2
    let sz := if g = 0 then 16 else 32
    let bs := (List.range (192 / sz)).map fun b =>
      scBlock fm (scRnd n) ((rangeFrom (sz * b) sz).map fun i => val32 (packSrc s.my.regs.mask va i))
    let inv : Fl := { inv := bs.any fun b => b.2.2.inv }
    let dv := s.dstVec d
    if k = 0 then
      let es := bs.flatMap fun b => b.2.1
      let fl := ((Fl.all (bs.map fun b => b.2.2)).or inv).bits
      s.finish 6 (s.write d (.vec (packPart 8 p.toNat dv (fun _ => true) fun i => es.getD i 0)) Mask.full
        ++ (if fl = 0 then [] else [.flags fl]))
    else
      let res := Vec.gen fun j =>
        if 12 * p.toNat ≤ j ∧ j < 12 * p.toNat + 12 then
          BitVec.ofNat 32 (bs.getD (16 * (j - 12 * p.toNat) / sz) (0, [], {})).1
        else dv.get j
      s.finish 6 (s.write d (.vec res) Mask.full ++ (if inv.bits = 0 then [] else [.flags inv.bits]))

/-- SCUNPK: the element times its scale, rounded once (R180). -/
def execScunpk (d : Dst) (a b : Src) (f : BitVec 1) (p : BitVec 2) (s : State) : Out :=
  let va := s.srcVec a
  let vb := s.srcVec b
  let fm := if f = 0 then e4m3 else e5m2
  s.fLanes 3 d [a, b] fun i =>
    let r := s24Times (fm.value (elemAt 8 p.toNat va i)) (vb.get (12 * p.toNat + i / 16)).toNat
    let c := fr (fp32.conv 0 0 r.1)
    (c.1, { c.2 with inv := c.2.inv || r.2 })

end Sys2Proof.Machine
end

