-- ==== Sys2Proof/Machine/Reach.lean ====
section
/-! DEFINITION. An agent's access to a range of G-space that no generator holds patched: the save path, the packet read, the reads of the
trust engine and of the loader (R220, R222, R287, R326, R328, R334, R335, R337). -/

namespace Sys2Proof.Machine

/-- Where a byte range stands: its pieces (model address, key slot, bytes), a failed check with its address, a page not present, or a page
that a migration has frozen, whose accesses wait for its completion (R340). -/
inductive Reach where
  | ok (l : List (Nat × Nat × Nat))
  | fail (code va : Nat)
  | np (va : Nat)
  | hold
  deriving DecidableEq, Repr

/-- The 64 KiB pieces of a byte range. -/
def pagePieces : Nat → Nat → Nat → List (Nat × Nat)
  | 0, _, _ => []
  | f + 1, va, n => if n = 0 then [] else
    let k := min n (65536 - va % 65536)
    (va, k) :: pagePieces f (va + k) (n - k)

/-- The pieces in order, each walked. What a frozen frame refused goes against the new one once the leaf is remapped (R340, R341); a package that
ROUTE gives no trained port is never reached (R448). -/
def State.reachList (s : State) (asid : Nat) (user write : Bool) : List (Nat × Nat) → List (Nat × Nat × Nat) → Reach
  | [], l => if l.any fun p => s.isFrozen p.1 || !s.linked p.1 then .hold else .ok l.reverse
  | (va, n) :: t, l =>
    match (patchOf (va / 65536 * 65536) 65536 (s.walk asid va 3)).1 with
    | .np => .np va
    | .pg => .fail 0x24 va
    | .frame b rd wr usr sp k =>
      if (Patch.frame b rd wr usr sp k).verdict user write false ≠ 0 then .fail 0x23 va
      else
        let w := s.redirect (physKey sp (b + va % 65536), if sp then 0 else k)
        s.reachList asid user write t ((w.1, w.2, n) :: l)

/-- A byte range of an address space. -/
def State.reach (s : State) (asid : Nat) (user write : Bool) (va n : Nat) : Reach :=
  if !canonical va || !canonical (va + n - 1) then .fail 0x20 va
  else s.reachList asid user write (pagePieces (n / 65536 + 2) va n) []

/-- The A bits, and D for a write, of the leaves of a range set. -/
def State.touch (s : State) (asid : Nat) (write : Bool) (va n : Nat) : State :=
  (pagePieces (n / 65536 + 2) va n).foldl (fun s p =>
    match patchOf (p.1 / 65536 * 65536) 65536 (s.walk asid p.1 3) with
    | (_, some w) => s.putEntry w.addr (let a := setBitN w.word 61; if write then setBitN a 60 else a)
    | (_, none) => s) s

/-- The bytes of pieces. -/
def State.readPieces (s : State) (l : List (Nat × Nat × Nat)) : List Byte :=
  l.flatMap fun p => s.viewLong p.2.1 (p.2.2 / 64 + 2) p.1 p.2.2

/-- The 64-byte blocks of a piece, with whether it covers them whole. -/
def pieceBlocks (p : Nat × Nat × Nat) : List (Nat × Bool) :=
  (rangeFrom (p.1 / 64) ((p.1 + p.2.2 - 1) / 64 + 1 - p.1 / 64)).map fun b => (b, decide (p.1 ≤ 64 * b ∧ 64 * b + 64 ≤ p.1 + p.2.2))

/-- A byte string written over pieces; a marked block that one writes whole is marked no longer (R415). -/
def State.writePieces (s : State) : List (Nat × Nat × Nat) → List Byte → State
  | [], _ => s
  | p :: t, b =>
    let whole := ((pieceBlocks p).filter Prod.snd).map Prod.fst
    let s1 := if s.pkg.marked.isEmpty then s else s.updPkg fun k => { k with marked := k.marked.filter fun m => !whole.contains m }
    ((s1.revive p.2.1 p.1).putLong p.2.1 (p.2.2 / 64 + 2) p.1 (b.take p.2.2)).writePieces t (b.drop p.2.2)

/-- Byte strings at the model's addresses, each where its frame stands now (R340, R341). -/
def State.redirected (s : State) (l : List (Nat × Nat × Nat)) : List (Nat × Nat × Nat) :=
  l.flatMap fun p => (pagePieces (p.2.2 / 65536 + 2) p.1 p.2.2).map fun q => let w := s.redirect (q.1, p.2.1); (w.1, w.2, q.2)

/-- Nothing keeps an engine from pieces: no migration freezes them (R340), and ROUTE reaches their packages (R448). -/
def State.openTo (s : State) (l : List (Nat × Nat × Nat)) : Bool := l.all fun p => !s.isFrozen p.1 && s.linked p.1

/-- The blocks of pieces, by address: what they ask of the vault banks. -/
def blocksOf (l : List (Nat × Nat × Nat)) : List Nat := (l.flatMap pieceBlocks).map fun b => 64 * b.1

/-- The poison one of the pieces meets at its node, with the model's address; each 64-byte block counts. -/
def State.piecesCode (s : State) (c : Nat) (write : Bool) (l : List (Nat × Nat × Nat)) : Option (Nat × Nat) :=
  (l.flatMap pieceBlocks).findSome? fun b =>
    let k := s.engineCode c (64 * b.1) write b.2
    if k ≠ 0 then some (k, 64 * b.1) else none

/-- The block whose read finds an uncorrectable error: one that is read, or one that a write covers only in part (R415). -/
def State.errIn (s : State) (write : Bool) (l : List (Nat × Nat × Nat)) : Option Nat :=
  if s.hbmErrs.isEmpty then none
  else ((l.flatMap pieceBlocks).find? fun b => s.latentErr (64 * b.1) && !(write && b.2)).map fun b => 64 * b.1

/-- The same of a range of an address space. -/
def State.reachErr (s : State) (asid : Nat) (user write : Bool) (va n : Nat) : Option Nat :=
  match s.reach asid user write va n with
  | .ok l => s.errIn write l
  | .fail _ _ => none
  | .np _ => none
  | .hold => none

/-- The access of an agent that met poison of a code at an address: a vault error has been met with it (R270). -/
def State.metCode (s : State) (k : Nat × Nat) : State := if k.1 = 0x2A then s.vaultMet k.2 else s

/-- A byte range that an agent of no context reads or writes: its pieces, if it passes its checks and meets no poison at its nodes. -/
def State.reachClear (s : State) (asid : Nat) (user write : Bool) (va n : Nat) : Reach :=
  match s.reach asid user write va n with
  | .ok l =>
    (match s.piecesCode (if user then 0 else 4) write l with
      | some k => .fail k.1 (k.2 % 2 ^ 52)
      | none => .ok l)
  | .fail c v => .fail c v
  | .np v => .np v
  | .hold => .hold

/-- The firing in hand stops on a page that is not present (R337, R93): reported once; its context fires nothing more until the page is
present, and then fires this slot. -/
def State.stopNp (s : State) (unit va : Nat) : State :=
  let c := s.cur.cid
  (s.updCtx c fun k => k.updCtl fun t => { t with wait := .held s.cur.slot (some va) }).report c 0x25 2 unit s.firing.toNat (some va) s.my.regs.kr

/-- The firing in hand waits before its decision point and is tried again in every cycle (R93). -/
def State.waitTurn (s : State) : State := s.updCtx s.cur.cid fun k => k.updCtl fun t => { t with wait := .held s.cur.slot none }

/-- The firing in hand may have its effects in memory now: as an access it comes, under its key, after everything of its launch with a lower
one (R301). -/
def State.myTurn (s : State) : Bool := s.engineKey.engineTurn s.cur.cid s.my.regs.kr (s.my.point 5).reqs

/-- What a firing does that needs a byte range: it stops on a page that is not present, waits for a migration, finds an uncorrectable error and
returns nothing (R415), delivers the poison of a failed check or of a node to D, or goes on with the pieces. -/
def State.withReach (s : State) (d : Dst) (write : Bool) (va n : Nat) (go : List (Nat × Nat × Nat) → Out) : Out :=
  let c := s.cur.cid
  let bad (s : State) (k v : Nat) : Out := ((s.accPoison c k s.firing.toNat v s.my.regs.kr).2).poisonTo d 1 (s.poisonNew d k)
  match s.reach (s.asidOf c) (decide (ctxOf c < 4)) write va n with
  | .np v => .next (s.stopNp 0xFF v)
  | .hold => .next s.waitTurn
  | .fail k v => bad s k v
  | .ok l =>
    match s.errIn write l with
    | some a => .next (s.findFor c s.firing.toNat a s.my.regs.kr).waitTurn
    | none =>
      match s.piecesCode c write l with
      | some k => bad (s.metCode k) k.1 (k.2 % 2 ^ 52)
      | none => go l

end Sys2Proof.Machine
end

