-- ==== Sys2Proof/Machine/Use.lean ====
section
/-! DEFINITION. What an instruction uses, read off its operand fields: the registers, predicates, inputs, outputs and stream port that the
firing conditions (R77) and the loader (R40, R57, R226, R272) ask about. -/

namespace Sys2Proof.Machine

/-- What an instruction uses: its destination, whether it reads and whether it writes it; predicates it writes; whether its inputs are
managed (R226), with inputs it names outside its sources; the outputs it can emit on (R57); further registers it reads or writes; the
stream port it names with the access it needs: 0 read, 1 write, 2 update, 3 any (R272, R315). -/
structure Use where
  d : Option Dst := none
  dRead : Bool := false
  dWrite : Bool := true
  preds : List Nat := []
  man : Bool := false
  ins : List Nat := []
  outs : List Nat := []
  xr : List Nat := []
  xw : List Nat := []
  vr : List Nat := []
  port : Option (Nat × Nat) := none
  deriving DecidableEq, Repr

/-- An instruction with a destination it writes. -/
def useD (d : Dst) : Use := { d := some d, outs := outOf d }
/-- n outputs from the destination on. -/
def outSpan (d : Dst) (n : Nat) : List Nat := (outOf d).flatMap fun k => rangeFrom k n
/-- The scalar register after the destination. -/
def nextX (d : Dst) : List Nat := (xOf d).map (· + 1)
/-- The vector register after the destination. -/
def nextV (d : Dst) : List Nat := (vOf d).map (· + 1)
/-- The second register of a pair source. -/
def pairX (a : Src) : List Nat :=
  match a with | .x k => [k.toNat + 1] | .v _ => [] | .inp _ => [] | .lane => [] | .zero => [] | .lit _ => []

/-- What each instruction uses. -/
def useOf (i : Instr) : Use :=
  match i with
  | .nop => {}
  | .idle _ => {}
  | .halt => {}
  | .pset k d _ => { preds := [32 * k.toNat + d.toNat] }
  | .plog k d _ _ _ => { preds := [32 * k.toNat + d.toNat] }
  | .pany k d _ _ _ => { preds := [32 * k.toNat + d.toNat] }
  | .pall k d _ _ _ => { preds := [32 * k.toNat + d.toNat] }
  | .mov d _ _ => useD d
  | .movi d _ => useD d
  | .lit d _ _ _ => useD d
  | .sel d _ _ _ => useD d
  | .deq _ => {}
  | .emit d _ _ _ => useD d
  | .tagset d _ _ c => { d := some d, outs := if c = 1 then outOf d else [] }
  | .hdread d _ _ => useD d
  | .fcount d => useD d
  | .maskset _ _ => {}
  | .brk _ => {}
  | .iadd d _ _ _ => useD d
  | .isub d _ _ _ => useD d
  | .imul d _ _ _ => useD d
  | .imulh d _ _ _ => useD d
  | .imad d _ _ _ => { useD d with dRead := true }
  | .iaddi d _ _ => useD d
  | .imin d _ _ _ => useD d
  | .imax d _ _ _ => useD d
  | .and d _ _ _ => useD d
  | .or d _ _ _ => useD d
  | .xor d _ _ _ => useD d
  | .shl d _ _ => useD d
  | .shr d _ _ _ => useD d
  | .rot d _ _ _ => useD d
  | .icmp d _ _ _ => useD d
  | .isat d _ _ _ => useD d
  | .bitc d _ _ => useD d
  | .bfx d _ _ _ => useD d
  | .bfi d _ _ => { useD d with dRead := true }
  | .addr d _ _ _ _ => useD d
  | .cchain _ _ _ => {}
  | .cstep d _ _ => useD d
  | .lscan d _ _ _ => useD d
  | .idiv d _ _ _ => useD d
  | .fadd d _ _ _ => useD d
  | .fsub d _ _ _ => useD d
  | .fmul d _ _ _ => useD d
  | .ffma d _ _ _ => { useD d with dRead := true }
  | .fmin d _ _ => useD d
  | .fmax d _ _ => useD d
  | .fminn d _ _ => useD d
  | .fmaxn d _ _ => useD d
  | .fcmp d _ _ _ => useD d
  | .fsgn d _ _ _ => useD d
  | .frcp d _ _ => useD d
  | .frsq d _ _ => useD d
  | .fsqrt d _ _ => useD d
  | .fdiv d _ _ _ => useD d
  | .fexp2 d _ _ => useD d
  | .flog2 d _ _ => useD d
  | .fred d _ => useD d
  | .frmax d _ _ => useD d
  | .frmin d _ _ => useD d
  | .cvtf d _ r _ _ n => { useD d with dRead := r == 0, vr := if n = 5 then [15] else [] }
  | .cvti d _ s _ n => { useD d with dRead := s == 1, vr := if n = 5 then [15] else [] }
  | .cvtif d _ _ _ _ n => { useD d with vr := if n = 5 then [15] else [] }
  | .cvt4 d _ _ _ _ => useD d
  | .mxpack d _ _ x => { useD d with dRead := true, xw := [x.toNat] }
  | .mxunpk d _ _ x => { useD d with xr := [x.toNat] }
  | .scpack d _ _ _ _ _ _ => { useD d with dRead := true }
  | .scunpk d _ _ _ _ => useD d
  | .fclass d _ => useD d
  | .fround d _ _ _ => useD d
  | .fscale d _ _ _ => useD d
  | .pcarve _ => {}
  | .pcommit d _ _ => useD d
  | .pmap _ => {}
  | .pstat d _ _ _ => useD d
  | .pgather d _ _ _ _ _ _ => useD d
  | .pissue d _ _ _ _ => useD d
  | .pissuex d _ _ _ _ => useD d
  | .pdrain d _ _ _ _ _ => useD d
  | .pclear d _ _ _ => useD d
  | .psort d _ _ _ => useD d
  | .psortk d _ _ _ _ => useD d
  | .psave d _ _ => useD d
  | .prestore d _ _ _ => useD d
  | .pqstat d _ _ => useD d
  | .steer d _ _ _ => { useD d with man := true, outs := outSpan d 2 }
  | .merge d _ _ m => { useD d with man := true, ins := [m.toNat] }
  | .lexit d _ _ => { useD d with man := true, outs := outSpan d 2 }
  | .gate d _ _ => { useD d with man := true }
  | .dup d _ n => { useD d with man := true, outs := outSpan d (n.toNat + 2) }
  | .zipt d _ _ => { useD d with man := true }
  | .talloc d _ _ => useD d
  | .tfree _ _ => {}
  | .troute d _ _ _ => { useD d with man := true }
  | .isect d _ _ q p => { useD d with man := true, outs := outOf d ++ (if p = 1 then (outOf d).map (· + 1) else []) ++ (if q = 1 then (outOf d).map (· + 2) else []) }
  | .union d _ _ q p => { useD d with man := true, outs := outOf d ++ (if p = 1 then (outOf d).map (· + 1) else []) ++ (if q = 1 then (outOf d).map (· + 2) else []) }
  | .fibre d _ _ _ => { useD d with man := true }
  | .packv d _ => { useD d with man := true }
  | .splitv d _ _ => { useD d with man := true }
  | .compact d _ => useD d
  | .order d _ c => { useD d with outs := outSpan d (if 8 ≤ c.toNat then 2 else 1) }
  | .switch d _ _ m => { useD d with man := true, outs := outSpan d (m.toNat + 1) }
  | .poison d _ => useD d
  | .ends d _ _ => { useD d with man := true }
  | .chocc d _ => useD d
  | .vld d _ => useD d
  | .vst d _ _ => useD d
  | .vldx d _ _ _ => useD d
  | .vstx d _ _ _ => { d := some d, dRead := true, dWrite := false }
  | .gld d _ _ p => { useD d with port := some (p.toNat, 0) }
  | .gst d _ _ _ p => { useD d with port := some (p.toNat, 1) }
  | .sport _ p _ m => { port := some (p.toNat, if m = 1 then 1 else 0) }
  | .sreq d _ p w => { useD d with man := w == 1, port := some (p.toNat, w.toNat) }
  | .sgath d _ p => { useD d with port := some (p.toNat, 0) }
  | .tilest d _ _ _ _ => useD d
  | .tileq d _ _ => useD d
  | .valloc d _ _ _ _ _ => useD d
  | .vfree _ => {}
  | .pref _ p _ => { port := some (p.toNat, 3) }
  | .glda d _ _ _ v p => { useD d with port := if v = 1 then none else some (p.toNat, 0) }
  | .gstr d _ _ _ v p => { d := some d, dRead := true, dWrite := false, port := if v = 1 then none else some (p.toNat, 1) }
  | .fence _ _ => {}
  | .fencex d => useD d
  | .fencep d => useD d
  | .seqkey d _ _ => useD d
  | .perfw _ => {}
  | .mcsync _ => {}
  | .aadd d _ _ _ v n p => { useD d with dRead := true, dWrite := n == 0, port := if v = 1 then none else some (p.toNat, 2) }
  | .aand d _ _ _ v n p => { useD d with dRead := true, dWrite := n == 0, port := if v = 1 then none else some (p.toNat, 2) }
  | .aor d _ _ _ v n p => { useD d with dRead := true, dWrite := n == 0, port := if v = 1 then none else some (p.toNat, 2) }
  | .axor d _ _ _ v n p => { useD d with dRead := true, dWrite := n == 0, port := if v = 1 then none else some (p.toNat, 2) }
  | .amin d _ _ _ v n p _ => { useD d with dRead := true, dWrite := n == 0, port := if v = 1 then none else some (p.toNat, 2) }
  | .amax d _ _ _ v n p _ => { useD d with dRead := true, dWrite := n == 0, port := if v = 1 then none else some (p.toNat, 2) }
  | .axchg d _ _ _ v n p => { useD d with dRead := true, dWrite := n == 0, port := if v = 1 then none else some (p.toNat, 2) }
  | .acas d _ _ _ v n p => { useD d with dRead := true, dWrite := n == 0, xr := nextX d, vr := nextV d, port := if v = 1 then none else some (p.toNat, 2) }
  | .afadd d _ _ v n p => { useD d with dRead := true, dWrite := n == 0, port := if v = 1 then none else some (p.toNat, 2) }
  | .afmin d _ _ v n p => { useD d with dRead := true, dWrite := n == 0, port := if v = 1 then none else some (p.toNat, 2) }
  | .afmax d _ _ v n p => { useD d with dRead := true, dWrite := n == 0, port := if v = 1 then none else some (p.toNat, 2) }
  | .awadd d _ v n p => { useD d with dRead := true, dWrite := n == 0, xr := nextX d, xw := if n = 0 then nextX d else [], port := if v = 1 then none else some (p.toNat, 2) }
  | .ainc d _ _ _ v n p _ => { useD d with dRead := true, dWrite := n == 0, port := if v = 1 then none else some (p.toNat, 2) }
  | .abit d _ _ _ v n p _ => { useD d with dRead := true, dWrite := n == 0, port := if v = 1 then none else some (p.toNat, 2) }
  | .map d a _ _ _ => { useD d with xr := pairX a }
  | .unmap d a _ _ _ => { useD d with xr := pairX a }
  | .protect d _ _ _ _ _ _ => useD d
  | .migrate d a _ _ => { useD d with xr := pairX a }
  | .xinval d a _ _ => { useD d with xr := pairX a }
  | .adread d _ _ _ _ _ => useD d
  | .xprobe d _ _ => useD d
  | .xsync d _ => useD d
  | .copy d _ _ _ _ _ dep2 dep1 dep0 => { useD d with ins := depInputs dep2 dep1 dep0 }
  | .dtoken d _ _ _ => { useD d with man := true }
  | .tbarr d _ _ _ => useD d
  | .tbwait d _ _ => useD d
  | .tbany d _ => useD d
  | .nbar d _ _ _ => useD d
  | .gbar d _ _ _ _ => useD d
  | .timew d _ _ => useD d
  | .timer d _ => useD d
  | .rand d _ _ => useD d
  | .launch d _ _ => useD d
  | .joinc d _ => useD d
  | .cfgnextStep _ => {}
  | .cfgnextPost _ _ => {}
  | .strand d _ _ _ => useD d
  | .retire d _ _ => useD d
  | .prio d _ _ _ => useD d
  | .trap _ _ => {}
  | .tret d _ _ => useD d
  | .ctxsw _ _ => {}
  | .qstop d _ c => { useD d with dRead := c == 0 }
  | .errlog d a c => { useD d with xr := if c = 0 then [] else pairX a }
  | .mcmp d a => { useD d with xr := pairX a }
  | .attest d _ => useD d
  | .cfgld d _ => useD d
  | .cfgsig d _ _ => useD d
  | .sysrd d _ _ => useD d
  | .resultWriteback _ => {}
  | .idleExpiry _ => {}
  | .timewWake _ => {}
  | .sharedUnitFree _ _ => {}
  | .tokenSend _ _ => {}
  | .tokenArrival _ => {}
  | .deadlock _ => {}
  | .mcastStall _ _ => {}
  | .trapQueueDelivery _ => {}
  | .traprec => {}
  | .packetDelivery => {}
  | .packetAcceptance _ => {}
  | .regionGrant _ => {}
  | .priorityRankUpdate _ => {}
  | .imageLoad _ => {}
  | .configurationLoad _ _ => {}
  | .stepPlacement _ _ => {}
  | .stepDrain _ _ => {}
  | .launchCompletion _ => {}
  | .completionReport _ => {}
  | .eviction _ _ => {}
  | .evictionSave _ _ => {}
  | .restore _ => {}
  | .quiescentPoint _ => {}
  | .accessPerform _ _ => {}
  | .keyedApply _ _ => {}
  | .portReturn _ _ => {}
  | .streamRequest _ _ => {}
  | .sgathRowEmit _ _ => {}
  | .mergeWindowClose _ _ => {}
  | .bulkAgeing _ => {}
  | .dlmiss _ => {}
  | .hbmue _ _ => {}
  | .tileCloseDone _ _ => {}
  | .tileFreeDone _ _ => {}
  | .poolQueueEntry _ => {}
  | .carveStage _ _ => {}
  | .commitCheck _ _ => {}
  | .groupRelease _ _ _ => {}
  | .leafJoin _ _ _ => {}
  | .gatherRowFetch _ _ _ => {}
  | .passStart _ _ => {}
  | .passRootApply _ _ _ => {}
  | .drainStart _ _ => {}
  | .drainPacketEmit _ _ => {}
  | .drainTileWriteDone _ _ => {}
  | .clearStart _ _ => {}
  | .sortAppend _ _ => {}
  | .sortEmit _ _ => {}
  | .poolecc _ _ _ _ => {}
  | .copyQueueEntry _ => {}
  | .copyRun _ _ => {}
  | .copyCompletion _ _ => {}
  | .generationClose _ _ => {}
  | .barrierInstanceComplete _ => {}
  | .translationEventEntry _ => {}
  | .invalidationAck _ => {}
  | .repatch _ => {}
  | .patchFetch _ _ _ => {}
  | .dirtyUpdate _ _ _ => {}
  | .migrateFreeze _ => {}
  | .migrateCopy _ => {}
  | .migrateRemap _ => {}
  | .migrateReplay _ => {}
  | .translationCompletion _ => {}
  | .killPropagation _ _ => {}
  | .cfgecc _ => {}
  | .cfgeccThaw _ _ => {}
  | .stateecc _ => {}
  | .attestQuoteDone => {}
  | .ptpSync _ => {}
  | .lockedEntry => {}
  | .holdoverEntry => {}
  | .fabricFlit _ _ => {}
  | .powerOn => {}
  | .firmwareVerify => {}
  | .hbmTraining _ => {}
  | .vaultRowTest _ => {}
  | .ucieTraining _ => {}
  | .fabricTraining _ => {}
  | .regionRelease => {}
  | .repairWindowStart _ => {}
  | .ident _ => {}
  | .fwload _ _ => {}
  | .reset _ => {}
  | .setpkg _ _ => {}
  | .route _ _ => {}
  | .tmaster _ _ => {}
  | .sysload _ _ _ _ _ _ => {}
  | .submit _ _ _ _ => {}
  | .resume _ _ _ => {}
  | .kill _ _ => {}
  | .memrd _ _ _ => {}
  | .memwr _ _ _ => {}
  | .keyadd _ _ => {}
  | .keydel _ _ => {}
  | .ksnew _ _ => {}
  | .ksdel _ _ => {}
  | .quote _ _ _ => {}
  | .manif _ _ => {}
  | .rmap _ _ => {}
  | .repair _ _ _ => {}
  | .badframe _ _ => {}
  | .controlPortLinkChange _ => {}
  | .coreCurrentPeak _ => {}
  | .syncTransmit => {}

/-- The classes of the opcode map and the element kinds that fire them (R15, R48). -/
def kindsOf (op : Nat) : List Kind :=
  if op < 0x20 then [.a, .f, .m, .c]
  else if op < 0x40 then [.a]
  else if op < 0x60 then [.f]
  else if op < 0xA0 then [.c]
  else if op < 0xB0 then [.m]
  else if op < 0xC0 then [.a, .f, .m, .c]
  else if op < 0xD0 then [.m]
  else if op = 0xF0 then [.a, .f, .m, .c]
  else [.c]

/-- The system-context opcodes (R48, R49). -/
def systemOp (op : Nat) : Bool := op == 0x7B || op == 0x7C || (decide (0xD0 ≤ op) && decide (op ≤ 0xD7)) || (decide (0xF1 ≤ op) && decide (op ≤ 0xF9))

end Sys2Proof.Machine
end

