-- ==== Sys2Proof/Decode.lean ====
section
/-! DEFINITION. From slot words to instructions and back (R30 to R40, R49 and the encoding tables of the class chapters):
the decoder, total on any words, which names the refusal code and the bit of the field at fault, and the encoder. -/

namespace Sys2Proof

/-- Why a word is no instruction: the refusal code of R72 and the least significant bit of the faulting field (R73), with 32 added where the
field lies in the next slot's word. -/
structure DecErr where
  code : Nat
  lsb : Nat
  deriving DecidableEq, Repr

/-- Bits [hi:lo] of a word as a field of n bits. -/
def bf {n : Nat} (w hi lo : Nat) : BitVec n := BitVec.ofNat n (bitsN w hi lo)

/-- The code of a destination (R38). -/
def dstCode : Dst → Nat
  | .v k => k.toNat
  | .out k => 16 + k.toNat
  | .x k => 24 + k.toNat
  | .null => 28

/-- The code of a source (R38). -/
def srcCode : Src → Nat
  | .v k => k.toNat
  | .inp k => 16 + k.toNat
  | .x k => 24 + k.toNat
  | .lane => 28
  | .zero => 29
  | .lit _ => 30

/-- The destination a code names; 29 to 31 are refused (R38, R39). -/
def dstOf (c : Nat) : Option Dst :=
  if c < 16 then some (.v (BitVec.ofNat 4 c))
  else if c < 24 then some (.out (BitVec.ofNat 3 (c - 16)))
  else if c < 28 then some (.x (BitVec.ofNat 2 (c - 24)))
  else if c = 28 then some .null else none

/-- The next slot's word as a literal word: its TRIG is 63 (R34, R35). -/
def literalOf (nx : Option Nat) : Option Nat :=
  match nx with
  | none => none
  | some n => if bitsN n 31 26 = 63 then some (bitsN n 25 0) else none

/-- A literal that specifier 30 reads: form 0b11 has its bits [23:16] zero (R35). -/
def literalOk (n : Nat) : Bool := bitsN n 25 24 != 3 || bitsN n 23 16 == 0

/-- An instruction that needs a literal word has none: the next slot's TRIG is not 63, or it stands in slot 31 (R34). -/
def noLit (nx : Option Nat) : DecErr := match nx with | some _ => ⟨7, 58⟩ | none => ⟨7, 26⟩

/-- The source a code names, with the literal slot it reads; `at_` is the field's place. -/
def srcOf (c at_ : Nat) (nx : Option Nat) : Except DecErr Src :=
  if c < 16 then .ok (.v (BitVec.ofNat 4 c))
  else if c < 24 then .ok (.inp (BitVec.ofNat 3 (c - 16)))
  else if c < 28 then .ok (.x (BitVec.ofNat 2 (c - 24)))
  else if c = 28 then .ok .lane
  else if c = 29 then .ok .zero
  else if c = 30 then
    match literalOf nx with
    | some n => if literalOk n then .ok (.lit (BitVec.ofNat 26 n)) else .error ⟨7, 48⟩
    | none => .error (noLit nx)
  else .error ⟨5, at_⟩

/-- The first field of a list of (hi, lo, value, code) that does not hold its value. -/
def fixedOk (w : Nat) (l : List (Nat × Nat × Nat × Nat)) (k : Except DecErr Instr) : Except DecErr Instr :=
  match l with
  | [] => k
  | (hi, lo, v, e) :: t => if bitsN w hi lo = v then fixedOk w t k else .error ⟨e, lo⟩

/-- The first reserved field (hi, lo) of an instruction's own literal word that does not hold zero. -/
def litFixed (n : Nat) (l : List (Nat × Nat × Nat)) (k : Except DecErr Instr) : Except DecErr Instr :=
  match l with
  | [] => k
  | (hi, lo, v) :: t => if bitsN n hi lo = v then litFixed n t k else .error ⟨6, 32 + lo⟩

/-- The instruction's own literal word (R35), its reserved bits zero; an entry of this kind never takes specifier 30 (R56). -/
def ownLit (nx : Option Nat) (l : List (Nat × Nat × Nat)) (k : Nat → Except DecErr Instr) : Except DecErr Instr :=
  match literalOf nx with
  | none => .error (noLit nx)
  | some n => litFixed n l (k n)

/-- No specifier. -/
def spec0 (_w : Nat) (_nx : Option Nat) (i : Instr) : Except DecErr Instr := .ok i

/-- The destination at [17:13]. -/
def specD (w : Nat) (_nx : Option Nat) (f : Dst → Instr) : Except DecErr Instr :=
  match dstOf (bitsN w 17 13) with
  | some d => .ok (f d)
  | none => .error ⟨5, 13⟩

/-- The source at [12:8]. With no next word to read, specifier 30 is refused as an entry with its own literal refuses it. -/
def srcAt (w hi lo : Nat) (nx : Option Nat) (own : Bool) : Except DecErr Src :=
  if own && bitsN w hi lo == 30 then .error ⟨5, lo⟩ else srcOf (bitsN w hi lo) lo nx

/-- The source at [12:8] alone. -/
def specS (w : Nat) (nx : Option Nat) (f : Src → Instr) (own : Bool := false) : Except DecErr Instr :=
  match srcAt w 12 8 nx own with
  | .ok a => .ok (f a)
  | .error e => .error e

/-- Destination and source. -/
def specDS (w : Nat) (nx : Option Nat) (f : Dst → Src → Instr) (own : Bool := false) : Except DecErr Instr :=
  match dstOf (bitsN w 17 13) with
  | none => .error ⟨5, 13⟩
  | some d => specS w nx (f d) own

/-- Destination and two sources, at [12:8] and [7:3]. -/
def specDSS (w : Nat) (nx : Option Nat) (f : Dst → Src → Src → Instr) (own : Bool := false) : Except DecErr Instr :=
  match dstOf (bitsN w 17 13) with
  | none => .error ⟨5, 13⟩
  | some d =>
    match srcAt w 12 8 nx own with
    | .error e => .error e
    | .ok a =>
      match srcAt w 7 3 nx own with
      | .error e => .error e
      | .ok b => .ok (f d a b)

/-- Opcodes 0x00 to 0x1f. -/
def decodeControl (op w : Nat) (nx : Option Nat) : Except DecErr Instr :=
  match op with
  | 0 => fixedOk w [(17, 13, 0, 6), (12, 8, 0, 6), (7, 0, 0, 6)] (spec0 w nx (.nop))
  | 1 => fixedOk w [(17, 13, 0, 6)] (spec0 w nx (.idle (bf w 12 0)))
  | 2 => fixedOk w [(17, 13, 0, 6), (12, 8, 0, 6), (7, 0, 0, 6)] (spec0 w nx (.halt))
  | 3 => fixedOk w [(10, 8, 0, 6), (7, 1, 0, 6)] (spec0 w nx (.pset (bf w 17 16) (bf w 15 11) (bf w 0 0)))
  | 4 => fixedOk w [] (spec0 w nx (.plog (bf w 17 16) (bf w 15 11) (bf w 10 6) (bf w 5 1) (bf w 0 0)))
  | 5 => fixedOk w [] (spec0 w nx (.pany (bf w 17 16) (bf w 15 11) (bf w 10 6) (bf w 5 1) (bf w 0 0)))
  | 6 => fixedOk w [] (spec0 w nx (.pall (bf w 17 16) (bf w 15 11) (bf w 10 6) (bf w 5 1) (bf w 0 0)))
  | 7 => fixedOk w [(7, 3, 0, 6)] (specDS w nx (fun d a => .mov d a (bf w 2 0)))
  | 8 => fixedOk w [] (specD w nx (fun d => .movi d (bf w 12 0)))
  | 9 => fixedOk w [(11, 8, 0, 6)] (ownLit nx [(25, 24, 0)] fun n => specD w none (fun d => .lit d (bf w 12 12) (bf w 7 0) (bf n 23 0)))
  | 10 => fixedOk w [] (specDSS w nx (fun d a b => .sel d a b (bf w 2 0)))
  | 11 => fixedOk w [(17, 13, 28, 5), (7, 0, 0, 6)] (specS w nx (fun a => .deq a))
  | 12 => fixedOk w [] (specDS w nx (fun d a => .emit d a (bf w 7 4) (bf w 3 0)))
  | 13 => fixedOk w [] (specDS w nx (fun d a => .tagset d a (bf w 7 4) (bf w 3 0)))
  | 14 => fixedOk w [(7, 4, 0, 6)] (specDS w nx (fun d a => .hdread d a (bf w 3 0)))
  | 15 => fixedOk w [(12, 8, 0, 6), (7, 0, 0, 6)] (specD w nx (fun d => .fcount d))
  | 16 => fixedOk w [(17, 13, 28, 5), (7, 3, 0, 6)] (specS w nx (fun a => .maskset a (bf w 2 0)))
  | 17 => fixedOk w [(17, 13, 0, 6), (12, 8, 0, 6)] (spec0 w nx (.brk (bf w 7 0)))
  | _ => .error ⟨3, 18⟩

/-- Opcodes 0x20 to 0x3f. -/
def decodeInteger (op w : Nat) (nx : Option Nat) : Except DecErr Instr :=
  match op with
  | 32 => fixedOk w [] (specDSS w nx (fun d a b => .iadd d a b (bf w 2 0)))
  | 33 => fixedOk w [] (specDSS w nx (fun d a b => .isub d a b (bf w 2 0)))
  | 34 => fixedOk w [] (specDSS w nx (fun d a b => .imul d a b (bf w 2 0)))
  | 35 => fixedOk w [] (specDSS w nx (fun d a b => .imulh d a b (bf w 2 0)))
  | 36 => fixedOk w [] (specDSS w nx (fun d a b => .imad d a b (bf w 2 0)))
  | 37 => fixedOk w [] (specDS w nx (fun d a => .iaddi d a (bf w 7 0)))
  | 38 => fixedOk w [] (specDSS w nx (fun d a b => .imin d a b (bf w 2 0)))
  | 39 => fixedOk w [] (specDSS w nx (fun d a b => .imax d a b (bf w 2 0)))
  | 40 => fixedOk w [] (specDSS w nx (fun d a b => .and d a b (bf w 2 0)))
  | 41 => fixedOk w [] (specDSS w nx (fun d a b => .or d a b (bf w 2 0)))
  | 42 => fixedOk w [] (specDSS w nx (fun d a b => .xor d a b (bf w 2 0)))
  | 43 => fixedOk w [(2, 0, 0, 3)] (specDSS w nx (fun d a b => .shl d a b))
  | 44 => fixedOk w [] (specDSS w nx (fun d a b => .shr d a b (bf w 2 0)))
  | 45 => fixedOk w [] (specDSS w nx (fun d a b => .rot d a b (bf w 2 0)))
  | 46 => fixedOk w [] (specDSS w nx (fun d a b => .icmp d a b (bf w 2 0)))
  | 47 => fixedOk w [(6, 6, 0, 6)] (specDS w nx (fun d a => .isat d a (bf w 7 7) (bf w 5 0)))
  | 48 => fixedOk w [(7, 3, 0, 6)] (specDS w nx (fun d a => .bitc d a (bf w 2 0)))
  | 49 => fixedOk w [] (specDSS w nx (fun d a b => .bfx d a b (bf w 2 0)))
  | 50 => fixedOk w [(2, 0, 0, 3)] (specDSS w nx (fun d a b => .bfi d a b))
  | 51 => fixedOk w [] (specDSS w nx (fun d a b => .addr d a b (bf w 2 2) (bf w 1 0)))
  | 52 => fixedOk w [(17, 13, 28, 5), (3, 1, 0, 6)] (specS w nx (fun a => .cchain a (bf w 7 4) (bf w 0 0)))
  | 53 => fixedOk w [(12, 8, 0, 6), (7, 4, 0, 6)] (specD w nx (fun d => .cstep d (bf w 3 2) (bf w 1 0)))
  | 54 => fixedOk w [] (specDSS w nx (fun d a b => .lscan d a b (bf w 2 0)))
  | 55 => fixedOk w [] (specDSS w nx (fun d a b => .idiv d a b (bf w 2 0)))
  | _ => .error ⟨3, 18⟩

/-- Opcodes 0x40 to 0x5f. -/
def decodeFloat (op w : Nat) (nx : Option Nat) : Except DecErr Instr :=
  match op with
  | 64 => fixedOk w [] (specDSS w nx (fun d a b => .fadd d a b (bf w 2 0)))
  | 65 => fixedOk w [] (specDSS w nx (fun d a b => .fsub d a b (bf w 2 0)))
  | 66 => fixedOk w [] (specDSS w nx (fun d a b => .fmul d a b (bf w 2 0)))
  | 67 => fixedOk w [] (specDSS w nx (fun d a b => .ffma d a b (bf w 2 0)))
  | 68 => fixedOk w [(2, 0, 0, 3)] (specDSS w nx (fun d a b => .fmin d a b))
  | 69 => fixedOk w [(2, 0, 0, 3)] (specDSS w nx (fun d a b => .fmax d a b))
  | 70 => fixedOk w [(2, 0, 0, 3)] (specDSS w nx (fun d a b => .fminn d a b))
  | 71 => fixedOk w [(2, 0, 0, 3)] (specDSS w nx (fun d a b => .fmaxn d a b))
  | 72 => fixedOk w [] (specDSS w nx (fun d a b => .fcmp d a b (bf w 2 0)))
  | 73 => if bitsN w 2 0 = 3 ∨ bitsN w 2 0 = 4 then fixedOk w [(7, 3, 0, 6)] (specDS w nx (fun d a => .fsgn d a (.v 0) (bf w 2 0)))
    else specDSS w nx (fun d a b => .fsgn d a b (bf w 2 0))
  | 74 => fixedOk w [(7, 3, 0, 6)] (specDS w nx (fun d a => .frcp d a (bf w 2 0)))
  | 75 => fixedOk w [(7, 3, 0, 6)] (specDS w nx (fun d a => .frsq d a (bf w 2 0)))
  | 76 => fixedOk w [(7, 3, 0, 6)] (specDS w nx (fun d a => .fsqrt d a (bf w 2 0)))
  | 77 => fixedOk w [] (specDSS w nx (fun d a b => .fdiv d a b (bf w 2 0)))
  | 78 => fixedOk w [(7, 3, 0, 6)] (specDS w nx (fun d a => .fexp2 d a (bf w 2 0)))
  | 79 => fixedOk w [(7, 3, 0, 6)] (specDS w nx (fun d a => .flog2 d a (bf w 2 0)))
  | 80 => fixedOk w [(7, 3, 0, 6), (2, 0, 0, 3)] (specDS w nx (fun d a => .fred d a))
  | 81 => fixedOk w [(7, 3, 0, 6)] (specDS w nx (fun d a => .frmax d a (bf w 2 0)))
  | 82 => fixedOk w [(7, 3, 0, 6)] (specDS w nx (fun d a => .frmin d a (bf w 2 0)))
  | 83 => fixedOk w [] (specDS w nx (fun d a => .cvtf d a (bf w 7 7) (bf w 6 5) (bf w 4 3) (bf w 2 0)))
  | 84 => fixedOk w [(7, 7, 0, 6), (5, 5, 0, 6)] (specDS w nx (fun d a => .cvti d a (bf w 6 6) (bf w 4 3) (bf w 2 0)))
  | 85 => fixedOk w [(7, 7, 0, 6)] (specDS w nx (fun d a => .cvtif d a (bf w 6 6) (bf w 5 5) (bf w 4 3) (bf w 2 0)))
  | 86 => fixedOk w [(3, 0, 0, 6)] (specDS w nx (fun d a => .cvt4 d a (bf w 7 6) (bf w 5 5) (bf w 4 4)))
  | 87 => fixedOk w [(3, 2, 0, 6)] (specDS w nx (fun d a => .mxpack d a (bf w 7 4) (bf w 1 0)))
  | 88 => fixedOk w [(3, 2, 0, 6)] (specDS w nx (fun d a => .mxunpk d a (bf w 7 4) (bf w 1 0)))
  | 89 => fixedOk w [(4, 4, 0, 6)] (specDS w nx (fun d a => .scpack d a (bf w 7 7) (bf w 6 6) (bf w 5 5) (bf w 3 2) (bf w 1 0)))
  | 90 => fixedOk w [] (specDSS w nx (fun d a b => .scunpk d a b (bf w 2 2) (bf w 1 0)))
  | 91 => fixedOk w [(7, 0, 0, 6)] (specDS w nx (fun d a => .fclass d a))
  | 92 => if bitsN w 2 0 = 5 then specDSS w nx (fun d a b => .fround d a b (bf w 2 0))
    else fixedOk w [(7, 3, 0, 6)] (specDS w nx (fun d a => .fround d a (.v 0) (bf w 2 0)))
  | 93 => fixedOk w [] (specDSS w nx (fun d a b => .fscale d a b (bf w 2 0)))
  | _ => .error ⟨3, 18⟩

/-- Opcodes 0x70 to 0x7f. -/
def decodePool (op w : Nat) (nx : Option Nat) : Except DecErr Instr :=
  match op with
  | 112 => fixedOk w [(17, 13, 28, 5), (7, 0, 0, 6)] (specS w nx (fun a => .pcarve a))
  | 113 => fixedOk w [(12, 8, 29, 5), (7, 3, 0, 6)] (specD w nx (fun d => .pcommit d (bf w 2 2) (bf w 1 0)))
  | 114 => fixedOk w [(17, 13, 28, 5), (7, 0, 0, 6)] (specS w nx (fun a => .pmap a))
  | 115 => fixedOk w [(3, 2, 0, 6)] (specDS w nx (fun d a => .pstat d a (bf w 7 4) (bf w 1 0)))
  | 116 => fixedOk w [(7, 7, 0, 3), (3, 2, 0, 3)] (ownLit nx [] fun n => specDS w none (fun d a => .pgather d a (bf w 6 4) (bf w 1 0) (bf n 25 14) (bf n 13 7) (bf n 6 0)) true)
  | 117 => fixedOk w [(12, 8, 29, 5), (7, 0, 0, 6)] (ownLit nx [(21, 16, 0)] fun n => specD w none (fun d => .pissue d (bf n 25 24) (bf n 23 23) (bf n 22 22) (bf n 15 0)))
  | 118 => fixedOk w [(12, 8, 29, 5), (7, 0, 0, 6)] (ownLit nx [(22, 22, 0), (18, 16, 0)] fun n => specD w none (fun d => .pissuex d (bf n 25 24) (bf n 23 23) (bf n 21 19) (bf n 15 0)))
  | 119 => fixedOk w [(7, 4, 0, 6)] (ownLit nx [(15, 0, 0)] fun n => specDS w none (fun d a => .pdrain d a (bf w 3 3) (bf w 2 2) (bf w 1 0) (bf n 25 16)) true)
  | 120 => fixedOk w [(7, 2, 0, 6)] (ownLit nx [(15, 0, 0)] fun n => specDS w none (fun d a => .pclear d a (bf w 1 0) (bf n 25 16)) true)
  | 121 => fixedOk w [(7, 2, 0, 6)] (ownLit nx [(15, 0, 0)] fun n => specDS w none (fun d a => .psort d a (bf w 1 0) (bf n 25 16)) true)
  | 122 => fixedOk w [(12, 8, 29, 5), (7, 4, 0, 6)] (ownLit nx [(15, 0, 0)] fun n => specD w none (fun d => .psortk d (bf w 3 3) (bf w 2 2) (bf w 1 0) (bf n 25 16)))
  | 123 => fixedOk w [(7, 2, 0, 6)] (specDS w nx (fun d a => .psave d a (bf w 1 0)))
  | 124 => fixedOk w [(7, 6, 0, 6), (3, 2, 0, 6)] (specDS w nx (fun d a => .prestore d a (bf w 5 4) (bf w 1 0)))
  | 125 => fixedOk w [(12, 8, 29, 5), (3, 2, 0, 6)] (specD w nx (fun d => .pqstat d (bf w 7 4) (bf w 1 0)))
  | _ => .error ⟨3, 18⟩

/-- Opcodes 0x80 to 0x9f. -/
def decodeChannel (op w : Nat) (nx : Option Nat) : Except DecErr Instr :=
  match op with
  | 128 => fixedOk w [(2, 1, 0, 3)] (specDSS w nx (fun d a b => .steer d a b (bf w 0 0)))
  | 129 => fixedOk w [] (specDSS w nx (fun d a b => .merge d a b (bf w 2 0)))
  | 130 => fixedOk w [(2, 0, 0, 3)] (specDSS w nx (fun d a b => .lexit d a b))
  | 131 => fixedOk w [(2, 0, 0, 3)] (specDSS w nx (fun d a b => .gate d a b))
  | 132 => fixedOk w [(7, 2, 0, 6)] (specDS w nx (fun d a => .dup d a (bf w 1 0)))
  | 133 => fixedOk w [(2, 0, 0, 3)] (specDSS w nx (fun d a b => .zipt d a b))
  | 134 => fixedOk w [(12, 8, 29, 5), (3, 1, 0, 6)] (specD w nx (fun d => .talloc d (bf w 7 4) (bf w 0 0)))
  | 135 => fixedOk w [(17, 13, 28, 5), (3, 0, 0, 6)] (specS w nx (fun a => .tfree a (bf w 7 4)))
  | 136 => fixedOk w [(3, 1, 0, 6)] (specDS w nx (fun d a => .troute d a (bf w 7 4) (bf w 0 0)))
  | 137 => fixedOk w [(2, 2, 0, 6)] (specDSS w nx (fun d a b => .isect d a b (bf w 1 1) (bf w 0 0)))
  | 138 => fixedOk w [(2, 2, 0, 6)] (specDSS w nx (fun d a b => .union d a b (bf w 1 1) (bf w 0 0)))
  | 139 => fixedOk w [] (specDSS w nx (fun d a b => .fibre d a b (bf w 2 0)))
  | 140 => fixedOk w [(7, 0, 0, 6)] (specDS w nx (fun d a => .packv d a))
  | 141 => fixedOk w [(7, 2, 0, 6)] (specDS w nx (fun d a => .splitv d a (bf w 1 0)))
  | 142 => fixedOk w [(7, 3, 0, 6), (2, 0, 0, 3)] (specDS w nx (fun d a => .compact d a))
  | 143 => fixedOk w [(7, 4, 0, 6)] (specDS w nx (fun d a => .order d a (bf w 3 0)))
  | 144 => fixedOk w [] (specDSS w nx (fun d a b => .switch d a b (bf w 2 0)))
  | 145 => fixedOk w [(12, 8, 0, 6)] (specD w nx (fun d => .poison d (bf w 7 0)))
  | 146 => fixedOk w [(7, 1, 0, 6)] (specDS w nx (fun d a => .ends d a (bf w 0 0)))
  | 147 => fixedOk w [(12, 8, 29, 5), (7, 4, 0, 6)] (specD w nx (fun d => .chocc d (bf w 3 0)))
  | _ => .error ⟨3, 18⟩

/-- Opcodes 0xa0 to 0xaf. -/
def decodeMemory (op w : Nat) (nx : Option Nat) : Except DecErr Instr :=
  match op with
  | 160 => fixedOk w [(7, 3, 0, 6), (2, 0, 0, 3)] (specDS w nx (fun d a => .vld d a))
  | 161 => fixedOk w [(2, 0, 0, 3)] (specDSS w nx (fun d a b => .vst d a b))
  | 162 => fixedOk w [(2, 2, 0, 6)] (specDSS w nx (fun d a b => .vldx d a b (bf w 1 0)))
  | 163 => fixedOk w [(2, 2, 0, 6)] (specDSS w nx (fun d a b => .vstx d a b (bf w 1 0)))
  | 164 => fixedOk w [(7, 3, 0, 6)] (specDS w nx (fun d a => .gld d a (bf w 2 2) (bf w 1 0)))
  | 165 => fixedOk w [] (specDSS w nx (fun d a b => .gst d a b (bf w 2 2) (bf w 1 0)))
  | 166 => fixedOk w [(17, 13, 28, 5), (5, 4, 0, 6), (2, 2, 0, 6)] (specS w nx (fun a => .sport a (bf w 7 6) (bf w 3 3) (bf w 1 0)))
  | 167 => fixedOk w [(5, 1, 0, 6)] (specDS w nx (fun d a => .sreq d a (bf w 7 6) (bf w 0 0)))
  | 168 => fixedOk w [(5, 0, 0, 6)] (specDS w nx (fun d a => .sgath d a (bf w 7 6)))
  | 169 => fixedOk w [] (ownLit nx [(13, 0, 0)] fun n => specDSS w none (fun d a b => .tilest d a b (bf w 2 0) (bf n 25 14)) true)
  | 170 => fixedOk w [(12, 8, 29, 5), (7, 4, 0, 6)] (ownLit nx [(13, 0, 0)] fun n => specD w none (fun d => .tileq d (bf w 3 0) (bf n 25 14)))
  | 171 => fixedOk w [] (ownLit nx [(24, 14, 0)] fun n => specDS w none (fun d a => .valloc d a (bf w 7 4) (bf w 3 0) (bf n 25 25) (bf n 13 0)) true)
  | 172 => fixedOk w [(17, 13, 28, 5), (7, 0, 0, 6)] (specS w nx (fun a => .vfree a))
  | 173 => fixedOk w [(17, 13, 28, 5), (5, 4, 0, 6)] (specS w nx (fun a => .pref a (bf w 7 6) (bf w 3 0)))
  | 174 => fixedOk w [] (specDS w nx (fun d a => .glda d a (bf w 7 4) (bf w 3 3) (bf w 2 2) (bf w 1 0)))
  | 175 => fixedOk w [] (specDS w nx (fun d a => .gstr d a (bf w 7 4) (bf w 3 3) (bf w 2 2) (bf w 1 0)))
  | _ => .error ⟨3, 18⟩

/-- Opcodes 0xb0 to 0xbf. -/
def decodeOrdering (op w : Nat) (nx : Option Nat) : Except DecErr Instr :=
  match op with
  | 176 => fixedOk w [(17, 13, 28, 5), (12, 8, 29, 5), (3, 2, 0, 6)] (spec0 w nx (.fence (bf w 7 4) (bf w 1 0)))
  | 177 => fixedOk w [(12, 8, 29, 5), (7, 0, 0, 6)] (specD w nx (fun d => .fencex d))
  | 178 => fixedOk w [(12, 8, 29, 5), (7, 0, 0, 6)] (specD w nx (fun d => .fencep d))
  | 179 => fixedOk w [(7, 2, 0, 6)] (specDS w nx (fun d a => .seqkey d a (bf w 1 0)))
  | 180 => fixedOk w [(17, 13, 28, 5), (12, 8, 29, 5), (7, 1, 0, 6)] (spec0 w nx (.perfw (bf w 0 0)))
  | 181 => fixedOk w [(17, 13, 28, 5), (7, 0, 0, 6)] (specS w nx (fun a => .mcsync a))
  | _ => .error ⟨3, 18⟩

/-- Opcodes 0xc0 to 0xcf. -/
def decodeAtomics (op w : Nat) (nx : Option Nat) : Except DecErr Instr :=
  match op with
  | 192 => fixedOk w [(1, 0, 0, 3)] (specDS w nx (fun d a => .aadd d a (bf w 7 7) (bf w 6 6) (bf w 5 5) (bf w 4 4) (bf w 3 2)))
  | 193 => fixedOk w [(1, 0, 0, 3)] (specDS w nx (fun d a => .aand d a (bf w 7 7) (bf w 6 6) (bf w 5 5) (bf w 4 4) (bf w 3 2)))
  | 194 => fixedOk w [(1, 0, 0, 3)] (specDS w nx (fun d a => .aor d a (bf w 7 7) (bf w 6 6) (bf w 5 5) (bf w 4 4) (bf w 3 2)))
  | 195 => fixedOk w [(1, 0, 0, 3)] (specDS w nx (fun d a => .axor d a (bf w 7 7) (bf w 6 6) (bf w 5 5) (bf w 4 4) (bf w 3 2)))
  | 196 => fixedOk w [(1, 1, 0, 3)] (specDS w nx (fun d a => .amin d a (bf w 7 7) (bf w 6 6) (bf w 5 5) (bf w 4 4) (bf w 3 2) (bf w 0 0)))
  | 197 => fixedOk w [(1, 1, 0, 3)] (specDS w nx (fun d a => .amax d a (bf w 7 7) (bf w 6 6) (bf w 5 5) (bf w 4 4) (bf w 3 2) (bf w 0 0)))
  | 198 => fixedOk w [(1, 0, 0, 3)] (specDS w nx (fun d a => .axchg d a (bf w 7 7) (bf w 6 6) (bf w 5 5) (bf w 4 4) (bf w 3 2)))
  | 199 => fixedOk w [(1, 0, 0, 3)] (specDS w nx (fun d a => .acas d a (bf w 7 7) (bf w 6 6) (bf w 5 5) (bf w 4 4) (bf w 3 2)))
  | 200 => fixedOk w [(6, 6, 0, 3), (1, 0, 0, 3)] (specDS w nx (fun d a => .afadd d a (bf w 7 7) (bf w 5 5) (bf w 4 4) (bf w 3 2)))
  | 201 => fixedOk w [(6, 6, 0, 3), (1, 0, 0, 3)] (specDS w nx (fun d a => .afmin d a (bf w 7 7) (bf w 5 5) (bf w 4 4) (bf w 3 2)))
  | 202 => fixedOk w [(6, 6, 0, 3), (1, 0, 0, 3)] (specDS w nx (fun d a => .afmax d a (bf w 7 7) (bf w 5 5) (bf w 4 4) (bf w 3 2)))
  | 203 => fixedOk w [(7, 6, 0, 3), (1, 0, 0, 3)] (specDS w nx (fun d a => .awadd d a (bf w 5 5) (bf w 4 4) (bf w 3 2)))
  | 204 => fixedOk w [] (specDS w nx (fun d a => .ainc d a (bf w 7 7) (bf w 6 6) (bf w 5 5) (bf w 4 4) (bf w 3 2) (bf w 1 0)))
  | 205 => fixedOk w [] (specDS w nx (fun d a => .abit d a (bf w 7 7) (bf w 6 6) (bf w 5 5) (bf w 4 4) (bf w 3 2) (bf w 1 0)))
  | _ => .error ⟨3, 18⟩

/-- Opcodes 0xd0 to 0xe7. -/
def decodeAsync (op w : Nat) (nx : Option Nat) : Except DecErr Instr :=
  match op with
  | 208 => fixedOk w [(3, 0, 0, 6)] (ownLit nx [(13, 0, 0)] fun n => specDS w none (fun d a => .map d a (bf w 7 6) (bf w 5 4) (bf n 25 14)) true)
  | 209 => fixedOk w [(3, 0, 0, 6)] (ownLit nx [(13, 0, 0)] fun n => specDS w none (fun d a => .unmap d a (bf w 7 6) (bf w 5 4) (bf n 25 14)) true)
  | 210 => fixedOk w [(7, 6, 0, 6), (3, 3, 0, 6)] (ownLit nx [(13, 0, 0)] fun n => specDS w none (fun d a => .protect d a (bf w 5 4) (bf w 2 2) (bf w 1 1) (bf w 0 0) (bf n 25 14)) true)
  | 211 => fixedOk w [(7, 6, 0, 6), (3, 0, 0, 6)] (ownLit nx [(13, 0, 0)] fun n => specDS w none (fun d a => .migrate d a (bf w 5 4) (bf n 25 14)) true)
  | 212 => fixedOk w [(7, 2, 0, 6)] (ownLit nx [(13, 0, 0)] fun n => specDS w none (fun d a => .xinval d a (bf w 1 0) (bf n 25 14)) true)
  | 213 => fixedOk w [(7, 6, 0, 6), (3, 2, 0, 6)] (ownLit nx [(13, 0, 0)] fun n => specDS w none (fun d a => .adread d a (bf w 5 4) (bf w 1 1) (bf w 0 0) (bf n 25 14)) true)
  | 214 => fixedOk w [(7, 0, 0, 6)] (ownLit nx [(13, 0, 0)] fun n => specDS w none (fun d a => .xprobe d a (bf n 25 14)) true)
  | 215 => fixedOk w [(12, 8, 29, 5), (7, 0, 0, 6)] (ownLit nx [(13, 0, 0)] fun n => specD w none (fun d => .xsync d (bf n 25 14)))
  | 216 => fixedOk w [(7, 2, 0, 6)] (ownLit nx [(17, 12, 0)] fun n => specDS w none (fun d a => .copy d a (bf w 1 0) (bf n 25 25) (bf n 24 19) (bf n 18 18) (bf n 11 8) (bf n 7 4) (bf n 3 0)) true)
  | 217 => fixedOk w [(2, 1, 0, 3)] (specDSS w nx (fun d a b => .dtoken d a b (bf w 0 0)))
  | 218 => fixedOk w [] (specDS w nx (fun d a => .tbarr d a (bf w 7 2) (bf w 1 0)))
  | 219 => fixedOk w [(1, 0, 0, 6)] (specDS w nx (fun d a => .tbwait d a (bf w 7 2)))
  | 220 => fixedOk w [(7, 0, 0, 6)] (specDS w nx (fun d a => .tbany d a))
  | 221 => fixedOk w [] (specDS w nx (fun d a => .nbar d a (bf w 7 3) (bf w 2 0)))
  | 222 => fixedOk w [(3, 1, 0, 6)] (specDS w nx (fun d a => .gbar d a (bf w 7 5) (bf w 4 4) (bf w 0 0)))
  | 223 => fixedOk w [(7, 1, 0, 6)] (specDS w nx (fun d a => .timew d a (bf w 0 0)))
  | 224 => fixedOk w [(12, 8, 29, 5), (7, 1, 0, 6)] (specD w nx (fun d => .timer d (bf w 0 0)))
  | 225 => fixedOk w [(2, 0, 0, 6)] (specDSS w nx (fun d a b => .rand d a b))
  | _ => .error ⟨3, 18⟩

/-- Opcodes 0xe8 to 0xef. -/
def decodeLaunch (op w : Nat) (nx : Option Nat) : Except DecErr Instr :=
  match op with
  | 232 => fixedOk w [(7, 1, 0, 6)] (specDS w nx (fun d a => .launch d a (bf w 0 0)))
  | 233 => fixedOk w [(7, 0, 0, 6)] (specDS w nx (fun d a => .joinc d a))
  | 234 => if bitsN w 3 0 = 1 then fixedOk w [(17, 13, 28, 5), (7, 4, 0, 6), (3, 0, 1, 3)] (ownLit nx [(25, 12, 0)] fun n => specS w none (fun a => .cfgnextPost a (bf n 11 0)) true) else fixedOk w [(17, 13, 28, 5), (12, 8, 29, 5), (3, 0, 0, 3)] (spec0 w nx (.cfgnextStep (bf w 7 4)))
  | 235 => fixedOk w [] (specDS w nx (fun d a => .strand d a (bf w 7 4) (bf w 3 0)))
  | 236 => fixedOk w [(7, 1, 0, 6)] (specDS w nx (fun d a => .retire d a (bf w 0 0)))
  | 237 => fixedOk w [] (specDS w nx (fun d a => .prio d a (bf w 7 4) (bf w 3 0)))
  | _ => .error ⟨3, 18⟩

/-- Opcodes 0xf0 to 0xff. -/
def decodeSystem (op w : Nat) (nx : Option Nat) : Except DecErr Instr :=
  match op with
  | 240 => fixedOk w [(17, 13, 0, 6)] (specS w nx (fun a => .trap a (bf w 7 0)))
  | 241 => fixedOk w [(7, 4, 0, 6)] (specDS w nx (fun d a => .tret d a (bf w 3 0)))
  | 242 => fixedOk w [(17, 13, 28, 5), (7, 4, 0, 6)] (specS w nx (fun a => .ctxsw a (bf w 3 0)))
  | 243 => fixedOk w [(7, 4, 0, 6)] (specDS w nx (fun d a => .qstop d a (bf w 3 0)))
  | 244 => fixedOk w [(7, 4, 0, 6)] (specDS w nx (fun d a => .errlog d a (bf w 3 0)))
  | 245 => fixedOk w [(7, 0, 0, 6)] (specDS w nx (fun d a => .mcmp d a))
  | 246 => fixedOk w [(7, 0, 0, 6)] (specDS w nx (fun d a => .attest d a))
  | 247 => fixedOk w [(7, 0, 0, 6)] (specDS w nx (fun d a => .cfgld d a))
  | 248 => fixedOk w [(7, 4, 0, 6)] (specDS w nx (fun d a => .cfgsig d a (bf w 3 0)))
  | 249 => fixedOk w [(3, 0, 0, 6)] (specDS w nx (fun d a => .sysrd d a (bf w 7 4)))
  | _ => .error ⟨3, 18⟩

/-- The instruction of opcode `op` in word `w`, with the next slot's word if there is one (R49). -/
def decodeOp (op w : Nat) (nx : Option Nat) : Except DecErr Instr :=
  if op < 0x20 then decodeControl op w nx
  else if op < 0x40 then decodeInteger op w nx
  else if op < 0x60 then decodeFloat op w nx
  else if op < 0x80 then decodePool op w nx
  else if op < 0xA0 then decodeChannel op w nx
  else if op < 0xB0 then decodeMemory op w nx
  else if op < 0xC0 then decodeOrdering op w nx
  else if op < 0xD0 then decodeAtomics op w nx
  else if op < 0xE8 then decodeAsync op w nx
  else if op < 0xF0 then decodeLaunch op w nx
  else decodeSystem op w nx

/-- The instruction of a slot word and the word of the next slot (none for slot 31). TRIG is not part of it. -/
def decode (w : Word) (nx : Option Word) : Except DecErr Instr :=
  decodeOp (bitsN w.toNat 25 18) w.toNat (nx.map BitVec.toNat)

/-- The literal an instruction's sources read, if one does. -/
def litOf : List Src → Option Nat
  | [] => none
  | .lit w :: _ => some w.toNat
  | _ :: t => litOf t

/-- A slot word from TRIG, OP and the operand field, with the literal slot if there is one. -/
def word (t : BitVec 6) (op operand : Nat) (lit : Option Nat) : Option (Word × Option Word) :=
  some (BitVec.ofNat 32 (t.toNat * 2 ^ 26 + op * 2 ^ 18 + operand), lit.map fun n => BitVec.ofNat 32 (63 * 2 ^ 26 + n))

/-- The words of an instruction under rule index t (R30, R32, R35). The part's own events have none. -/
def encode (t : BitVec 6) (i : Instr) : Option (Word × Option Word) :=
  match i with
  | .nop => word t 0 (0) none
  | .idle i => word t 1 (i.toNat) none
  | .halt => word t 2 (0) none
  | .pset k d v => word t 3 (k.toNat * 65536 + d.toNat * 2048 + v.toNat) none
  | .plog k d a b v => word t 4 (k.toNat * 65536 + d.toNat * 2048 + a.toNat * 64 + b.toNat * 2 + v.toNat) none
  | .pany k d a b v => word t 5 (k.toNat * 65536 + d.toNat * 2048 + a.toNat * 64 + b.toNat * 2 + v.toNat) none
  | .pall k d a b v => word t 6 (k.toNat * 65536 + d.toNat * 2048 + a.toNat * 64 + b.toNat * 2 + v.toNat) none
  | .mov d a m => word t 7 (dstCode d * 8192 + srcCode a * 256 + m.toNat) (litOf [a])
  | .movi d i => word t 8 (dstCode d * 8192 + i.toNat) none
  | .lit d zx hi lo => word t 9 (dstCode d * 8192 + zx.toNat * 4096 + hi.toNat) (some (lo.toNat))
  | .sel d a b m => word t 10 (dstCode d * 8192 + srcCode a * 256 + srcCode b * 8 + m.toNat) (litOf [a, b])
  | .deq a => word t 11 (28 * 8192 + srcCode a * 256) (litOf [a])
  | .emit d a g c => word t 12 (dstCode d * 8192 + srcCode a * 256 + g.toNat * 16 + c.toNat) (litOf [a])
  | .tagset d a g c => word t 13 (dstCode d * 8192 + srcCode a * 256 + g.toNat * 16 + c.toNat) (litOf [a])
  | .hdread d a c => word t 14 (dstCode d * 8192 + srcCode a * 256 + c.toNat) (litOf [a])
  | .fcount d => word t 15 (dstCode d * 8192) none
  | .maskset a m => word t 16 (28 * 8192 + srcCode a * 256 + m.toNat) (litOf [a])
  | .brk i => word t 17 (i.toNat) none
  | .iadd d a b m => word t 32 (dstCode d * 8192 + srcCode a * 256 + srcCode b * 8 + m.toNat) (litOf [a, b])
  | .isub d a b m => word t 33 (dstCode d * 8192 + srcCode a * 256 + srcCode b * 8 + m.toNat) (litOf [a, b])
  | .imul d a b m => word t 34 (dstCode d * 8192 + srcCode a * 256 + srcCode b * 8 + m.toNat) (litOf [a, b])
  | .imulh d a b m => word t 35 (dstCode d * 8192 + srcCode a * 256 + srcCode b * 8 + m.toNat) (litOf [a, b])
  | .imad d a b m => word t 36 (dstCode d * 8192 + srcCode a * 256 + srcCode b * 8 + m.toNat) (litOf [a, b])
  | .iaddi d a i => word t 37 (dstCode d * 8192 + srcCode a * 256 + i.toNat) (litOf [a])
  | .imin d a b m => word t 38 (dstCode d * 8192 + srcCode a * 256 + srcCode b * 8 + m.toNat) (litOf [a, b])
  | .imax d a b m => word t 39 (dstCode d * 8192 + srcCode a * 256 + srcCode b * 8 + m.toNat) (litOf [a, b])
  | .and d a b m => word t 40 (dstCode d * 8192 + srcCode a * 256 + srcCode b * 8 + m.toNat) (litOf [a, b])
  | .or d a b m => word t 41 (dstCode d * 8192 + srcCode a * 256 + srcCode b * 8 + m.toNat) (litOf [a, b])
  | .xor d a b m => word t 42 (dstCode d * 8192 + srcCode a * 256 + srcCode b * 8 + m.toNat) (litOf [a, b])
  | .shl d a b => word t 43 (dstCode d * 8192 + srcCode a * 256 + srcCode b * 8) (litOf [a, b])
  | .shr d a b m => word t 44 (dstCode d * 8192 + srcCode a * 256 + srcCode b * 8 + m.toNat) (litOf [a, b])
  | .rot d a b m => word t 45 (dstCode d * 8192 + srcCode a * 256 + srcCode b * 8 + m.toNat) (litOf [a, b])
  | .icmp d a b m => word t 46 (dstCode d * 8192 + srcCode a * 256 + srcCode b * 8 + m.toNat) (litOf [a, b])
  | .isat d a s w => word t 47 (dstCode d * 8192 + srcCode a * 256 + s.toNat * 128 + w.toNat) (litOf [a])
  | .bitc d a m => word t 48 (dstCode d * 8192 + srcCode a * 256 + m.toNat) (litOf [a])
  | .bfx d a b m => word t 49 (dstCode d * 8192 + srcCode a * 256 + srcCode b * 8 + m.toNat) (litOf [a, b])
  | .bfi d a b => word t 50 (dstCode d * 8192 + srcCode a * 256 + srcCode b * 8) (litOf [a, b])
  | .addr d a b h n => word t 51 (dstCode d * 8192 + srcCode a * 256 + srcCode b * 8 + h.toNat * 4 + n.toNat) (litOf [a, b])
  | .cchain a g p => word t 52 (28 * 8192 + srcCode a * 256 + g.toNat * 16 + p.toNat) (litOf [a])
  | .cstep d w m => word t 53 (dstCode d * 8192 + w.toNat * 4 + m.toNat) none
  | .lscan d a b m => word t 54 (dstCode d * 8192 + srcCode a * 256 + srcCode b * 8 + m.toNat) (litOf [a, b])
  | .idiv d a b m => word t 55 (dstCode d * 8192 + srcCode a * 256 + srcCode b * 8 + m.toNat) (litOf [a, b])
  | .fadd d a b m => word t 64 (dstCode d * 8192 + srcCode a * 256 + srcCode b * 8 + m.toNat) (litOf [a, b])
  | .fsub d a b m => word t 65 (dstCode d * 8192 + srcCode a * 256 + srcCode b * 8 + m.toNat) (litOf [a, b])
  | .fmul d a b m => word t 66 (dstCode d * 8192 + srcCode a * 256 + srcCode b * 8 + m.toNat) (litOf [a, b])
  | .ffma d a b m => word t 67 (dstCode d * 8192 + srcCode a * 256 + srcCode b * 8 + m.toNat) (litOf [a, b])
  | .fmin d a b => word t 68 (dstCode d * 8192 + srcCode a * 256 + srcCode b * 8) (litOf [a, b])
  | .fmax d a b => word t 69 (dstCode d * 8192 + srcCode a * 256 + srcCode b * 8) (litOf [a, b])
  | .fminn d a b => word t 70 (dstCode d * 8192 + srcCode a * 256 + srcCode b * 8) (litOf [a, b])
  | .fmaxn d a b => word t 71 (dstCode d * 8192 + srcCode a * 256 + srcCode b * 8) (litOf [a, b])
  | .fcmp d a b m => word t 72 (dstCode d * 8192 + srcCode a * 256 + srcCode b * 8 + m.toNat) (litOf [a, b])
  | .fsgn d a b m => word t 73 (dstCode d * 8192 + srcCode a * 256 + srcCode b * 8 + m.toNat) (litOf [a, b])
  | .frcp d a m => word t 74 (dstCode d * 8192 + srcCode a * 256 + m.toNat) (litOf [a])
  | .frsq d a m => word t 75 (dstCode d * 8192 + srcCode a * 256 + m.toNat) (litOf [a])
  | .fsqrt d a m => word t 76 (dstCode d * 8192 + srcCode a * 256 + m.toNat) (litOf [a])
  | .fdiv d a b m => word t 77 (dstCode d * 8192 + srcCode a * 256 + srcCode b * 8 + m.toNat) (litOf [a, b])
  | .fexp2 d a m => word t 78 (dstCode d * 8192 + srcCode a * 256 + m.toNat) (litOf [a])
  | .flog2 d a m => word t 79 (dstCode d * 8192 + srcCode a * 256 + m.toNat) (litOf [a])
  | .fred d a => word t 80 (dstCode d * 8192 + srcCode a * 256) (litOf [a])
  | .frmax d a m => word t 81 (dstCode d * 8192 + srcCode a * 256 + m.toNat) (litOf [a])
  | .frmin d a m => word t 82 (dstCode d * 8192 + srcCode a * 256 + m.toNat) (litOf [a])
  | .cvtf d a r f p n => word t 83 (dstCode d * 8192 + srcCode a * 256 + r.toNat * 128 + f.toNat * 32 + p.toNat * 8 + n.toNat) (litOf [a])
  | .cvti d a s p n => word t 84 (dstCode d * 8192 + srcCode a * 256 + s.toNat * 64 + p.toNat * 8 + n.toNat) (litOf [a])
  | .cvtif d a s u p n => word t 85 (dstCode d * 8192 + srcCode a * 256 + s.toNat * 64 + u.toNat * 32 + p.toNat * 8 + n.toNat) (litOf [a])
  | .cvt4 d a k s h => word t 86 (dstCode d * 8192 + srcCode a * 256 + k.toNat * 64 + s.toNat * 32 + h.toNat * 16) (litOf [a])
  | .mxpack d a p x => word t 87 (dstCode d * 8192 + srcCode a * 256 + p.toNat * 16 + x.toNat) (litOf [a])
  | .mxunpk d a p x => word t 88 (dstCode d * 8192 + srcCode a * 256 + p.toNat * 16 + x.toNat) (litOf [a])
  | .scpack d a k f s p n => word t 89 (dstCode d * 8192 + srcCode a * 256 + k.toNat * 128 + f.toNat * 64 + s.toNat * 32 + p.toNat * 4 + n.toNat) (litOf [a])
  | .scunpk d a b f p => word t 90 (dstCode d * 8192 + srcCode a * 256 + srcCode b * 8 + f.toNat * 4 + p.toNat) (litOf [a, b])
  | .fclass d a => word t 91 (dstCode d * 8192 + srcCode a * 256) (litOf [a])
  | .fround d a b m => word t 92 (dstCode d * 8192 + srcCode a * 256 + srcCode b * 8 + m.toNat) (litOf [a, b])
  | .fscale d a b m => word t 93 (dstCode d * 8192 + srcCode a * 256 + srcCode b * 8 + m.toNat) (litOf [a, b])
  | .pcarve a => word t 112 (28 * 8192 + srcCode a * 256) (litOf [a])
  | .pcommit d l s => word t 113 (dstCode d * 8192 + 29 * 256 + l.toNat * 4 + s.toNat) none
  | .pmap a => word t 114 (28 * 8192 + srcCode a * 256) (litOf [a])
  | .pstat d a g s => word t 115 (dstCode d * 8192 + srcCode a * 256 + g.toNat * 16 + s.toNat) (litOf [a])
  | .pgather d a l s tile col wid => word t 116 (dstCode d * 8192 + srcCode a * 256 + l.toNat * 16 + s.toNat) (some (tile.toNat * 16384 + col.toNat * 128 + wid.toNat))
  | .pissue d s all load n => word t 117 (dstCode d * 8192 + 29 * 256) (some (s.toNat * 16777216 + all.toNat * 8388608 + load.toNat * 4194304 + n.toNat))
  | .pissuex d s all b n => word t 118 (dstCode d * 8192 + 29 * 256) (some (s.toNat * 16777216 + all.toNat * 8388608 + b.toNat * 524288 + n.toNat))
  | .pdrain d a clr to_ s gid => word t 119 (dstCode d * 8192 + srcCode a * 256 + clr.toNat * 8 + to_.toNat * 4 + s.toNat) (some (gid.toNat * 65536))
  | .pclear d a s gid => word t 120 (dstCode d * 8192 + srcCode a * 256 + s.toNat) (some (gid.toNat * 65536))
  | .psort d a s gid => word t 121 (dstCode d * 8192 + srcCode a * 256 + s.toNat) (some (gid.toNat * 65536))
  | .psortk d idx desc s gid => word t 122 (dstCode d * 8192 + 29 * 256 + idx.toNat * 8 + desc.toNat * 4 + s.toNat) (some (gid.toNat * 65536))
  | .psave d a s => word t 123 (dstCode d * 8192 + srcCode a * 256 + s.toNat) (litOf [a])
  | .prestore d a c s => word t 124 (dstCode d * 8192 + srcCode a * 256 + c.toNat * 16 + s.toNat) (litOf [a])
  | .pqstat d g s => word t 125 (dstCode d * 8192 + 29 * 256 + g.toNat * 16 + s.toNat) none
  | .steer d a b m => word t 128 (dstCode d * 8192 + srcCode a * 256 + srcCode b * 8 + m.toNat) (litOf [a, b])
  | .merge d a b m => word t 129 (dstCode d * 8192 + srcCode a * 256 + srcCode b * 8 + m.toNat) (litOf [a, b])
  | .lexit d a b => word t 130 (dstCode d * 8192 + srcCode a * 256 + srcCode b * 8) (litOf [a, b])
  | .gate d a b => word t 131 (dstCode d * 8192 + srcCode a * 256 + srcCode b * 8) (litOf [a, b])
  | .dup d a n => word t 132 (dstCode d * 8192 + srcCode a * 256 + n.toNat) (litOf [a])
  | .zipt d a b => word t 133 (dstCode d * 8192 + srcCode a * 256 + srcCode b * 8) (litOf [a, b])
  | .talloc d g s => word t 134 (dstCode d * 8192 + 29 * 256 + g.toNat * 16 + s.toNat) none
  | .tfree a g => word t 135 (28 * 8192 + srcCode a * 256 + g.toNat * 16) (litOf [a])
  | .troute d a g v => word t 136 (dstCode d * 8192 + srcCode a * 256 + g.toNat * 16 + v.toNat) (litOf [a])
  | .isect d a b q p => word t 137 (dstCode d * 8192 + srcCode a * 256 + srcCode b * 8 + q.toNat * 2 + p.toNat) (litOf [a, b])
  | .union d a b q p => word t 138 (dstCode d * 8192 + srcCode a * 256 + srcCode b * 8 + q.toNat * 2 + p.toNat) (litOf [a, b])
  | .fibre d a b m => word t 139 (dstCode d * 8192 + srcCode a * 256 + srcCode b * 8 + m.toNat) (litOf [a, b])
  | .packv d a => word t 140 (dstCode d * 8192 + srcCode a * 256) (litOf [a])
  | .splitv d a w => word t 141 (dstCode d * 8192 + srcCode a * 256 + w.toNat) (litOf [a])
  | .compact d a => word t 142 (dstCode d * 8192 + srcCode a * 256) (litOf [a])
  | .order d a c => word t 143 (dstCode d * 8192 + srcCode a * 256 + c.toNat) (litOf [a])
  | .switch d a b m => word t 144 (dstCode d * 8192 + srcCode a * 256 + srcCode b * 8 + m.toNat) (litOf [a, b])
  | .poison d i => word t 145 (dstCode d * 8192 + i.toNat) none
  | .ends d a s => word t 146 (dstCode d * 8192 + srcCode a * 256 + s.toNat) (litOf [a])
  | .chocc d c => word t 147 (dstCode d * 8192 + 29 * 256 + c.toNat) none
  | .vld d a => word t 160 (dstCode d * 8192 + srcCode a * 256) (litOf [a])
  | .vst d a b => word t 161 (dstCode d * 8192 + srcCode a * 256 + srcCode b * 8) (litOf [a, b])
  | .vldx d a b n => word t 162 (dstCode d * 8192 + srcCode a * 256 + srcCode b * 8 + n.toNat) (litOf [a, b])
  | .vstx d a b n => word t 163 (dstCode d * 8192 + srcCode a * 256 + srcCode b * 8 + n.toNat) (litOf [a, b])
  | .gld d a h p => word t 164 (dstCode d * 8192 + srcCode a * 256 + h.toNat * 4 + p.toNat) (litOf [a])
  | .gst d a b h p => word t 165 (dstCode d * 8192 + srcCode a * 256 + srcCode b * 8 + h.toNat * 4 + p.toNat) (litOf [a, b])
  | .sport a p u m => word t 166 (28 * 8192 + srcCode a * 256 + p.toNat * 64 + u.toNat * 8 + m.toNat) (litOf [a])
  | .sreq d a p w => word t 167 (dstCode d * 8192 + srcCode a * 256 + p.toNat * 64 + w.toNat) (litOf [a])
  | .sgath d a p => word t 168 (dstCode d * 8192 + srcCode a * 256 + p.toNat * 64) (litOf [a])
  | .tilest d a b m tile => word t 169 (dstCode d * 8192 + srcCode a * 256 + srcCode b * 8 + m.toNat) (some (tile.toNat * 16384))
  | .tileq d o tile => word t 170 (dstCode d * 8192 + 29 * 256 + o.toNat) (some (tile.toNat * 16384))
  | .valloc d a v f at_ off => word t 171 (dstCode d * 8192 + srcCode a * 256 + v.toNat * 16 + f.toNat) (some (at_.toNat * 33554432 + off.toNat))
  | .vfree a => word t 172 (28 * 8192 + srcCode a * 256) (litOf [a])
  | .pref a p n => word t 173 (28 * 8192 + srcCode a * 256 + p.toNat * 64 + n.toNat) (litOf [a])
  | .glda d a g w v p => word t 174 (dstCode d * 8192 + srcCode a * 256 + g.toNat * 16 + w.toNat * 8 + v.toNat * 4 + p.toNat) (litOf [a])
  | .gstr d a g w v p => word t 175 (dstCode d * 8192 + srcCode a * 256 + g.toNat * 16 + w.toNat * 8 + v.toNat * 4 + p.toNat) (litOf [a])
  | .fence g k => word t 176 (28 * 8192 + 29 * 256 + g.toNat * 16 + k.toNat) none
  | .fencex d => word t 177 (dstCode d * 8192 + 29 * 256) none
  | .fencep d => word t 178 (dstCode d * 8192 + 29 * 256) none
  | .seqkey d a k => word t 179 (dstCode d * 8192 + srcCode a * 256 + k.toNat) (litOf [a])
  | .perfw c => word t 180 (28 * 8192 + 29 * 256 + c.toNat) none
  | .mcsync a => word t 181 (28 * 8192 + srcCode a * 256) (litOf [a])
  | .aadd d a h w v n p => word t 192 (dstCode d * 8192 + srcCode a * 256 + h.toNat * 128 + w.toNat * 64 + v.toNat * 32 + n.toNat * 16 + p.toNat * 4) (litOf [a])
  | .aand d a h w v n p => word t 193 (dstCode d * 8192 + srcCode a * 256 + h.toNat * 128 + w.toNat * 64 + v.toNat * 32 + n.toNat * 16 + p.toNat * 4) (litOf [a])
  | .aor d a h w v n p => word t 194 (dstCode d * 8192 + srcCode a * 256 + h.toNat * 128 + w.toNat * 64 + v.toNat * 32 + n.toNat * 16 + p.toNat * 4) (litOf [a])
  | .axor d a h w v n p => word t 195 (dstCode d * 8192 + srcCode a * 256 + h.toNat * 128 + w.toNat * 64 + v.toNat * 32 + n.toNat * 16 + p.toNat * 4) (litOf [a])
  | .amin d a h w v n p s => word t 196 (dstCode d * 8192 + srcCode a * 256 + h.toNat * 128 + w.toNat * 64 + v.toNat * 32 + n.toNat * 16 + p.toNat * 4 + s.toNat) (litOf [a])
  | .amax d a h w v n p s => word t 197 (dstCode d * 8192 + srcCode a * 256 + h.toNat * 128 + w.toNat * 64 + v.toNat * 32 + n.toNat * 16 + p.toNat * 4 + s.toNat) (litOf [a])
  | .axchg d a h w v n p => word t 198 (dstCode d * 8192 + srcCode a * 256 + h.toNat * 128 + w.toNat * 64 + v.toNat * 32 + n.toNat * 16 + p.toNat * 4) (litOf [a])
  | .acas d a h w v n p => word t 199 (dstCode d * 8192 + srcCode a * 256 + h.toNat * 128 + w.toNat * 64 + v.toNat * 32 + n.toNat * 16 + p.toNat * 4) (litOf [a])
  | .afadd d a h v n p => word t 200 (dstCode d * 8192 + srcCode a * 256 + h.toNat * 128 + v.toNat * 32 + n.toNat * 16 + p.toNat * 4) (litOf [a])
  | .afmin d a h v n p => word t 201 (dstCode d * 8192 + srcCode a * 256 + h.toNat * 128 + v.toNat * 32 + n.toNat * 16 + p.toNat * 4) (litOf [a])
  | .afmax d a h v n p => word t 202 (dstCode d * 8192 + srcCode a * 256 + h.toNat * 128 + v.toNat * 32 + n.toNat * 16 + p.toNat * 4) (litOf [a])
  | .awadd d a v n p => word t 203 (dstCode d * 8192 + srcCode a * 256 + v.toNat * 32 + n.toNat * 16 + p.toNat * 4) (litOf [a])
  | .ainc d a h w v n p s => word t 204 (dstCode d * 8192 + srcCode a * 256 + h.toNat * 128 + w.toNat * 64 + v.toNat * 32 + n.toNat * 16 + p.toNat * 4 + s.toNat) (litOf [a])
  | .abit d a h w v n p s => word t 205 (dstCode d * 8192 + srcCode a * 256 + h.toNat * 128 + w.toNat * 64 + v.toNat * 32 + n.toNat * 16 + p.toNat * 4 + s.toNat) (litOf [a])
  | .map d a kind level asid => word t 208 (dstCode d * 8192 + srcCode a * 256 + kind.toNat * 64 + level.toNat * 16) (some (asid.toNat * 16384))
  | .unmap d a kind level asid => word t 209 (dstCode d * 8192 + srcCode a * 256 + kind.toNat * 64 + level.toNat * 16) (some (asid.toNat * 16384))
  | .protect d a level usr wr rd asid => word t 210 (dstCode d * 8192 + srcCode a * 256 + level.toNat * 16 + usr.toNat * 4 + wr.toNat * 2 + rd.toNat) (some (asid.toNat * 16384))
  | .migrate d a level asid => word t 211 (dstCode d * 8192 + srcCode a * 256 + level.toNat * 16) (some (asid.toNat * 16384))
  | .xinval d a o asid => word t 212 (dstCode d * 8192 + srcCode a * 256 + o.toNat) (some (asid.toNat * 16384))
  | .adread d a level clrd clra asid => word t 213 (dstCode d * 8192 + srcCode a * 256 + level.toNat * 16 + clrd.toNat * 2 + clra.toNat) (some (asid.toNat * 16384))
  | .xprobe d a asid => word t 214 (dstCode d * 8192 + srcCode a * 256) (some (asid.toNat * 16384))
  | .xsync d asid => word t 215 (dstCode d * 8192 + 29 * 256) (some (asid.toNat * 16384))
  | .copy d a q tben tbid bulk dep2 dep1 dep0 => word t 216 (dstCode d * 8192 + srcCode a * 256 + q.toNat) (some (tben.toNat * 33554432 + tbid.toNat * 524288 + bulk.toNat * 262144 + dep2.toNat * 256 + dep1.toNat * 16 + dep0.toNat))
  | .dtoken d a b m => word t 217 (dstCode d * 8192 + srcCode a * 256 + srcCode b * 8 + m.toNat) (litOf [a, b])
  | .tbarr d a b k => word t 218 (dstCode d * 8192 + srcCode a * 256 + b.toNat * 4 + k.toNat) (litOf [a])
  | .tbwait d a b => word t 219 (dstCode d * 8192 + srcCode a * 256 + b.toNat * 4) (litOf [a])
  | .tbany d a => word t 220 (dstCode d * 8192 + srcCode a * 256) (litOf [a])
  | .nbar d a i k => word t 221 (dstCode d * 8192 + srcCode a * 256 + i.toNat * 8 + k.toNat) (litOf [a])
  | .gbar d a i o k => word t 222 (dstCode d * 8192 + srcCode a * 256 + i.toNat * 32 + o.toNat * 16 + k.toNat) (litOf [a])
  | .timew d a r => word t 223 (dstCode d * 8192 + srcCode a * 256 + r.toNat) (litOf [a])
  | .timer d k => word t 224 (dstCode d * 8192 + 29 * 256 + k.toNat) none
  | .rand d a b => word t 225 (dstCode d * 8192 + srcCode a * 256 + srcCode b * 8) (litOf [a, b])
  | .launch d a v => word t 232 (dstCode d * 8192 + srcCode a * 256 + v.toNat) (litOf [a])
  | .joinc d a => word t 233 (dstCode d * 8192 + srcCode a * 256) (litOf [a])
  | .cfgnextStep k => word t 234 (28 * 8192 + 29 * 256 + k.toNat * 16) none
  | .cfgnextPost a cfg => word t 234 (28 * 8192 + srcCode a * 256 + 1) (some (cfg.toNat))
  | .strand d a g c => word t 235 (dstCode d * 8192 + srcCode a * 256 + g.toNat * 16 + c.toNat) (litOf [a])
  | .retire d a l => word t 236 (dstCode d * 8192 + srcCode a * 256 + l.toNat) (litOf [a])
  | .prio d a g c => word t 237 (dstCode d * 8192 + srcCode a * 256 + g.toNat * 16 + c.toNat) (litOf [a])
  | .trap a i => word t 240 (srcCode a * 256 + i.toNat) (litOf [a])
  | .tret d a c => word t 241 (dstCode d * 8192 + srcCode a * 256 + c.toNat) (litOf [a])
  | .ctxsw a c => word t 242 (28 * 8192 + srcCode a * 256 + c.toNat) (litOf [a])
  | .qstop d a c => word t 243 (dstCode d * 8192 + srcCode a * 256 + c.toNat) (litOf [a])
  | .errlog d a c => word t 244 (dstCode d * 8192 + srcCode a * 256 + c.toNat) (litOf [a])
  | .mcmp d a => word t 245 (dstCode d * 8192 + srcCode a * 256) (litOf [a])
  | .attest d a => word t 246 (dstCode d * 8192 + srcCode a * 256) (litOf [a])
  | .cfgld d a => word t 247 (dstCode d * 8192 + srcCode a * 256) (litOf [a])
  | .cfgsig d a c => word t 248 (dstCode d * 8192 + srcCode a * 256 + c.toNat) (litOf [a])
  | .sysrd d a g => word t 249 (dstCode d * 8192 + srcCode a * 256 + g.toNat * 16) (litOf [a])
  | .resultWriteback _ => none
  | .idleExpiry _ => none
  | .timewWake _ => none
  | .sharedUnitFree _ _ => none
  | .tokenSend _ _ => none
  | .tokenArrival _ => none
  | .deadlock _ => none
  | .mcastStall _ _ => none
  | .trapQueueDelivery _ => none
  | .traprec => none
  | .packetDelivery => none
  | .packetAcceptance _ => none
  | .regionGrant _ => none
  | .priorityRankUpdate _ => none
  | .imageLoad _ => none
  | .configurationLoad _ _ => none
  | .stepPlacement _ _ => none
  | .stepDrain _ _ => none
  | .launchCompletion _ => none
  | .completionReport _ => none
  | .eviction _ _ => none
  | .evictionSave _ _ => none
  | .restore _ => none
  | .quiescentPoint _ => none
  | .accessPerform _ _ => none
  | .keyedApply _ _ => none
  | .portReturn _ _ => none
  | .streamRequest _ _ => none
  | .sgathRowEmit _ _ => none
  | .mergeWindowClose _ _ => none
  | .bulkAgeing _ => none
  | .dlmiss _ => none
  | .hbmue _ _ => none
  | .tileCloseDone _ _ => none
  | .tileFreeDone _ _ => none
  | .poolQueueEntry _ => none
  | .carveStage _ _ => none
  | .commitCheck _ _ => none
  | .groupRelease _ _ _ => none
  | .leafJoin _ _ _ => none
  | .gatherRowFetch _ _ _ => none
  | .passStart _ _ => none
  | .passRootApply _ _ _ => none
  | .drainStart _ _ => none
  | .drainPacketEmit _ _ => none
  | .drainTileWriteDone _ _ => none
  | .clearStart _ _ => none
  | .sortAppend _ _ => none
  | .sortEmit _ _ => none
  | .poolecc _ _ _ _ => none
  | .copyQueueEntry _ => none
  | .copyRun _ _ => none
  | .copyCompletion _ _ => none
  | .generationClose _ _ => none
  | .barrierInstanceComplete _ => none
  | .translationEventEntry _ => none
  | .invalidationAck _ => none
  | .repatch _ => none
  | .patchFetch _ _ _ => none
  | .dirtyUpdate _ _ _ => none
  | .migrateFreeze _ => none
  | .migrateCopy _ => none
  | .migrateRemap _ => none
  | .migrateReplay _ => none
  | .translationCompletion _ => none
  | .killPropagation _ _ => none
  | .cfgecc _ => none
  | .cfgeccThaw _ _ => none
  | .stateecc _ => none
  | .attestQuoteDone => none
  | .ptpSync _ => none
  | .lockedEntry => none
  | .holdoverEntry => none
  | .fabricFlit _ _ => none
  | .powerOn => none
  | .firmwareVerify => none
  | .hbmTraining _ => none
  | .vaultRowTest _ => none
  | .ucieTraining _ => none
  | .fabricTraining _ => none
  | .regionRelease => none
  | .repairWindowStart _ => none
  | .ident _ => none
  | .fwload _ _ => none
  | .reset _ => none
  | .setpkg _ _ => none
  | .route _ _ => none
  | .tmaster _ _ => none
  | .sysload _ _ _ _ _ _ => none
  | .submit _ _ _ _ => none
  | .resume _ _ _ => none
  | .kill _ _ => none
  | .memrd _ _ _ => none
  | .memwr _ _ _ => none
  | .keyadd _ _ => none
  | .keydel _ _ => none
  | .ksnew _ _ => none
  | .ksdel _ _ => none
  | .quote _ _ _ => none
  | .manif _ _ => none
  | .rmap _ _ => none
  | .repair _ _ _ => none
  | .badframe _ _ => none
  | .controlPortLinkChange _ => none
  | .coreCurrentPeak _ => none
  | .syncTransmit => none

/-- The host's question: the instruction read from the bits of a table row, numbered as the table numbers them: bits 31..0
are the slot's word and bits 63..32 the next slot's, which is zero where the row gives it no bits. -/
def decodeTableWord (nbits w : Nat) : Option Instr :=
  match decode (BitVec.ofNat 32 w) (some (BitVec.ofNat 32 (w % 2 ^ nbits / 2 ^ 32))) with
  | .ok i => some i
  | .error _ => none

end Sys2Proof
end

