-- ==== Sys2Proof/Machine/Legal.lean ====
section
/-! DEFINITION. Which decoded instructions the loader accepts (R39, R50, R56 and the encoding tables of the class chapters): the
operand kinds, reserved values and reserved combinations that the decoder's fixed fields do not already refuse. -/

namespace Sys2Proof

/-- v0-v15. -/
def Dst.isV : Dst → Bool | .v _ => true | .out _ => false | .x _ => false | .null => false
/-- out0-out7. -/
def Dst.isOut : Dst → Bool | .v _ => false | .out _ => true | .x _ => false | .null => false
/-- x0-x3. -/
def Dst.isX : Dst → Bool | .v _ => false | .out _ => false | .x _ => true | .null => false
/-- NULL. -/
def Dst.isNull : Dst → Bool | .v _ => false | .out _ => false | .x _ => false | .null => true
/-- The output's number; 8 where the destination is no output. -/
def Dst.outNo : Dst → Nat | .v _ => 8 | .out k => k.toNat | .x _ => 8 | .null => 8
/-- v0-v15. -/
def Src.isV : Src → Bool | .v _ => true | _ => false
/-- in0-in7. -/
def Src.isInp : Src → Bool | .inp _ => true | _ => false
/-- x0-x3. -/
def Src.isX : Src → Bool | .x _ => true | _ => false
/-- LANE. -/
def Src.isLane : Src → Bool | .lane => true | _ => false
/-- ZERO. -/
def Src.isZero : Src → Bool | .zero => true | _ => false
/-- The literal. -/
def Src.isLit : Src → Bool | .lit _ => true | _ => false

/-- One input named twice (R236). -/
def sameInp (a b : Src) : Bool := a.isInp && decide (a = b)

/-- The refusal when a condition does not hold: its code and the field's place. -/
def need (b : Bool) (code lsb : Nat) : Option DecErr := if b then none else some ⟨code, lsb⟩

/-- The first refusal of a list. -/
def first : List (Option DecErr) → Option DecErr
  | [] => none
  | some e :: _ => some e
  | none :: t => first t

/-- The scalar shape refuses vector registers and LANE as sources (R114, R115); each source comes with its field's place. -/
def shape (d : Dst) : List (Src × Nat) → Option DecErr
  | [] => none
  | (a, l) :: t => if d.isX && (a.isV || a.isLane) then some ⟨5, l⟩ else shape d t

/-- The combinations EMIT refuses (R108). -/
def emitErr (a : Src) (g c : Nat) : Option DecErr :=
  first [need (c % 4 ≠ 3) 3 0, need (!(c % 4 = 1 && c < 8)) 3 0, need (!(c % 4 = 1 && 6 < g)) 3 4,
    need (!(4 ≤ c % 8) || a.isX || a.isZero || a.isLit) 5 8,
    need (c % 4 = 0 || 4 ≤ c % 8 || a.isZero) 5 8, need (!(c % 4 = 2 && 4 ≤ c % 8)) 3 0, need (8 ≤ c || g = 0) 6 4]

/-- The encodings an atomic refuses (R315, R316). -/
def atomErr (d : Dst) (a : Src) (h w v : BitVec 1) (p : BitVec 2) : Option DecErr :=
  first [need (d.isX || d.isV) 5 13, need (if d.isX then a.isX || a.isInp else a.isV || a.isInp) 5 8,
    need (!(d.isX && h = 1)) 3 7, need (!(d.isV && w = 1)) 3 6, need (v = 0 || p = 0) 6 2]

/-- The dependence inputs of COPY (R361). -/
def depErr (d2 d1 d0 : Nat) : Option DecErr :=
  first [need (8 ≤ d0 || d0 = 0) 6 32, need (8 ≤ d1 || d1 = 0) 6 36, need (8 ≤ d2 || d2 = 0) 6 40,
    need (!(8 ≤ d0 && d0 = d1)) 5 36, need (!(8 ≤ d2 && (d2 = d0 || d2 = d1))) 5 40]

/-- The refusal of an instruction that the decoder read (R39, R50); none for a legal one, and for the part's own events. A
vector source of LSCAN or of vector ADDR may be ZERO or the literal, which hold one value in every lane, and no x register (log entry 11). -/
def legalErr (i : Instr) : Option DecErr :=
  match i with
  | .nop => none
  | .idle _ => none
  | .halt => none
  | .pset _ _ _ => none
  | .plog _ _ _ _ _ => none
  | .pany _ _ a b _ => need (a.toNat ≤ b.toNat) 5 6
  | .pall _ _ a b _ => need (a.toNat ≤ b.toNat) 5 6
  | .mov _ _ m => need (m.toNat ≤ 1) 3 0
  | .movi _ _ => none
  | .lit d zx _ _ => need (zx = 0 || d.isX) 5 13
  | .sel d _ _ m => first [need (!d.isX) 5 13, need (m.toNat ≤ 1) 3 0]
  | .deq a => need a.isInp 5 8
  | .emit d a g c => first [need d.isOut 5 13, emitErr a g.toNat c.toNat]
  | .tagset d a g c => first [need d.isOut 5 13, need (c.toNat ≤ 2) 3 0, need (if c.toNat = 1 then a.isInp else a.isZero) 5 8, need (c.toNat = 0 || g = 0) 6 4]
  | .hdread d a c => first [need d.isX 5 13, need a.isInp 5 8, need (c.toNat ≤ 6) 3 0]
  | .fcount d => need d.isX 5 13
  | .maskset a m => first [need (m.toNat ≤ 4) 3 0, need (if m.toNat ≤ 2 then !a.isX else if m.toNat = 3 then a.isX || a.isZero || a.isLit else a.isInp) 5 8]
  | .brk _ => none
  | .iadd d a b m => first [shape d [(a, 8), (b, 3)], need (m.toNat ≤ 2) 3 0]
  | .isub d a b m => first [shape d [(a, 8), (b, 3)], need (m.toNat ≤ 2) 3 0]
  | .imul d a b m => first [shape d [(a, 8), (b, 3)], need (m.toNat ≤ 2) 3 0]
  | .imulh d a b m => first [shape d [(a, 8), (b, 3)], need (m.toNat ≤ 2) 3 0]
  | .imad d a b m => first [need (d.isV || d.isX) 5 13, shape d [(a, 8), (b, 3)], need (m.toNat ≤ 2) 3 0]
  | .iaddi d a _ => shape d [(a, 8)]
  | .imin d a b m => first [shape d [(a, 8), (b, 3)], need (m.toNat ≤ 1) 3 0]
  | .imax d a b m => first [shape d [(a, 8), (b, 3)], need (m.toNat ≤ 1) 3 0]
  | .and d a b m => first [shape d [(a, 8), (b, 3)], need (m.toNat ≤ 1) 3 0]
  | .or d a b m => first [shape d [(a, 8), (b, 3)], need (m.toNat ≤ 1) 3 0]
  | .xor d a b m => first [shape d [(a, 8), (b, 3)], need (m.toNat ≤ 1) 3 0]
  | .shl d a b => shape d [(a, 8), (b, 3)]
  | .shr d a b m => first [shape d [(a, 8), (b, 3)], need (m.toNat ≤ 1) 3 0]
  | .rot d a b m => first [shape d [(a, 8), (b, 3)], need (m.toNat ≤ 1) 3 0]
  | .icmp d a b m => first [shape d [(a, 8), (b, 3)], need (m.toNat ≤ 5) 3 0]
  | .isat d a _ w => first [shape d [(a, 8)], need (d.isX || w.toNat < 32) 3 0]
  | .bitc d a m => first [shape d [(a, 8)], need (m.toNat ≤ 4) 3 0]
  | .bfx d a b m => first [shape d [(a, 8), (b, 3)], need (m.toNat ≤ 1) 3 0]
  | .bfi d a b => first [need (d.isV || d.isX) 5 13, shape d [(a, 8), (b, 3)]]
  | .addr d a b h _ => first [need (!(a.isV || a.isLane)) 5 8, need (if d.isX then !(b.isV || b.isLane) else !b.isX) 5 3, need (!d.isX || h = 0) 3 2]
  | .cchain a g _ => first [need (!(a.isV || a.isLane)) 5 8, need (g.toNat ≤ 7) 3 4]
  | .cstep d _ m => first [need d.isOut 5 13, need (m.toNat ≤ 1) 3 0]
  | .lscan d a b m => first [need (!d.isX) 5 13, need (!a.isX) 5 8, need (!(b.isV || b.isLane)) 5 3, need (m.toNat ≤ 6) 3 0]
  | .idiv d a b m => first [shape d [(a, 8), (b, 3)], need (m.toNat ≤ 3) 3 0]
  | .fadd d _ _ m => first [need (!d.isX) 5 13, need (m.toNat ≠ 5 && m.toNat ≠ 7) 3 0]
  | .fsub d _ _ m => first [need (!d.isX) 5 13, need (m.toNat ≠ 5 && m.toNat ≠ 7) 3 0]
  | .fmul d _ _ m => first [need (!d.isX) 5 13, need (m.toNat ≠ 5 && m.toNat ≠ 7) 3 0]
  | .ffma d _ _ m => first [need d.isV 5 13, need (m.toNat ≠ 5 && m.toNat ≠ 7) 3 0]
  | .fmin d _ _ => need (!d.isX) 5 13
  | .fmax d _ _ => need (!d.isX) 5 13
  | .fminn d _ _ => need (!d.isX) 5 13
  | .fmaxn d _ _ => need (!d.isX) 5 13
  | .fcmp d _ _ m => first [need (!d.isX) 5 13, need (m.toNat ≤ 4) 3 0]
  | .fsgn d _ b m => first [need (!d.isX) 5 13, need (m.toNat ≤ 4) 3 0, need (m.toNat < 3 || b = .v 0) 6 3]
  | .frcp d _ m => first [need (!d.isX) 5 13, need (m.toNat ≠ 5 && m.toNat ≠ 7) 3 0]
  | .frsq d _ m => first [need (!d.isX) 5 13, need (m.toNat ≠ 5 && m.toNat ≠ 7) 3 0]
  | .fsqrt d _ m => first [need (!d.isX) 5 13, need (m.toNat ≠ 5 && m.toNat ≠ 7) 3 0]
  | .fdiv d _ _ m => first [need (!d.isX) 5 13, need (m.toNat ≠ 5 && m.toNat ≠ 7) 3 0]
  | .fexp2 d _ m => first [need (!d.isX) 5 13, need (m.toNat ≠ 5 && m.toNat ≠ 7) 3 0]
  | .flog2 d _ m => first [need (!d.isX) 5 13, need (m.toNat ≠ 5 && m.toNat ≠ 7) 3 0]
  | .fred _ _ => none
  | .frmax d _ m => first [need (m.toNat ≤ 2) 3 0, need (m.toNat ≠ 2 || d.isX) 5 13]
  | .frmin d _ m => first [need (m.toNat ≤ 2) 3 0, need (m.toNat ≠ 2 || d.isX) 5 13]
  | .cvtf d _ r f p n => first [need (if r = 0 then d.isV else !d.isX) 5 13, need (2 ≤ f.toNat || p.toNat ≤ 1) 3 3, need (if r = 0 then n.toNat ≤ 6 else n = 0) 3 0]
  | .cvti d _ s p n => first [need (if s = 0 then !d.isX else d.isV) 5 13, need (s = 1 || p = 0) 3 3, need (n.toNat ≤ 6) 3 0]
  | .cvtif d _ s u p n => first [need (!d.isX) 5 13, need (s = 0 || u = 0) 3 5, need (s = 1 || p = 0) 3 3, need (n.toNat ≤ 6) 3 0]
  | .cvt4 d _ k s _ => first [need (!d.isX) 5 13, need (k.toNat ≤ 2) 3 6, need (!(k.toNat = 2 && s = 1)) 3 5]
  | .mxpack d _ p _ => first [need d.isV 5 13, need (p.toNat ≤ 7) 3 4]
  | .mxunpk d _ p _ => first [need (!d.isX) 5 13, need (p.toNat ≤ 7) 3 4]
  | .scpack d _ k _ _ _ n => first [need d.isV 5 13, need (n.toNat ≤ 2 && (k = 0 || n = 0)) 3 0]
  | .scunpk d _ _ _ _ => need (!d.isX) 5 13
  | .fclass d _ => need (!d.isX) 5 13
  | .fround d _ b m => first [need (!d.isX) 5 13, need (m.toNat ≤ 6) 3 0, need (m.toNat = 5 || b = .v 0) 6 3]
  | .fscale d _ _ m => first [need (!d.isX) 5 13, need (m.toNat ≠ 5 && m.toNat ≠ 7) 3 0]
  | .pcarve a => need (a.isX || a.isInp) 5 8
  | .pcommit d l s => first [need (d.isOut || d.isNull) 5 13, need (l = 0 || s = 0) 6 0]
  | .pmap a => need (a.isX || a.isInp) 5 8
  | .pstat d a g _ => first [need d.isX 5 13, need (g.toNat ≤ 2) 3 4, need (if g.toNat = 1 then !(a.isV || a.isLane) else a.isZero) 5 8]
  | .pgather d a _ _ _ _ _ => first [need (d.isOut || d.isNull) 5 13, need (a.isV || a.isInp) 5 8]
  | .pissue d s all _ _ => first [need (d.isOut || d.isNull) 5 13, need (all = 0 || s = 0) 6 56]
  | .pissuex d s all _ _ => first [need (d.isOut || d.isNull) 5 13, need (all = 0 || s = 0) 6 56]
  | .pdrain d a _ to_ _ _ => first [need (d.isOut || (d.isNull && to_ = 1)) 5 13, need (a.isX || a.isInp) 5 8]
  | .pclear d a _ _ => first [need (d.isOut || d.isNull) 5 13, need (a.isX || a.isInp) 5 8]
  | .psort d a _ _ => first [need (d.isOut || d.isNull) 5 13, need (!a.isX) 5 8]
  | .psortk d _ _ _ _ => need d.isOut 5 13
  | .psave d a _ => first [need (d.isX || d.isOut || d.isNull) 5 13, need a.isX 5 8]
  | .prestore d a _ _ => first [need (d.isX || d.isOut || d.isNull) 5 13, need a.isX 5 8]
  | .pqstat d g _ => first [need d.isX 5 13, need (g.toNat ≤ 2) 3 4]
  | .steer d a b _ => first [need d.isOut 5 13, need (d.outNo + 1 ≤ 7) 5 13, need a.isInp 5 8, need (!b.isLane) 5 3, need (!(sameInp a b)) 5 3]
  | .merge d a b m => first [need d.isOut 5 13, need (!a.isLane) 5 8, need b.isInp 5 3, need (!(sameInp a b)) 5 3, need (!(sameInp b (.inp m))) 5 0, need (!(sameInp a (.inp m))) 5 0]
  | .lexit d a b => first [need d.isOut 5 13, need (d.outNo + 1 ≤ 7) 5 13, need a.isInp 5 8, need (!b.isLane) 5 3, need (!(sameInp a b)) 5 3]
  | .gate d a b => first [need d.isOut 5 13, need a.isInp 5 8, need (!b.isLane) 5 3, need (!(sameInp a b)) 5 3]
  | .dup d a n => first [need d.isOut 5 13, need a.isInp 5 8, need (n.toNat ≤ 2) 3 0, need (d.outNo + n.toNat + 1 ≤ 7) 5 13]
  | .zipt d a b => first [need d.isOut 5 13, need a.isInp 5 8, need b.isInp 5 3, need (!(sameInp a b)) 5 3]
  | .talloc d g s => first [need (d.isX || d.isNull) 5 13, need (s = 1 || g = 0) 6 4, need (g.toNat ≤ 7) 3 4]
  | .tfree a g => need (a.isZero || g = 0) 6 4
  | .troute d a g v => first [need d.isOut 5 13, need a.isInp 5 8, need (v = 0 || g = 0) 6 4]
  | .isect d a b q p => first [need d.isOut 5 13, need a.isInp 5 8, need b.isInp 5 3, need (!(sameInp a b)) 5 3, need (d.outNo + (if q = 1 then 2 else if p = 1 then 1 else 0) ≤ 7) 5 13]
  | .union d a b q p => first [need d.isOut 5 13, need a.isInp 5 8, need b.isInp 5 3, need (!(sameInp a b)) 5 3, need (d.outNo + (if q = 1 then 2 else if p = 1 then 1 else 0) ≤ 7) 5 13]
  | .fibre d a b m => first [need d.isOut 5 13, need a.isInp 5 8, need (!b.isLane) 5 3, need (!(sameInp a b)) 5 3, need (m.toNat ≤ 6) 3 0]
  | .packv d a => first [need d.isOut 5 13, need a.isInp 5 8]
  | .splitv d a _ => first [need d.isOut 5 13, need a.isInp 5 8]
  | .compact _ a => need (!a.isX) 5 8
  | .order d a c => first [need d.isOut 5 13, need (!a.isX) 5 8, need (c.toNat % 4 ≠ 3) 3 0, need (c.toNat < 8 || d.outNo ≤ 6) 5 13]
  | .switch d a b m => first [need d.isOut 5 13, need a.isInp 5 8, need (!b.isLane) 5 3, need (!(sameInp a b)) 5 3, need (m.toNat ≠ 0) 3 0, need (d.outNo + m.toNat ≤ 7) 5 13]
  | .poison d i => first [need d.isOut 5 13, need (192 ≤ i.toNat) 3 0]
  | .ends d a _ => first [need (d.isX || d.isNull) 5 13, need a.isInp 5 8]
  | .chocc d _ => need d.isX 5 13
  | .vld d a => first [need (d.isV || d.isOut || d.isNull) 5 13, need (a.isX || a.isInp) 5 8]
  | .vst d a b => first [need (d.isOut || d.isNull) 5 13, need (a.isX || a.isInp) 5 8, need (!b.isLit) 5 3]
  | .vldx d a b _ => first [need (d.isV || d.isOut || d.isNull) 5 13, need (a.isX || a.isInp) 5 8, need (!b.isLit) 5 3]
  | .vstx d a b _ => first [need d.isV 5 13, need (a.isX || a.isInp) 5 8, need (!b.isLit) 5 3]
  | .gld d a _ _ => first [need (d.isV || d.isOut || d.isNull) 5 13, need (!a.isLit) 5 8]
  | .gst d a b _ _ => first [need (d.isOut || d.isNull) 5 13, need (!a.isLit) 5 8, need (!b.isLit) 5 3]
  | .sport a _ _ m => first [need a.isV 5 8, need (m.toNat ≤ 2) 3 0]
  | .sreq d a _ w => first [need (if w = 0 then d.isOut else d.isNull) 5 13, need (if w = 0 then a.isZero else a.isInp) 5 8]
  | .sgath d a _ => first [need d.isOut 5 13, need (!a.isLit) 5 8]
  | .tilest d a b m _ => first [need (d.isOut || d.isNull) 5 13, need (m.toNat ≤ 3) 3 0, need (if m.toNat = 0 || m.toNat = 3 then a.isX else !(a.isLit || a.isX)) 5 8, need (if m.toNat = 0 then b.isZero else b.isX || b.isZero) 5 3]
  | .tileq d o _ => first [need (d.isX || d.isNull) 5 13, need (o.toNat ≤ 3) 3 0]
  | .valloc d a _ _ _ _ => first [need d.isX 5 13, need (a.isX || a.isInp) 5 8]
  | .vfree a => need (a.isX || a.isInp) 5 8
  | .pref a _ _ => need (a.isX || a.isInp) 5 8
  | .glda d a g _ v p => first [need (d.isX || d.isOut) 5 13, need (a.isX || a.isInp) 5 8, need (g.toNat ≤ 7 || g.toNat = 10 || g.toNat = 11) 3 4, need (v = 0 || p = 0) 6 0]
  | .gstr d a g _ v p => first [need d.isX 5 13, need (a.isX || a.isInp) 5 8, need (g.toNat ≤ 7 || g.toNat = 10 || g.toNat = 11) 3 4, need (v = 0 || p = 0) 6 0]
  | .fence g k => first [need (g.toNat ≤ 7 || g.toNat = 10 || g.toNat = 11) 3 4, need (k.toNat ≤ 2) 3 0]
  | .fencex d => need (d.isOut || d.isNull) 5 13
  | .fencep d => need (d.isOut || d.isNull) 5 13
  | .seqkey d a k => first [need (if k.toNat = 3 then d.isX else d.isNull) 5 13, need (if k.toNat = 3 then a.isZero else !(a.isV || a.isLane)) 5 8]
  | .perfw _ => none
  | .mcsync a => need a.isInp 5 8
  | .aadd d a h w v _ p => atomErr d a h w v p
  | .aand d a h w v _ p => atomErr d a h w v p
  | .aor d a h w v _ p => atomErr d a h w v p
  | .axor d a h w v _ p => atomErr d a h w v p
  | .axchg d a h w v _ p => atomErr d a h w v p
  | .amin d a h w v _ p _ => atomErr d a h w v p
  | .amax d a h w v _ p _ => atomErr d a h w v p
  | .acas d a h w v _ p => first [atomErr d a h w v p, need (dstCode d % 2 = 0) 5 13]
  | .afadd d a h v _ p => atomErr d a h 0 v p
  | .afmin d a h v _ p => atomErr d a h 0 v p
  | .afmax d a h v _ p => atomErr d a h 0 v p
  | .awadd d a v _ p => first [need d.isX 5 13, atomErr d a 0 0 v p, need (dstCode d % 2 = 0) 5 13]
  | .ainc d a h w v _ p s => first [atomErr d a h w v p, need (s.toNat ≤ 2) 3 0]
  | .abit d a h w v _ p s => first [atomErr d a h w v p, need (s.toNat ≤ 2) 3 0]
  | .map d a kind level _ => first [need (d.isX || d.isOut) 5 13, need (a = .x 0 || a = .x 2) 5 8, need (kind.toNat ≤ 2) 3 6, need (if kind = 0 then level ≠ 0 else if kind = 1 then level ≠ 3 else level = 0) 3 4]
  | .unmap d a kind level _ => first [need (d.isX || d.isOut) 5 13, need (a = .x 0 || a = .x 2) 5 8, need (kind.toNat ≤ 2) 3 6, need (if kind = 0 then level ≠ 0 else if kind = 1 then level ≠ 3 else level = 0) 3 4]
  | .protect d a level _ _ _ _ => first [need (d.isX || d.isOut) 5 13, need a.isX 5 8, need (level ≠ 0) 3 4]
  | .migrate d a level _ => first [need (d.isX || d.isOut) 5 13, need (a = .x 0 || a = .x 2) 5 8, need (level ≠ 0) 3 4]
  | .xinval d a o _ => first [need (d.isX || d.isOut) 5 13, need (a = .x 0 || a = .x 2) 5 8, need (o.toNat ≤ 2) 3 0]
  | .adread d a level _ _ _ => first [need d.isX 5 13, need a.isX 5 8, need (level ≠ 0) 3 4]
  | .xprobe d a _ => first [need d.isX 5 13, need a.isX 5 8]
  | .xsync d _ => need d.isOut 5 13
  | .copy d a _ tben tbid _ d2 d1 d0 => first [need (d.isOut || d.isNull) 5 13, need a.isV 5 8, depErr d2.toNat d1.toNat d0.toNat, need (tben = 1 || tbid = 0) 6 51]
  | .dtoken d a b m => first [need d.isOut 5 13, need (a.isInp || a.isZero) 5 8, need (b.isInp || b.isZero) 5 3, need (m = 1 || !(a.isZero && b.isZero)) 5 8]
  | .tbarr d a _ k => first [need (d.isX || d.isNull) 5 13, need (!(a.isV || a.isLane)) 5 8, need (k.toNat ≤ 2) 3 0]
  | .tbwait d a _ => first [need (d.isX || d.isNull) 5 13, need (!(a.isV || a.isLane)) 5 8]
  | .tbany d a => first [need d.isX 5 13, need a.isX 5 8]
  | .nbar d a _ k => first [need (d.isX || d.isOut || d.isNull) 5 13, need (!(a.isV || a.isLane)) 5 8, need (k.toNat ≤ 1) 3 0, need (k.toNat ≠ 1 || d.isNull) 5 13]
  | .gbar d a _ _ k => first [need (d.isX || d.isOut || d.isNull) 5 13, need (!(a.isV || a.isLane)) 5 8, need (k = 0 || d.isNull) 5 13]
  | .timew d a _ => first [need (d.isX || d.isNull) 5 13, need (!(a.isV || a.isLane)) 5 8]
  | .timer d _ => need d.isX 5 13
  | .rand _ a b => first [need (!(a.isV || a.isLane)) 5 8, need (!(b.isV || b.isLane)) 5 3]
  | .launch d a _ => first [need (d.isX || d.isNull) 5 13, need a.isX 5 8]
  | .joinc d a => first [need (d.isX || d.isOut) 5 13, need a.isX 5 8]
  | .cfgnextStep _ => none
  | .cfgnextPost a _ => need a.isX 5 8
  | .strand d a g c => first [need (c.toNat ≤ 4) 3 0, need (if c.toNat = 4 then d.isOut else d.isX) 5 13, need (if c.toNat = 2 then a.isX else a.isZero) 5 8, need (g.toNat ≤ 7) 3 4, need (c.toNat ≤ 1 || g = 0) 6 4]
  | .retire d a l => first [need (d.isOut || d.isNull) 5 13, need (if l = 1 then a.isZero else a.isX) 5 8]
  | .prio d a g c => first [need (c.toNat ≤ 1) 3 0, need (if c.toNat = 0 then d.isNull else d.isX) 5 13, need a.isZero 5 8, need (g.toNat ≤ 7) 3 4, need (c.toNat = 0 || g = 0) 6 4]
  | .trap a _ => need (a.isX || a.isZero) 5 8
  | .tret d a c => first [need (d.isX || d.isNull) 5 13, need a.isX 5 8, need (c.toNat ≤ 2) 3 0]
  | .ctxsw a c => first [need a.isX 5 8, need (c.toNat ≤ 3) 3 0]
  | .qstop d a c => first [need (c.toNat ≤ 1) 3 0, need (if c.toNat = 0 then d.isV else d.isNull) 5 13, need a.isX 5 8]
  | .errlog d a c => first [need (c.toNat ≤ 2) 3 0, need (if c.toNat = 0 then d.isV else d.isX) 5 13, need (if c.toNat = 0 then a.isZero else a = .x 0 || a = .x 2) 5 8]
  | .mcmp d a => first [need d.isX 5 13, need (a = .x 0 || a = .x 2) 5 8]
  | .attest d a => first [need (d.isX || d.isOut) 5 13, need a.isX 5 8]
  | .cfgld d a => first [need (d.isX || d.isOut) 5 13, need a.isX 5 8]
  | .cfgsig d a c => first [need (c.toNat ≤ 1) 3 0, need (if c.toNat = 0 then d.isX else d.isV) 5 13, need a.isX 5 8]
  | .sysrd d a g => first [need (g.toNat ≤ 6) 3 4, need (if g.toNat = 1 then d.isV else d.isX) 5 13, need (if g.toNat = 0 || g.toNat = 1 || g.toNat = 4 || g.toNat = 5 then a.isX else a.isZero) 5 8]
  | .resultWriteback _ => none
  | .idleExpiry _ => none
  | .timewWake _ => none
  | .sharedUnitFree _ _ => none
  | .tokenSend _ _ => none
  | .tokenArrival _ => none
  | .deadlock _ => none
  | .mcastStall _ _ => none
  | .trapQueueDelivery _ => none
  | .traprec => none
  | .packetDelivery => none
  | .packetAcceptance _ => none
  | .regionGrant _ => none
  | .priorityRankUpdate _ => none
  | .imageLoad _ => none
  | .configurationLoad _ _ => none
  | .stepPlacement _ _ => none
  | .stepDrain _ _ => none
  | .launchCompletion _ => none
  | .completionReport _ => none
  | .eviction _ _ => none
  | .evictionSave _ _ => none
  | .restore _ => none
  | .quiescentPoint _ => none
  | .accessPerform _ _ => none
  | .keyedApply _ _ => none
  | .portReturn _ _ => none
  | .streamRequest _ _ => none
  | .sgathRowEmit _ _ => none
  | .mergeWindowClose _ _ => none
  | .bulkAgeing _ => none
  | .dlmiss _ => none
  | .hbmue _ _ => none
  | .tileCloseDone _ _ => none
  | .tileFreeDone _ _ => none
  | .poolQueueEntry _ => none
  | .carveStage _ _ => none
  | .commitCheck _ _ => none
  | .groupRelease _ _ _ => none
  | .leafJoin _ _ _ => none
  | .gatherRowFetch _ _ _ => none
  | .passStart _ _ => none
  | .passRootApply _ _ _ => none
  | .drainStart _ _ => none
  | .drainPacketEmit _ _ => none
  | .drainTileWriteDone _ _ => none
  | .clearStart _ _ => none
  | .sortAppend _ _ => none
  | .sortEmit _ _ => none
  | .poolecc _ _ _ _ => none
  | .copyQueueEntry _ => none
  | .copyRun _ _ => none
  | .copyCompletion _ _ => none
  | .generationClose _ _ => none
  | .barrierInstanceComplete _ => none
  | .translationEventEntry _ => none
  | .invalidationAck _ => none
  | .repatch _ => none
  | .patchFetch _ _ _ => none
  | .dirtyUpdate _ _ _ => none
  | .migrateFreeze _ => none
  | .migrateCopy _ => none
  | .migrateRemap _ => none
  | .migrateReplay _ => none
  | .translationCompletion _ => none
  | .killPropagation _ _ => none
  | .cfgecc _ => none
  | .cfgeccThaw _ _ => none
  | .stateecc _ => none
  | .attestQuoteDone => none
  | .ptpSync _ => none
  | .lockedEntry => none
  | .holdoverEntry => none
  | .fabricFlit _ _ => none
  | .powerOn => none
  | .firmwareVerify => none
  | .hbmTraining _ => none
  | .vaultRowTest _ => none
  | .ucieTraining _ => none
  | .fabricTraining _ => none
  | .regionRelease => none
  | .repairWindowStart _ => none
  | .ident _ => none
  | .fwload _ _ => none
  | .reset _ => none
  | .setpkg _ _ => none
  | .route _ _ => none
  | .tmaster _ _ => none
  | .sysload _ _ _ _ _ _ => none
  | .submit _ _ _ _ => none
  | .resume _ _ _ => none
  | .kill _ _ => none
  | .memrd _ _ _ => none
  | .memwr _ _ _ => none
  | .keyadd _ _ => none
  | .keydel _ _ => none
  | .ksnew _ _ => none
  | .ksdel _ _ => none
  | .quote _ _ _ => none
  | .manif _ _ => none
  | .rmap _ _ => none
  | .repair _ _ _ => none
  | .badframe _ _ => none
  | .controlPortLinkChange _ => none
  | .coreCurrentPeak _ => none
  | .syncTransmit => none

end Sys2Proof
end

