-- ==== Sys2Proof/WellFormed.lean ====
section
/-! DEFINITION. Well-formed instructions: those the loader accepts in a slot (R39, R50), with both literal sources reading
the one literal slot (R36) and that slot in a form of R35. -/

namespace Sys2Proof

/-- The literal sources of an instruction all read one literal word, in a form R35 allows. -/
def litsAgree : List Src → Bool
  | [] => true
  | .lit w :: t => literalOk w.toNat && t.all (fun s => match s with | .lit u => decide (u = w) | _ => true) && litsAgree t
  | _ :: t => litsAgree t

/-- The sources of an instruction that stand in 5-bit specifier fields. -/
def Instr.srcs (i : Instr) : List Src :=
  match i with
  | .nop => []
  | .idle _ => []
  | .halt => []
  | .pset _ _ _ => []
  | .plog _ _ _ _ _ => []
  | .pany _ _ _ _ _ => []
  | .pall _ _ _ _ _ => []
  | .mov _ a _ => [a]
  | .movi _ _ => []
  | .lit _ _ _ _ => []
  | .sel _ a b _ => [a, b]
  | .deq a => [a]
  | .emit _ a _ _ => [a]
  | .tagset _ a _ _ => [a]
  | .hdread _ a _ => [a]
  | .fcount _ => []
  | .maskset a _ => [a]
  | .brk _ => []
  | .iadd _ a b _ => [a, b]
  | .isub _ a b _ => [a, b]
  | .imul _ a b _ => [a, b]
  | .imulh _ a b _ => [a, b]
  | .imad _ a b _ => [a, b]
  | .iaddi _ a _ => [a]
  | .imin _ a b _ => [a, b]
  | .imax _ a b _ => [a, b]
  | .and _ a b _ => [a, b]
  | .or _ a b _ => [a, b]
  | .xor _ a b _ => [a, b]
  | .shl _ a b => [a, b]
  | .shr _ a b _ => [a, b]
  | .rot _ a b _ => [a, b]
  | .icmp _ a b _ => [a, b]
  | .isat _ a _ _ => [a]
  | .bitc _ a _ => [a]
  | .bfx _ a b _ => [a, b]
  | .bfi _ a b => [a, b]
  | .addr _ a b _ _ => [a, b]
  | .cchain a _ _ => [a]
  | .cstep _ _ _ => []
  | .lscan _ a b _ => [a, b]
  | .idiv _ a b _ => [a, b]
  | .fadd _ a b _ => [a, b]
  | .fsub _ a b _ => [a, b]
  | .fmul _ a b _ => [a, b]
  | .ffma _ a b _ => [a, b]
  | .fmin _ a b => [a, b]
  | .fmax _ a b => [a, b]
  | .fminn _ a b => [a, b]
  | .fmaxn _ a b => [a, b]
  | .fcmp _ a b _ => [a, b]
  | .fsgn _ a b m => if m.toNat < 3 then [a, b] else [a]
  | .frcp _ a _ => [a]
  | .frsq _ a _ => [a]
  | .fsqrt _ a _ => [a]
  | .fdiv _ a b _ => [a, b]
  | .fexp2 _ a _ => [a]
  | .flog2 _ a _ => [a]
  | .fred _ a => [a]
  | .frmax _ a _ => [a]
  | .frmin _ a _ => [a]
  | .cvtf _ a _ _ _ _ => [a]
  | .cvti _ a _ _ _ => [a]
  | .cvtif _ a _ _ _ _ => [a]
  | .cvt4 _ a _ _ _ => [a]
  | .mxpack _ a _ _ => [a]
  | .mxunpk _ a _ _ => [a]
  | .scpack _ a _ _ _ _ _ => [a]
  | .scunpk _ a b _ _ => [a, b]
  | .fclass _ a => [a]
  | .fround _ a b m => if m.toNat = 5 then [a, b] else [a]
  | .fscale _ a b _ => [a, b]
  | .pcarve a => [a]
  | .pcommit _ _ _ => []
  | .pmap a => [a]
  | .pstat _ a _ _ => [a]
  | .pgather _ a _ _ _ _ _ => [a]
  | .pissue _ _ _ _ _ => []
  | .pissuex _ _ _ _ _ => []
  | .pdrain _ a _ _ _ _ => [a]
  | .pclear _ a _ _ => [a]
  | .psort _ a _ _ => [a]
  | .psortk _ _ _ _ _ => []
  | .psave _ a _ => [a]
  | .prestore _ a _ _ => [a]
  | .pqstat _ _ _ => []
  | .steer _ a b _ => [a, b]
  | .merge _ a b _ => [a, b]
  | .lexit _ a b => [a, b]
  | .gate _ a b => [a, b]
  | .dup _ a _ => [a]
  | .zipt _ a b => [a, b]
  | .talloc _ _ _ => []
  | .tfree a _ => [a]
  | .troute _ a _ _ => [a]
  | .isect _ a b _ _ => [a, b]
  | .union _ a b _ _ => [a, b]
  | .fibre _ a b _ => [a, b]
  | .packv _ a => [a]
  | .splitv _ a _ => [a]
  | .compact _ a => [a]
  | .order _ a _ => [a]
  | .switch _ a b _ => [a, b]
  | .poison _ _ => []
  | .ends _ a _ => [a]
  | .chocc _ _ => []
  | .vld _ a => [a]
  | .vst _ a b => [a, b]
  | .vldx _ a b _ => [a, b]
  | .vstx _ a b _ => [a, b]
  | .gld _ a _ _ => [a]
  | .gst _ a b _ _ => [a, b]
  | .sport a _ _ _ => [a]
  | .sreq _ a _ _ => [a]
  | .sgath _ a _ => [a]
  | .tilest _ a b _ _ => [a, b]
  | .tileq _ _ _ => []
  | .valloc _ a _ _ _ _ => [a]
  | .vfree a => [a]
  | .pref a _ _ => [a]
  | .glda _ a _ _ _ _ => [a]
  | .gstr _ a _ _ _ _ => [a]
  | .fence _ _ => []
  | .fencex _ => []
  | .fencep _ => []
  | .seqkey _ a _ => [a]
  | .perfw _ => []
  | .mcsync a => [a]
  | .aadd _ a _ _ _ _ _ => [a]
  | .aand _ a _ _ _ _ _ => [a]
  | .aor _ a _ _ _ _ _ => [a]
  | .axor _ a _ _ _ _ _ => [a]
  | .amin _ a _ _ _ _ _ _ => [a]
  | .amax _ a _ _ _ _ _ _ => [a]
  | .axchg _ a _ _ _ _ _ => [a]
  | .acas _ a _ _ _ _ _ => [a]
  | .afadd _ a _ _ _ _ => [a]
  | .afmin _ a _ _ _ _ => [a]
  | .afmax _ a _ _ _ _ => [a]
  | .awadd _ a _ _ _ => [a]
  | .ainc _ a _ _ _ _ _ _ => [a]
  | .abit _ a _ _ _ _ _ _ => [a]
  | .map _ a _ _ _ => [a]
  | .unmap _ a _ _ _ => [a]
  | .protect _ a _ _ _ _ _ => [a]
  | .migrate _ a _ _ => [a]
  | .xinval _ a _ _ => [a]
  | .adread _ a _ _ _ _ => [a]
  | .xprobe _ a _ => [a]
  | .xsync _ _ => []
  | .copy _ a _ _ _ _ _ _ _ => [a]
  | .dtoken _ a b _ => [a, b]
  | .tbarr _ a _ _ => [a]
  | .tbwait _ a _ => [a]
  | .tbany _ a => [a]
  | .nbar _ a _ _ => [a]
  | .gbar _ a _ _ _ => [a]
  | .timew _ a _ => [a]
  | .timer _ _ => []
  | .rand _ a b => [a, b]
  | .launch _ a _ => [a]
  | .joinc _ a => [a]
  | .cfgnextStep _ => []
  | .cfgnextPost a _ => [a]
  | .strand _ a _ _ => [a]
  | .retire _ a _ => [a]
  | .prio _ a _ _ => [a]
  | .trap a _ => [a]
  | .tret _ a _ => [a]
  | .ctxsw a _ => [a]
  | .qstop _ a _ => [a]
  | .errlog _ a _ => [a]
  | .mcmp _ a => [a]
  | .attest _ a => [a]
  | .cfgld _ a => [a]
  | .cfgsig _ a _ => [a]
  | .sysrd _ a _ => [a]
  | .resultWriteback _ => []
  | .idleExpiry _ => []
  | .timewWake _ => []
  | .sharedUnitFree _ _ => []
  | .tokenSend _ _ => []
  | .tokenArrival _ => []
  | .deadlock _ => []
  | .mcastStall _ _ => []
  | .trapQueueDelivery _ => []
  | .traprec => []
  | .packetDelivery => []
  | .packetAcceptance _ => []
  | .regionGrant _ => []
  | .priorityRankUpdate _ => []
  | .imageLoad _ => []
  | .configurationLoad _ _ => []
  | .stepPlacement _ _ => []
  | .stepDrain _ _ => []
  | .launchCompletion _ => []
  | .completionReport _ => []
  | .eviction _ _ => []
  | .evictionSave _ _ => []
  | .restore _ => []
  | .quiescentPoint _ => []
  | .accessPerform _ _ => []
  | .keyedApply _ _ => []
  | .portReturn _ _ => []
  | .streamRequest _ _ => []
  | .sgathRowEmit _ _ => []
  | .mergeWindowClose _ _ => []
  | .bulkAgeing _ => []
  | .dlmiss _ => []
  | .hbmue _ _ => []
  | .tileCloseDone _ _ => []
  | .tileFreeDone _ _ => []
  | .poolQueueEntry _ => []
  | .carveStage _ _ => []
  | .commitCheck _ _ => []
  | .groupRelease _ _ _ => []
  | .leafJoin _ _ _ => []
  | .gatherRowFetch _ _ _ => []
  | .passStart _ _ => []
  | .passRootApply _ _ _ => []
  | .drainStart _ _ => []
  | .drainPacketEmit _ _ => []
  | .drainTileWriteDone _ _ => []
  | .clearStart _ _ => []
  | .sortAppend _ _ => []
  | .sortEmit _ _ => []
  | .poolecc _ _ _ _ => []
  | .copyQueueEntry _ => []
  | .copyRun _ _ => []
  | .copyCompletion _ _ => []
  | .generationClose _ _ => []
  | .barrierInstanceComplete _ => []
  | .translationEventEntry _ => []
  | .invalidationAck _ => []
  | .repatch _ => []
  | .patchFetch _ _ _ => []
  | .dirtyUpdate _ _ _ => []
  | .migrateFreeze _ => []
  | .migrateCopy _ => []
  | .migrateRemap _ => []
  | .migrateReplay _ => []
  | .translationCompletion _ => []
  | .killPropagation _ _ => []
  | .cfgecc _ => []
  | .cfgeccThaw _ _ => []
  | .stateecc _ => []
  | .attestQuoteDone => []
  | .ptpSync _ => []
  | .lockedEntry => []
  | .holdoverEntry => []
  | .fabricFlit _ _ => []
  | .powerOn => []
  | .firmwareVerify => []
  | .hbmTraining _ => []
  | .vaultRowTest _ => []
  | .ucieTraining _ => []
  | .fabricTraining _ => []
  | .regionRelease => []
  | .repairWindowStart _ => []
  | .ident _ => []
  | .fwload _ _ => []
  | .reset _ => []
  | .setpkg _ _ => []
  | .route _ _ => []
  | .tmaster _ _ => []
  | .sysload _ _ _ _ _ _ => []
  | .submit _ _ _ _ => []
  | .resume _ _ _ => []
  | .kill _ _ => []
  | .memrd _ _ _ => []
  | .memwr _ _ _ => []
  | .keyadd _ _ => []
  | .keydel _ _ => []
  | .ksnew _ _ => []
  | .ksdel _ _ => []
  | .quote _ _ _ => []
  | .manif _ _ => []
  | .rmap _ _ => []
  | .repair _ _ _ => []
  | .badframe _ _ => []
  | .controlPortLinkChange _ => []
  | .coreCurrentPeak _ => []
  | .syncTransmit => []

/-- The loader accepts the instruction in a slot. Events are no slot instructions, and are well-formed as they are. -/
def Instr.wf (i : Instr) : Bool := (legalErr i).isNone && litsAgree i.srcs

end Sys2Proof
end

