-- ==== Sys2Proof/Machine/Loader.lean ====
section
/-! DEFINITION. The Ritchail image (R59 to R70): how its bytes are taken apart, and the loader's checks in their order (R71, R72), with
the refusal record of the first failure (R73). -/

namespace Sys2Proof.Machine

/-! ### Refusals -/

/-- A refusal: code, section type, and the place (R73); what does not apply holds all ones, FIELD also where the fault lies in no word or
entry of at most 256 bits (log entry 11). -/
structure LoadErr where
  code : Nat
  sect : Nat := 0
  cfg : Nat := 0xFFFF
  elem : Nat := 0xFF
  ctx : Nat := 0xFF
  slot : Nat := 0xFF
  field : Nat := 0xFF
  off : Nat := 0
  deriving DecidableEq, Repr

/-- The 32 bytes of a refusal record (R73). -/
def LoadErr.bytes (e : LoadErr) (imageId time : Dword) : List Byte :=
  bytesLE 1 e.code ++ bytesLE 1 e.sect ++ bytesLE 2 e.cfg ++ bytesLE 1 e.elem ++ bytesLE 1 e.ctx ++ bytesLE 1 e.slot
    ++ bytesLE 1 e.field ++ bytesLE 8 imageId.toNat ++ bytesLE 8 e.off ++ bytesLE 8 time.toNat

/-- A refusal of the entry at its offset, at bit b of byte d of it. -/
def LoadErr.byte (e : LoadErr) (d : Nat) (b : Nat := 0) : LoadErr := { e with off := e.off + d, field := 8 * d + b }

/-- What the loader knows of a load (R67, R68, R69, R445): whether SYSLOAD asked for it, the mode the packet records, the number of
regions, the public keys that may sign, and which records of TARGET 1 fail their check in the address space. -/
structure LoadArgs where
  sys : Bool
  keyed : Bool
  regions : Nat
  keys : List (List Byte)
  reach1 : DataRec → Bool

/-- A refusal unless a condition holds. -/
def chk (b : Bool) (e : LoadErr) : Option LoadErr := if b then none else some e

/-- The first refusal of a list. -/
def firstErr : List (Option LoadErr) → Option LoadErr
  | [] => none
  | some e :: _ => some e
  | none :: t => firstErr t

/-- Every byte of a range is zero. -/
def zeroAt (b : List Byte) (o n : Nat) : Bool := ((b.drop o).take n).all (· == 0)

/-! ### Header and section table (R59 to R61) -/

/-- An entry of the section table (R60), with the entry's own place. -/
structure Sect where
  at_ : Nat
  typ : Nat
  idx : Nat
  off : Nat
  size : Nat
  deriving DecidableEq, Repr

/-- The section table. -/
def sectsOf (b : List Byte) : List Sect :=
  (List.range (leAt b 6 2)).map fun i =>
    let o := 64 + 24 * i
    ⟨o, leAt b o 2, leAt b (o + 2) 2, leAt b (o + 8) 8, leAt b (o + 16) 8⟩

/-- The header's checks (R59, R445). -/
def hdrErr (a : LoadArgs) (b : List Byte) : Option LoadErr :=
  firstErr [
    chk (leAt b 0 4 == 0x48435452) { code := 1, off := 0 },
    chk (leAt b 4 2 == 1) { code := 1, off := 4 },
    chk (decide (5 ≤ leAt b 6 2 ∧ leAt b 6 2 ≤ 4101)) { code := 1, off := 6 },
    chk (decide (1 ≤ leAt b 16 2 ∧ leAt b 16 2 ≤ 4096)) { code := 1, off := 16 },
    chk (decide (leAt b 18 1 < 2)) { code := 6, off := 18 },
    chk (!a.sys || leAt b 18 1 == 1) { code := 1, off := 18 },
    chk (zeroAt b 19 13) { code := 6, off := 19 },
    chk (decide (leAt b 32 8 ≤ 2 ^ 32) && decide (64 + 24 * leAt b 6 2 ≤ leAt b 32 8)) { code := 1, off := 32 },
    chk (zeroAt b 40 24) { code := 6, off := 40 }]

/-- One entry's checks (R59, R60). -/
def sectErr (len : Nat) (b : List Byte) (t : Sect) : Option LoadErr :=
  let bad : LoadErr := { code := 1, off := t.at_ }
  firstErr [
    chk (decide (1 ≤ t.typ ∧ t.typ ≤ 6)) (bad.byte 0),
    chk (t.typ == 1 || t.idx == 0) (bad.byte 2),
    chk (zeroAt b (t.at_ + 4) 4) { bad.byte 4 with code := 6 },
    chk (t.off % 64 == 0 && decide (t.off + t.size ≤ len)) (bad.byte 8)]

/-- Two sections overlap. -/
def sectsMeet (t u : Sect) : Bool := decide (t.off < u.off + u.size) && decide (u.off < t.off + t.size)

/-- The first entry of the table that a test refuses beside the entries before it. -/
def badEntry (f : List Sect → Sect → Bool) : List Sect → List Sect → Option Sect
  | _, [] => none
  | l, t :: r => if f l t then some t else badEntry f (t :: l) r

/-- The first byte between sections, ascending, that is not zero (R59). -/
def gapByte (b : List Byte) : Nat → List Sect → Option Nat
  | _, [] => none
  | o, t :: l => match ((b.drop o).take (t.off - o)).findIdx? (· != 0) with
    | some i => some (o + i)
    | none => gapByte b (t.off + t.size) l

/-- The conditions of R61 on the whole table, and the padding of R59, each with the field at fault: of the entry that breaks it, of the header
where an entry is missing, or the byte of padding. -/
def tableErr (b : List Byte) : Option LoadErr :=
  let ts := sectsOf b
  let ncfg := leAt b 16 2
  let len := leAt b 32 8
  let at_ (d : Nat) (t : Sect) : LoadErr := ({ code := 1, off := t.at_ } : LoadErr).byte d
  let table : Sect := ⟨0, 0, 0, 0, 64 + 24 * leAt b 6 2⟩
  let sig := ts.getLast?
  firstErr [
    (badEntry (fun l t => t.typ == 1 && (decide (ncfg ≤ t.idx) || l.any fun u => u.typ == 1 && u.idx == t.idx)) [] ts).map (at_ 2),
    chk ((ts.filter fun t => t.typ == 1).length == ncfg) { code := 1, off := 16 },
    (badEntry (fun l t => t.typ != 1 && l.any fun u => u.typ == t.typ) [] ts).map (at_ 0),
    chk ([2, 3, 5, 6].all fun k => ts.any fun t => t.typ == k) { code := 1, off := 6 },
    (sig.filter fun t => t.typ != 6).map (at_ 0),
    (sig.filter fun t => t.size != 96).map (at_ 16),
    (sig.filter fun t => t.off + t.size != len).map (at_ 8),
    (ts.find? fun u => match sig with | some t => decide (t.off < u.off) | none => false).map (at_ 8),
    (badEntry (fun l t => (table :: l).any (sectsMeet t)) [] ts).map (at_ 8),
    (gapByte b table.size (sortBy (fun t u => decide (t.off < u.off)) ts)).map fun o => { code := 1, off := o }]

/-- The section of a type and index. -/
def sectOf (b : List Byte) (typ idx : Nat) : Option Sect := (sectsOf b).find? fun t => t.typ == typ && t.idx == idx

/-- A section's bytes. -/
def sectBytes (b : List Byte) (t : Sect) : List Byte := (b.drop t.off).take t.size

/-! ### Signature (R70) -/

/-- The 16-byte identifier of image signatures, "AQ7716-IMAGE-V01" (R433). -/
def imageIdent : List Byte := [0x41, 0x51, 0x37, 0x37, 0x31, 0x36, 0x2D, 0x49, 0x4D, 0x41, 0x47, 0x45, 0x2D, 0x56, 0x30, 0x31]

/-- The digest that SIG signs: the bytes before it. -/
def signedDigest (b : List Byte) (t : Sect) : List Byte := sm3 (b.take t.off)

/-- The signature's check: a system image under a Krabetric key, a user image under an enrolled key. -/
def sigErr (a : LoadArgs) (b : List Byte) (t : Sect) : Option LoadErr :=
  let keys := if leAt b 18 1 == 1 then [Config.krabetricKey] else a.keys
  chk (keys.any fun k => sm3 k == sliceB b t.off 32
    && Config.sm2Verify k imageIdent (signedDigest b t) (sliceB b (t.off + 32) 32) (sliceB b (t.off + 64) 32))
    { code := 2, sect := 6, off := t.off }

/-! ### Rule entries (R41 to R44, R226) -/

/-- A term or update with its enable bit clear is all zero (R42). -/
def offZero (r : RuleEntry) (lo n : Nat) : Option (Nat × Nat) :=
  if r.getLsbD (lo + n - 1) || fld r (lo + n - 2) lo == 0 then none else some (6, lo)

/-- A channel term's kind restricts its channel and tag (R43). -/
def termErr (r : RuleEntry) (i : Nat) : Option (Nat × Nat) :=
  let t := ruleC r i
  let k := t.2.1
  let ok := if k = 4 then decide (8 ≤ t.2.2.1) && t.2.2.2 == 0
    else if k = 7 then false
    else decide (t.2.2.1 < 8) && (if k = 1 ∨ k = 5 then true else if k = 2 then decide (t.2.2.2 ≤ 6) else t.2.2.2 == 0)
  if t.1 && !ok then some (8, 36 + 12 * i) else none

/-- A rule entry's refusal: its code and the field's place. -/
def ruleErr (r : RuleEntry) : Option (Nat × Nat) :=
  ([offZero r 0 9, offZero r 9 9, offZero r 18 9, offZero r 27 9, offZero r 36 12, termErr r 0, offZero r 48 12, termErr r 1,
    offZero r 68 9, offZero r 77 9,
    if (ruleU r 0).1 && (ruleU r 1).1 && (ruleU r 0).2.2 == (ruleU r 1).2.2 then some (8, 77) else none,
    if fld r 95 86 == 0 then none else some (6, 86)] : List (Option (Nat × Nat))).findSome? id

/-- A rule guarantees a head on input k (R40). -/
def ruleHeads (r : RuleEntry) (k : Nat) : Bool :=
  ruleDq r k || [0, 1].any fun i => (ruleC r i).1 && (ruleC r i).2.2.1 == k && [0, 1, 2, 3, 5, 6].contains (ruleC r i).2.1

/-- The inputs an instruction's source fields name, each with the field's place. -/
def namedIns (i : Instr) : List Nat := i.srcs.filterMap srcIn

/-- The inputs an instruction manages (R226, R278, R358). -/
def managedIns (i : Instr) : List Nat := (if (useOf i).man then namedIns i else []) ++ (useOf i).ins

/-- The place of the source field that names input k. -/
def inField (i : Instr) (k : Nat) : Nat :=
  match i.srcs with | a :: _ => if srcIn a = some k then 8 else 3 | [] => 8

/-! ### Element records (R63) -/

/-- Slot j of a record. -/
def slotAt (b : List Byte) (o j : Nat) : Word := BitVec.ofNat 32 (leAt b (o + 48 + 4 * j) 4)
/-- Rule j of a record. -/
def ruleAt (b : List Byte) (o j : Nat) : RuleEntry := BitVec.ofNat 96 (leAt b (o + 176 + 12 * j) 12)

/-- A record taken apart. -/
def elemRecAt (b : List Byte) (o : Nat) : ElemRec where
  elem := leAt b o 1
  preds := BitVec.ofNat 128 (leAt b (o + 8) 16)
  mask := BitVec.ofNat 192 (leAt b (o + 24) 24)
  slots := (List.range 32).map (slotAt b o)
  rules := (List.range 63).map (ruleAt b o)

/-- The 960 bytes of a record. -/
def ElemRec.bytes (r : ElemRec) : List Byte :=
  bytesLE 1 r.elem ++ List.replicate 7 0 ++ bytesLE 16 r.preds.toNat ++ bytesLE 24 r.mask.toNat
    ++ (List.range 32).flatMap (fun j => bytesLE 4 (r.slots.getD j 0xFC000000#32).toNat)
    ++ (List.range 63).flatMap (fun j => bytesLE 12 (r.rules.getD j 0).toNat) ++ List.replicate 28 0

/-- What a record's checks know of its configuration: number, home context, system image, tag mode, keyed manifest, tiles declared, ports
bound (pinna × 4 + port, access). -/
structure CfgView where
  num : Nat
  home : Nat
  sysImg : Bool
  route : Bool
  keyedMani : Bool
  tiles : List Nat
  ports : List (Nat × Nat)

/-- The tile a slot's literal names, for the instructions whose tile must be declared (R272). -/
def tileNamed (op lit : Nat) : Option Nat := if op = 0xA9 ∨ op = 0xAA then some (bitsN lit 25 14) else none

/-- An access kind permits a use: 0 read, 1 write, 2 update (R272, R315). -/
def portAllows (access need : Nat) : Bool := need == 3 || access == 2 || (access == need && decide (need ≤ 1))

/-- The place of the port field of an operation (R272, R315). -/
def portField (op : Nat) : Nat := if [0xA6, 0xA7, 0xA8, 0xAD].contains op then 6 else if 0xC0 ≤ op ∧ op < 0xD0 then 2 else 0

/-- A decoder's refusal of slot j: a field of a literal word stands in the slot after it. -/
def placeOf (e : DecErr) (j : Nat) : Nat × Nat × Nat := (e.code, j + e.lsb / 32, e.lsb % 32)

/-- The checks of one occupied slot and its rule (R39, R40, R50, R226, R236, R272, R395): code, slot number of the record, field. -/
def slotErr (v : CfgView) (r : ElemRec) (j : Nat) (w : Word) : Option (Nat × Nat × Nat) :=
  let op := fld w 25 18
  let nx := if j = 31 then none else some (r.slots.getD (j + 1) 0)
  let trig := fld w 31 26
  let rule := r.rules.getD trig 0
  match decode w nx with
  | .error e =>
    if e.code = 3 ∧ e.lsb = 18 then some (3, j, 18)
    else if !(kindsOf op).contains (kindOf r.elem) then some (3, j, 18)
    else if systemOp op && !(v.home == 4 && v.sysImg) then some (4, j, 18)
    else some (placeOf e j)
  | .ok i =>
    if !(kindsOf op).contains (kindOf r.elem) then some (3, j, 18)
    else if systemOp op && !(v.home == 4 && v.sysImg) then some (4, j, 18)
    else match legalErr i with
      | some e => some (placeOf e j)
      | none =>
        match ruleErr rule with
        | some (c, f) => some (c, 0x40 + trig, f)
        | none =>
          if (managedIns i).any (ruleDq rule) then some (8, 0x40 + trig, 60)
          else match ((namedIns i).filter fun k => !(managedIns i).contains k).find? fun k => !ruleHeads rule k with
            | some k => some (9, j, inField i k)
            | none =>
              if (op = 0x86 ∨ op = 0x87) && v.route then some (3, j, 18)
              else if (match tileNamed op (fld (nx.getD 0) 25 0) with | some t => !v.tiles.contains t | none => false) then some (0xE, j + 1, 14)
              else if (match (useOf i).port with
                | some (p, n) => !(v.ports.any fun q => q.1 == pinnaOf r.elem * 4 + p && portAllows q.2 n)
                | none => false) then some (0xB, j, portField op)
              else if op = 0xEA ∧ fld w 3 0 = 1 ∧ v.keyedMani then some (0xC, j, 18)
              else none

/-- An instruction in Format X: it does not decode without a literal slot (R34). -/
def needsLit (w : Word) : Bool := match decode w none with | .error e => e.code == 7 | .ok _ => false

/-- Slots from j on: `lit` says that slot j is a literal slot. -/
def slotsErr (v : CfgView) (r : ElemRec) : Nat → Bool → List Word → Option (Nat × Nat × Nat)
  | _, _, [] => none
  | j, true, _ :: t => slotsErr v r (j + 1) false t
  | j, false, w :: t =>
    if fld w 31 26 = 63 then
      (if w = 0xFC000000#32 then slotsErr v r (j + 1) false t else some (6, j, 0))
    else match slotErr v r j w with
      | some e => some e
      | none => slotsErr v r (j + 1) (needsLit w) t

/-- A record's refusal: slots with their rules, then the rules no slot names. -/
def recErr (v : CfgView) (r : ElemRec) : Option (Nat × Nat × Nat) :=
  match slotsErr v r 0 false r.slots with
  | some e => some e
  | none => (List.range 63).findSome? fun i => (ruleErr (r.rules.getD i 0)).map fun e => (e.1, 0x40 + i, e.2)

/-- The byte offset, within a record, of a slot or rule number of R73. -/
def placeOff (n : Nat) : Nat := if n < 0x40 then 48 + 4 * n else 176 + 12 * (n - 0x40)

/-- A record's refusal with its place, for the record at offset o of the image: the byte in which the lowest bit of the field lies. A record
whose ELEM is 96 or more, or that of the record before it, is refused with RSVNZ, and CTX is the HOMECTX of the configuration (log entry 11). -/
def elemErr (v : CfgView) (b : List Byte) (o : Nat) : Option LoadErr :=
  let r := elemRecAt b o
  let base : LoadErr := { code := 6, sect := 1, cfg := v.num, elem := r.elem, ctx := v.home, off := o }
  firstErr [
    chk (decide (r.elem < 96)) { base with off := o },
    chk (zeroAt b (o + 1) 7) { base with off := o + 1 },
    (recErr v r).map fun e => { base with code := e.1, slot := e.2.1, field := e.2.2, off := o + placeOff e.2.1 + e.2.2 / 8 },
    chk (zeroAt b (o + 932) 28) { base with off := o + 932 }]

/-- The element records at some offsets, in ascending element index: an index twice is refused at the second record. -/
def elemsErr (v : CfgView) (b : List Byte) : Option Nat → List Nat → Option LoadErr
  | _, [] => none
  | prev, o :: t =>
    if prev = some (leAt b o 1) then some { code := 6, sect := 1, cfg := v.num, elem := leAt b o 1, ctx := v.home, off := o }
    else match elemErr v b o with
      | some e => some e
      | none => elemsErr v b (some (leAt b o 1)) t

/-! ### Configurations (R62 to R65) -/

/-- Offsets of the arrays of a CFG section at offset o: wires, tiles, end. -/
def wiresOff (b : List Byte) (o : Nat) : Nat := o + 64 + 960 * leAt b (o + 5) 1
/-- Where the tile records start. -/
def tilesOff (b : List Byte) (o : Nat) : Nat := wiresOff b o + (8 * leAt b (o + 6) 2 + 63) / 64 * 64
/-- Where the section's arrays end. -/
def cfgEnd (b : List Byte) (o : Nat) : Nat := tilesOff b o + 16 * leAt b (o + 8) 2

/-- A wire record (R64). -/
def wireAt (b : List Byte) (o : Nat) : Wire := ⟨leAt b o 1, leAt b (o + 1) 1, leAt b (o + 2) 1, leAt b (o + 3) 1, leAt b (o + 4) 1 == 1⟩
/-- A tile record (R65). -/
def tileAt (b : List Byte) (o : Nat) : TileRec := ⟨leAt b o 2, leAt b (o + 2) 1, leAt b (o + 4) 4, leAt b (o + 8) 4⟩

/-- The offsets of a configuration's element records, in ascending element index. -/
def elemOffs (b : List Byte) (o : Nat) : List Nat :=
  sortBy (fun p q => decide (leAt b p 1 < leAt b q 1)) ((List.range (leAt b (o + 5) 1)).map fun i => o + 64 + 960 * i)

/-- A configuration taken apart. -/
def cfgAt (b : List Byte) (o : Nat) : Cfg where
  num := leAt b o 2
  route := leAt b (o + 2) 1 == 1
  window := leAt b (o + 3) 1
  homectx := leAt b (o + 4) 1
  elems := (elemOffs b o).map (elemRecAt b)
  wires := (List.range (leAt b (o + 6) 2)).map fun i => wireAt b (wiresOff b o + 8 * i)
  tiles := (List.range (leAt b (o + 8) 2)).map fun i => tileAt b (tilesOff b o + 16 * i)

/-- The instructions of a record: slots, with the slot each stands in. -/
def recInstrs (r : ElemRec) : List (Nat × Instr) :=
  (List.range 32).filterMap fun j =>
    let w := r.slots.getD j 0xFC000000#32
    if fld w 31 26 = 63 then none
    else match decode w (if j = 31 then none else some (r.slots.getD (j + 1) 0)) with | .ok i => some (j, i) | .error _ => none

/-- The first output on which an instruction of a configuration can emit and that no wire joins: element and slot (R57). -/
def unjoined (c : Cfg) : Option (Nat × Nat) :=
  c.elems.findSome? fun r => (recInstrs r).findSome? fun p =>
    if (useOf p.2).outs.all fun k => c.wires.any fun w => w.selem == r.elem && w.sout == k then none else some (r.elem, p.1)

/-- The wires' checks (R57, R64, R404), one after another: those before it, the wire, its offset. A number outside R64's range is
a breach of R64 (R72). -/
def wiresErr (c : Cfg) (b : List Byte) (o : Nat) : List Wire → List Wire → Option LoadErr
  | _, [] => none
  | l, w :: t =>
    let base : LoadErr := { code := 10, sect := 1, cfg := c.num, elem := w.delem, ctx := c.homectx, off := o }
    match firstErr [
      chk (decide (w.selem < 96)) (base.byte 0),
      chk (decide (w.sout < 8)) (base.byte 1),
      chk (decide (w.delem < 96)) (base.byte 2),
      chk (decide (w.din < 8)) (base.byte 3),
      chk (decide (leAt b (o + 4) 1 < 2)) { base.byte 4 1 with code := 6 },
      chk (zeroAt b (o + 5) 3) { base.byte 5 with code := 6 },
      chk (!(c.homectx == 4 && w.delem == 6 && w.din == 7)) (base.byte 2),
      chk (!(l.any fun u => u.delem == w.delem && u.din == w.din)) (base.byte 2),
      chk (l.all fun u => !(u.selem == w.selem && u.sout == w.sout) || (u.multi && w.multi)) { base.byte 4 with elem := w.selem },
      chk (decide ((l.filter fun u => u.selem == w.selem && u.sout == w.sout).length < 8)) { base.byte 0 with elem := w.selem }] with
    | some e => some e
    | none => wiresErr c b (o + 8) (w :: l) t

/-- The tiles' checks (R65, R72). A tile id that stands twice is refused as well (log entry 11). -/
def tilesErr (c : Cfg) (b : List Byte) (o : Nat) : List TileRec → List TileRec → Option LoadErr
  | _, [] => none
  | l, t :: r =>
    let base : LoadErr := { code := 0xE, sect := 1, cfg := c.num, ctx := c.homectx, off := o }
    match firstErr [
      chk (decide (t.tile < 4096)) (base.byte 0),
      chk (t.state == 0 || t.state == 2) (base.byte 2),
      chk (zeroAt b (o + 3) 1) { base.byte 3 with code := 6 },
      chk (t.offset % 64 == 0 && decide (t.offset + t.bytes ≤ 67108864)) (base.byte 4),
      chk (t.bytes % 64 == 0 && decide (64 ≤ t.bytes)) (base.byte 8),
      chk (zeroAt b (o + 12) 4) { base.byte 12 with code := 6 },
      chk (!(l.any fun u => u.tile == t.tile)) (base.byte 0),
      chk (!(l.any fun u => decide (u.offset < t.offset + t.bytes) && decide (t.offset < u.offset + u.bytes))) (base.byte 4)] with
    | some e => some e
    | none => tilesErr c b (o + 16) (t :: l) r

/-- The ports a PORT section binds for a configuration (R66), whatever its own checks will find. -/
def portsOf (b : List Byte) (num : Nat) : List (Nat × Nat) :=
  match sectOf b 2 0 with
  | none => []
  | some t => (List.range (leAt b t.off 4)).filterMap fun i =>
    let o := t.off + 16 + 32 * i
    if leAt b o 2 = num then some (leAt b (o + 2) 1 * 4 + leAt b (o + 3) 1, leAt b (o + 5) 1) else none

/-- The manifest's MODE is keyed (R437). -/
def maniKeyed (b : List Byte) : Bool := match sectOf b 5 0 with | some t => leAt b (t.off + 308) 1 == 1 | none => false

/-- A configuration's checks: header, elements, wires, tiles (R62 to R65, R71). -/
def cfgErr (a : LoadArgs) (b : List Byte) (t : Sect) : Option LoadErr :=
  let o := t.off
  let c := cfgAt b o
  let sysImg := leAt b 18 1 == 1
  let base : LoadErr := { code := 6, sect := 1, cfg := t.idx, off := o }
  let tag := leAt b (o + 2) 1
  let v : CfgView := ⟨c.num, c.homectx, sysImg, c.route, maniKeyed b, c.tiles.map TileRec.tile, portsOf b c.num⟩
  firstErr [
    chk (c.num == t.idx) base,
    chk (decide (tag < 2)) { base with off := o + 2 },
    chk (if tag = 1 then c.window == 0 else decide (1 ≤ c.window ∧ c.window ≤ 16)) { base with off := o + 3 },
    chk (decide (c.homectx ≤ 4)) { base with off := o + 4 },
    chk (c.homectx != 4 || sysImg) { base with code := 4, off := o + 4 },
    chk ((c.homectx == 4) == a.sys) { base with code := 1, off := o + 4 },
    chk (decide (1 ≤ leAt b (o + 5) 1 ∧ leAt b (o + 5) 1 ≤ 96)) { base with off := o + 5 },
    chk (decide (leAt b (o + 8) 2 ≤ 4096)) { base with off := o + 8 },
    chk (zeroAt b (o + 10) 22) { base with off := o + 10 },
    chk (decide (cfgEnd b o ≤ o + t.size)) { base with code := 1 },
    elemsErr v b none (elemOffs b o),
    wiresErr c b (wiresOff b o) [] c.wires,
    (unjoined c).map fun p => { base with code := 10, elem := p.1, ctx := c.homectx, slot := p.2, field := 13,
                                          off := ((elemOffs b o).find? fun k => leAt b k 1 == p.1).getD o + placeOff p.2 + 1 },
    tilesErr c b (tilesOff b o) [] c.tiles]

/-! ### Ports, sequence, data, manifest (R66 to R69) -/

/-- A PORT entry (R66). -/
def portAt (b : List Byte) (o : Nat) : PortRec :=
  ⟨leAt b o 2, leAt b (o + 2) 1, leAt b (o + 3) 1, leAt b (o + 4) 1, leAt b (o + 5) 1, leAt b (o + 6) 1 == 1, leAt b (o + 8) 8, leAt b (o + 16) 8⟩

/-- The entries of a section with a 16-byte count header. -/
def countOffs (b : List Byte) (t : Sect) (n : Nat) : List Nat := (List.range (leAt b t.off 4)).map fun i => t.off + 16 + n * i

/-- The header of a counted section: its reserved bytes, and room for its entries, without which the section's own code is given (log entry
11). -/
def countErr (b : List Byte) (t : Sect) (n code : Nat) : Option LoadErr :=
  firstErr [chk (zeroAt b (t.off + 4) 12) { code := 6, sect := t.typ, off := t.off + 4 },
    chk (decide (16 + n * leAt b t.off 4 ≤ t.size)) { code, sect := t.typ, off := t.off }]

/-- The PORT section's checks. -/
def portsErr (a : LoadArgs) (b : List Byte) (t : Sect) : Option LoadErr :=
  let rec go : List (Nat × Nat × Nat) → List Nat → Option LoadErr
    | _, [] => none
    | l, o :: r =>
      let p := portAt b o
      let base : LoadErr := { code := 0xB, sect := 2, cfg := p.cfg, off := o }
      match firstErr [
        chk (decide (p.cfg < leAt b 16 2)) (base.byte 0),
        chk (decide (p.pinna < 12)) (base.byte 2),
        chk (decide (p.sport < 4)) (base.byte 3),
        chk (decide (p.page < 4)) (base.byte 4),
        chk (decide (p.access < 3)) (base.byte 5),
        chk (decide (leAt b (o + 6) 1 < 2)) (base.byte 6),
        chk (!(a.sys && p.param)) { base.byte 6 with code := 1 },
        chk (zeroAt b (o + 7) 1) { base.byte 7 with code := 6 },
        chk (decide (1 ≤ p.extent ∧ p.extent ≤ 2 ^ 52)) (base.byte 16),
        chk (zeroAt b (o + 24) 8) { base.byte 24 with code := 6 },
        chk (!l.contains (p.cfg, p.pinna, p.sport)) (base.byte 2)] with
      | some e => some e
      | none => go ((p.cfg, p.pinna, p.sport) :: l) r
  match countErr b t 32 0xB with
  | some e => some e
  | none => go [] (countOffs b t 32)

/-- A SEQ entry (R67). -/
def stepAt (b : List Byte) (o : Nat) : SeqStep := ⟨leAt b o 2, leAt b (o + 2) 2, leAt b (o + 4) 1, leAt b (o + 5) 1⟩

/-- The SEQ section's checks. -/
def seqErr (a : LoadArgs) (b : List Byte) (t : Sect) : Option LoadErr :=
  let rec go : Option Nat → List Nat → Option LoadErr
    | _, [] => none
    | prev, o :: r =>
      let q := stepAt b o
      let base : LoadErr := { code := 0xC, sect := 3, cfg := q.cfg, off := o }
      match firstErr [
        chk (decide (q.step ≤ 65534) && (match prev with | some n => decide (n < q.step) | none => true)) (base.byte 0),
        chk (decide (q.cfg < leAt b 16 2)) (base.byte 2),
        chk (decide (q.region < a.regions)) (base.byte 4),
        chk (decide (q.when_ < 3)) (base.byte 5),
        chk (!(q.when_ == 2 && maniKeyed b)) (base.byte 5),
        chk (zeroAt b (o + 6) 2) { base.byte 6 with code := 6 }] with
      | some e => some e
      | none => go (some q.step) r
  match countErr b t 8 0xC with
  | some e => some e
  | none => go none (countOffs b t 8)

/-- The records of a DATA section from offset o up to its end: offset and record (R68). Fewer than 16 bytes at its end hold no record (log entry
11). -/
def dataRecs (b : List Byte) (end_ : Nat) : Nat → Nat → List (Nat × DataRec)
  | 0, _ => []
  | f + 1, o =>
    if end_ < o + 16 then []
    else
      let n := leAt b (o + 4) 4
      (o, ⟨leAt b o 1 == 1, leAt b (o + 1) 1, leAt b (o + 8) 8, sliceB b (o + 16) n, o⟩) :: dataRecs b end_ f (o + 16 + (n + 7) / 8 * 8)

/-- The records of an image's DATA section, if it has one. -/
def dataOf (b : List Byte) : List (Nat × DataRec) :=
  match sectOf b 4 0 with | some t => dataRecs b (t.off + t.size) (t.size / 16 + 1) t.off | none => []

/-- The DATA section's checks (R68, R445). A record that runs past its section is refused with BADDATA (log entry 11). -/
def dataErr (a : LoadArgs) (b : List Byte) (t : Sect) : Option LoadErr :=
  (dataOf b).findSome? fun p =>
    let o := p.1
    let d := p.2
    let base : LoadErr := { code := 0xF, sect := 4, off := o }
    firstErr [
      chk (decide (leAt b o 1 < 2)) (base.byte 0),
      chk (!(a.sys && d.param)) { base.byte 0 with code := 1 },
      chk (zeroAt b (o + 2) 2) { base.byte 2 with code := 6 },
      chk (decide (o + 16 + (leAt b (o + 4) 4 + 7) / 8 * 8 ≤ t.off + t.size)) { base with field := 32 },
      chk (zeroAt b (o + 16 + d.bytes.length) ((d.bytes.length + 7) / 8 * 8 - d.bytes.length))
        { base with code := 6, off := o + 16 + d.bytes.length },
      chk (d.param || decide (d.where_ + d.bytes.length ≤ 67108864)) { base with code := 0xE, field := 64 },
      chk (d.param || decide (d.region < a.regions)) { base with field := 8 },
      chk (!(d.param && a.reach1 d)) { base with field := 64 }]

/-- TAGDIG over configurations (R437). -/
def tagDigest (cs : List Cfg) : List Byte :=
  sm3 (cs.flatMap fun c => bytesLE 2 c.num ++ bytesLE 1 (bit01 c.route) ++ bytesLE 1 c.window)

/-- The configurations of an image, ascending. -/
def cfgsOf (b : List Byte) : List Cfg :=
  (List.range (leAt b 16 2)).filterMap fun i => (sectOf b 1 i).map fun t => cfgAt b t.off

/-- The MANI section's checks (R69): its mode against the packet's, its tag-mode digest against the CFG headers. -/
def maniErr (a : LoadArgs) (b : List Byte) (t : Sect) : Option LoadErr :=
  let base : LoadErr := { code := 0xD, sect := 5, off := t.off }
  firstErr [
    chk (t.size == 448) base,
    chk (leAt b (t.off + 308) 1 == bit01 a.keyed) { base with off := t.off + 308 },
    chk (sliceB b (t.off + 344) 32 == tagDigest (cfgsOf b)) { base with off := t.off + 344 }]

/-! ### The loader -/

/-- A section's check, if it is there. -/
def withSect (b : List Byte) (typ idx : Nat) (f : Sect → Option LoadErr) : Option LoadErr :=
  match sectOf b typ idx with | some t => f t | none => none

/-- An image's first refusal, in the order of R71; each stage is looked at only when the one before it passed. -/
def imageErr (a : LoadArgs) (b : List Byte) : Option LoadErr :=
  match hdrErr a b with
  | some e => some e
  | none =>
    match firstErr (((sectsOf b).map (sectErr (leAt b 32 8) b)) ++ [tableErr b]) with
    | some e => some e
    | none =>
      firstErr [
        withSect b 6 0 (sigErr a b),
        (List.range (leAt b 16 2)).findSome? fun i => withSect b 1 i (cfgErr a b),
        withSect b 2 0 (portsErr a b),
        withSect b 3 0 (seqErr a b),
        withSect b 4 0 (dataErr a b),
        withSect b 5 0 (maniErr a b)]

/-- An image that passed its checks, taken apart. -/
def imageOf (b : List Byte) : Image where
  id := BitVec.ofNat 64 (leAt b 8 8)
  cfgs := cfgsOf b
  ports := match sectOf b 2 0 with | some t => (countOffs b t 32).map (portAt b) | none => []
  seq := match sectOf b 3 0 with | some t => (countOffs b t 8).map (stepAt b) | none => []
  data := (dataOf b).map Prod.snd
  mani := match sectOf b 5 0 with | some t => sectBytes b t | none => []
  digest := match sectOf b 6 0 with | some t => signedDigest b t | none => []

/-- Reading an image from memory: its bytes; it cannot be read (R27 step 4; log entry 11 says with which code it is refused); or a migration
has frozen a page of it, and the load waits; or a read finds an uncorrectable error (R415). -/
inductive ImageRead where
  | bytes (b : List Byte)
  | bad (code addr : Nat)
  | wait
  | found (a : Nat)
  deriving DecidableEq, Repr

/-- The image at an address of an address space, read whole (R27 step 4). -/
def State.readImage (s : State) (asid va : Nat) : ImageRead :=
  let read (n : Nat) : ImageRead := match s.reachClear asid true false va n with
    | .ok l => (match s.errIn false l with | some a => .found a | none => .bytes (s.readPieces l))
    | .fail k a => .bad k a
    | .np a => .bad 0x25 a
    | .hold => .wait
  match read 64 with
  | .bytes b => if leAt b 32 8 < 64 ∨ 2 ^ 32 < leAt b 32 8 then .bytes b else read (leAt b 32 8)
  | .bad k a => .bad k a
  | .wait => .wait
  | .found a => .found a

end Sys2Proof.Machine
end

