-- ==== Sys2Proof/Machine/Launch.lean ====
section
/-! DEFINITION. Launch packets (R381, R382), the view a context has of its launch or of its system image (R389, R468), and the six launch
and scheduling instructions (R396 to R402). -/

namespace Sys2Proof.Machine

/-! ### Packets (R381, R382) -/

/-- EXTENT of a level entry. -/
def levExtent (w : Dword) : Nat := fld w 31 0
/-- DOMAIN of a level entry. -/
def levDomain (w : Dword) : Nat := fld w 35 32
/-- SCOPE of a level entry. -/
def levScope (w : Dword) : Nat := fld w 39 36

/-- A packet taken apart; its levels are those in use. -/
def pktOf (b : List Byte) : Pkt where
  lid := leAt b 0 4
  nlev := bitsN (leAt b 4 1) 6 4 + 1
  keyed := bitsN (leAt b 4 1) 3 3 == 1
  prio := bitsN (leAt b 4 1) 2 0
  paramLen := leAt b 6 2
  imageVa := leAt b 8 8
  paramVa := leAt b 16 8
  compVa := leAt b 24 8
  seed := BitVec.ofNat 64 (leAt b 32 8)
  clo := leAt b 40 4
  ccount := leAt b 44 4
  preds := (List.range 4).map fun i => leAt b (48 + 4 * i) 4
  levels := (List.range (bitsN (leAt b 4 1) 6 4 + 1)).map fun i => BitVec.ofNat 64 (leAt b (64 + 8 * i) 8)

/-- The product of the extents of the levels of some domains. -/
def Pkt.product (p : Pkt) (doms : List Nat) : Nat :=
  (p.levels.filter fun w => doms.contains (levDomain w)).foldl (fun n w => n * levExtent w) 1
/-- P: the regions a launch takes in a package (R382). -/
def Pkt.regions (p : Pkt) : Nat := p.product [3, 4, 5]

/-- Domains do not decrease from level to level. -/
def rising : List Dword → Bool
  | [] => true
  | [_] => true
  | a :: b :: t => decide (levDomain a ≤ levDomain b) && rising (b :: t)

/-- A packet of 128 bytes is sound (R382): from LAUNCH (`dev`) or the control node, for q packages. -/
def pktSound (b : List Byte) (dev : Bool) (q : Nat) : Bool :=
  let p := pktOf b
  bitsN (leAt b 4 1) 7 7 == 0 && leAt b 5 1 == 0 && decide (p.paramLen ≤ 4096)
    && zeroAt b (64 + 8 * p.nlev) (64 - 8 * p.nlev) && p.levels.all (fun w => fld w 63 40 == 0)
    && p.lid != 0 && (decide (2 ^ 31 ≤ p.lid) == dev) && !p.preds.contains p.lid
    && canonical p.imageVa && p.imageVa % 64 == 0 && canonical p.compVa && p.compVa % 32 == 0
    && (p.paramLen == 0 || (canonical p.paramVa && p.paramVa % 64 == 0))
    && p.levels.all (fun w => decide (1 ≤ levExtent w) && decide (levDomain w ≤ 6) && decide (levDomain w ≤ levScope w ∧ levScope w ≤ 7))
    && rising p.levels && decide (p.product [3] ≤ 16) && decide (p.product [4] ≤ 16) && decide (p.regions ≤ 256) && p.product [6] == q

/-! ### Launches -/

/-- A launch that is queued, accepted or running. -/
def State.launch (s : State) (lid : Nat) : Option Launch := SMap.find s.pkg.sched.launches lid
/-- The scheduler changed. -/
def State.updSched (s : State) (f : Sched → Sched) : State := s.updPkg fun p => { p with sched := f p.sched }
/-- A launch changed. -/
def State.updLaunch (s : State) (lid : Nat) (f : Launch → Launch) : State :=
  match s.launch lid with
  | none => s
  | some l => s.updSched fun d => { d with launches := SMap.set d.launches lid (f l) }

/-- A launch id is that of a launch queued, accepted or running in the pod (R384, R385). -/
def State.inPod (s : State) (lid : Nat) : Bool := (s.launch lid).isSome || SMap.has s.pkg.sched.away lid

/-- A launch id is live: queued, accepted or running in the pod, or on its way to the queue. -/
def State.lidLive (s : State) (lid : Nat) : Bool :=
  s.inPod lid || s.pkg.sched.deliveries.any fun d => leAt d.bytes 0 4 == lid

/-- Firings of LAUNCH of other contexts that read their packets: each has claimed an entry of the device queue (R396). -/
def State.reading (s : State) : Nat := (s.ctxs.filter fun k => k.1 != s.cur.cid && k.2.ctl.readAt.isSome).length

/-- The packets in a queue of R384: 256 from LAUNCH, 1,024 from the control node; those on their way count. -/
def State.queued (s : State) (host : Bool) : Nat :=
  (s.pkg.sched.launches.filter fun l => l.2.st = .queued ∧ (decide (l.1 < 2 ^ 31) = host)).length
    + (s.pkg.sched.deliveries.filter fun d => d.host = host).length

/-! ### The sequence of a region's context -/

/-- A granted region's context as its sequencer sees it: launch (0 for a system image), address space, mode, region index, sequence, image
and snapshot. -/
structure RunView where
  lid : Nat
  asid : Nat
  keyed : Bool
  g : Nat
  seq : RegSeq
  image : Image
  snapshot : List Byte

/-- What runs in context x of region r, once its image is loaded. -/
def State.runOf (s : State) (r x : Nat) : Option RunView :=
  if x = 4 then
    match SMap.find s.pkg.sched.sys r with
    | some y => some ⟨0, y.asid, false, y.g, y.seq, y.image, []⟩
    | none => none
  else s.pkg.sched.launches.findSome? fun l =>
    match l.2.st, l.2.image, l.2.seqs.find? (fun q => q.2.region == r && q.2.x == x) with
    | .loaded, some im, some q => if l.2.evicted then none else some ⟨l.1, l.2.asid, l.2.pkt.keyed, q.1, q.2, im, l.2.snapshot⟩
    | _, _, _ => none

/-- The sequence of context x of region r changed. -/
def State.updSeq (s : State) (r x : Nat) (f : RegSeq → RegSeq) : State :=
  s.updSched fun d =>
    if x = 4 then { d with sys := d.sys.map fun y => (y.1, if y.1 = r then { y.2 with seq := f y.2.seq } else y.2) }
    else { d with launches := d.launches.map fun l => (l.1, { l.2 with seqs := l.2.seqs.map fun q =>
      (q.1, if q.2.region = r ∧ q.2.x = x then f q.2 else q.2) }) }

/-- The SEQ steps of a region index, ascending. -/
def Image.stepsOf (im : Image) (g : Nat) : List SeqStep := im.seq.filter fun q => q.region = g
/-- A configuration is a WHEN 2 step for a region index (R394, R399). -/
def Image.candidate (im : Image) (g cfg : Nat) : Bool := (im.stepsOf g).any fun q => q.cfg == cfg && q.when_ == 2

/-- A context's view of its run. -/
def State.myRun (s : State) : Option RunView := s.runOf (regionOf s.cur.cid) (ctxOf s.cur.cid)

/-! ### LAUNCH (R396) -/

/-- What the read of a packet comes to: its bytes, with the state its walk leaves; the code and address of the failure; it waits for the
completion of a migration; or it finds an uncorrectable error (R415). -/
inductive PacketRead where
  | ok (b : List Byte) (s : State)
  | fail (code va : Nat)
  | wait
  | found (a : Nat)

/-- Where the 128 bytes at an address stand (R396). -/
def State.packetReach (s : State) (c va : Nat) (v : Bool) : Reach :=
  if v then
    (if s.checkV c va 64 ≠ 0 then .fail (s.checkV c va 64) va
     else if s.checkV c (va + 64) 64 ≠ 0 then .fail (s.checkV c (va + 64) 64) (va + 64)
     else
       let l := s.redirected [(s.vaultKey va, 0, 128)]
       if s.openTo l then .ok l else .hold)
  else if !canonical va then .fail 0x20 va
  else if va % 64 ≠ 0 then .fail 0x21 va
  else s.reach (s.asidOf c) (decide (ctxOf c < 4)) false va 128

/-- The 128 bytes at an address, as they are read at the decision point. -/
def State.packetAt (s : State) (c va : Nat) (v : Bool) : PacketRead :=
  match s.packetReach c va v with
  | .fail k a => .fail k a
  | .np a => .fail 0x25 a
  | .hold => .wait
  | .ok l =>
    match s.errIn false l, s.piecesCode c false l with
    | some a, _ => .found a
    | none, some k => .fail k.1 (k.2 % 2 ^ 52)
    | none, none => .ok (s.readPieces l) (if v then s else s.touch (s.asidOf c) false va 128)

/-- The base priority of the launch of a context; 7 for a system configuration, which lowers nothing (R468). -/
def State.basePrio (s : State) (c : Nat) : Nat := match s.launch (s.lidOf c) with | some l => l.basePrio | none => 7

/-- Byte 4 of a packet, CTRL, with PRIO lowered. -/
def lowerPrio (b : List Byte) (p : Nat) : List Byte :=
  b.take 4 ++ bytesLE 1 (leAt b 4 1 / 8 * 8 + min (leAt b 4 1 % 8) p) ++ b.drop 5

/-- The cycles to the decision point: the last byte of the packet (R403). -/
def State.packetLat (s : State) (c va : Nat) (v : Bool) : Nat := if v then s.latency (regionOf c) (s.vaultKey va) else 140

/-- The packet of the firing in hand is on its way: its last byte is read by the end of a cycle, and the context fires nothing more meanwhile
(R93, R396). -/
def State.startRead (s : State) (n : Nat) : State := (s.updCtx s.cur.cid fun k => k.updCtl fun t => { t with readAt := some n }).waitTurn

/-- The packet of LAUNCH has been read: it is judged, and queued as a child of the launch (R396). -/
def State.judgePacket (s : State) (d : Dst) (b : List Byte) : Out :=
  let c := s.cur.cid
  let lid := leAt b 0 4
  if !pktSound b true 1 then s.trap 0x0A
  else if s.lidLive lid then s.trap 0x0B
  else
    let dl : Delivery := { source := (s.source c).toNat, asid := s.asidOf c, bytes := lowerPrio b (s.basePrio c), pkgs := [s.pkg.pkgId],
                           parent := if s.lidOf c = 0 then none else some (s.lidOf c), host := false }
    ((s.updSched fun k => { k with deliveries := k.deliveries ++ [dl] }).stepKey 5).finish 1 (s.write d (.sca (BitVec.ofNat 64 lid)) 0)

/-- LAUNCH: the read, in keyed mode once its turn has come, and then the decision at its last byte. -/
def execLaunch (d : Dst) (a : Src) (v : BitVec 1) (s : State) : Out :=
  let c := s.cur.cid
  let va := (s.srcSca a).toNat
  if s.keyFault 5 then s.trap 0x04
  else match s.my.ctl.readAt with
  | none => .next (if s.myTurn then s.startRead (s.cycle + s.packetLat c va (v == 1) - 1) else s.waitTurn)
  | some n =>
    if s.cycle < n then .next s.waitTurn
    else
      let s0 := s.updCtx c fun k => k.updCtl fun t => { t with readAt := none }
      match s.packetAt c va (v == 1) with
      | .wait => .next s.waitTurn
      | .found e => .next (s.findFor c s.firing.toNat e s.my.regs.kr).waitTurn
      | .fail k x => s0.trap k (some x)
      | .ok b s1 => (s1.updCtx c fun k => k.updCtl fun t => { t with readAt := none }).judgePacket d b

/-! ### JOINC (R397) -/

/-- What JOINC finds of a child: nothing known, running, or complete with the first two bytes of its record. -/
inductive Child where
  | none
  | live
  | done (code flags : Nat)
  deriving DecidableEq, Repr

/-- A launch id as a child of a context's launch. -/
def State.child (s : State) (c lid : Nat) : Child :=
  let me := s.lidOf c
  if me = 0 then .none
  else if (match s.launch lid with | some l => l.parent == some me | none => false)
      || (s.pkg.sched.deliveries.any fun d => leAt d.bytes 0 4 == lid && d.parent == some me) then .live
  else match (s.launch me).bind fun l => SMap.find l.kids lid with
    | some k => .done k.1 k.2
    | none => .none

/-- JOINC. -/
def execJoinc (d : Dst) (a : Src) (s : State) : Out :=
  match s.child s.cur.cid ((s.srcSca a).toNat % 2 ^ 32) with
  | .live => .next s
  | .none =>
    (match d with
    | .out _ => s.poisonTo d 1 (s.poisonNew d 0x4A)
    | .x _ => s.finish 1 (s.write d (.sca (BitVec.allOnes 64)) 0)
    | .v _ => s.done
    | .null => s.done)
  | .done code flags =>
    match d with
    | .out k => if code = 0 then s.finish 1 [.emit k.toNat (s.stamp s.cur.cid (depTok (s.my.otag k.toNat)))]
      else s.poisonTo d 1 (s.poisonNew d 0x4A)
    | .x _ => s.finish 1 (s.write d (.sca (BitVec.ofNat 64 (code + flags * 256))) 0)
    | .v _ => s.done
    | .null => s.done

/-! ### CFGNEXT (R398, R399) -/

/-- An entry queue has room, the posts of the cycle counted (R394, R399). -/
def RegSeq.postRoom (q : RegSeq) (cfg : Nat) : Bool :=
  decide ((SMap.get q.queues cfg []).length + (q.posted.filter fun p => p.1 = cfg).length < 1024)

/-- The words posted in a cycle enter their queues in order. -/
def RegSeq.land (q : RegSeq) (now : Nat) : RegSeq :=
  q.posted.foldl (fun q p =>
    let l := SMap.get q.queues p.1 []
    { q with queues := SMap.set q.queues p.1 (l ++ [p.2]), since := if l.isEmpty then SMap.set q.since p.1 now else q.since })
    { q with posted := [] }

/-- The posts of the cycle that ends enter their queues. -/
def State.landPosts (s : State) : State :=
  let f (q : RegSeq) : RegSeq := if q.posted.isEmpty then q else q.land s.cycle
  s.updSched fun d => { d with launches := d.launches.map fun l => (l.1, { l.2 with seqs := l.2.seqs.map fun q => (q.1, f q.2) }),
                               sys := d.sys.map fun y => (y.1, { y.2 with seq := f y.2.seq }) }

/-- CFGNEXT.STEP: the choice is recorded; the sequencer acts on it. -/
def execCfgnextStep (k : BitVec 4) (s : State) : Out :=
  (s.updRes s.cur.cid fun p => { p with choice := some (k.toNat + 1) }).done

/-- CFGNEXT.POST: the word enters the queue at the end of the firing's cycle (R403). -/
def execCfgnextPost (a : Src) (cfg : BitVec 12) (s : State) : Out :=
  match s.myRun with
  | none => s.trap 0x09
  | some v =>
    if !v.image.candidate v.g cfg.toNat then s.trap 0x09
    else if !v.seq.postRoom cfg.toNat then .next s
    else (s.updSeq (regionOf s.cur.cid) (ctxOf s.cur.cid) fun q => { q with posted := q.posted ++ [(cfg.toNat, s.srcSca a)] }).done

/-! ### STRAND (R400) -/

/-- A package's place in the list of its launch (R444). -/
def State.podIndex (s : State) (l : Launch) : Nat := (findIdx (· == s.pkg.pkgId) l.pkgs).getD 0

/-- The coordinate of a level in region index g: a digit of the mixed-radix number, for placement levels alone (R389, R444). -/
def coordOf (p : Pkt) (n level : Nat) : Nat :=
  match p.levels[level]? with
  | none => 0
  | some w =>
    if levDomain w < 3 then 0
    else n / ((p.levels.take level).filter fun u => decide (3 ≤ levDomain u)).foldl (fun m u => m * levExtent u) 1 % levExtent w

/-- STRAND. -/
def execStrand (d : Dst) (a : Src) (g c : BitVec 4) (s : State) : Out :=
  let l := s.launch (s.lidOf s.cur.cid)
  let x := s.srcSca a
  if c = 0 then
    s.finish 1 (s.write d (.sca (match l with | some l => (match l.pkt.levels[g.toNat]? with | some w => BitVec.ofNat 64 (levExtent w) | none => 0) | none => 0)) 0)
  else if c = 1 then
    let n := match l, s.res s.cur.cid with | some l, some p => coordOf l.pkt (s.podIndex l * l.pkt.regions + p.g) g.toNat | _, _ => 0
    s.finish 1 (s.write d (.sca (BitVec.ofNat 64 n)) 0)
  else if c = 2 then
    match l with
    | some l =>
      if 8 * x.toNat < l.snapshot.length then s.finish 40 (s.write d (.sca (BitVec.ofNat 64 (leAt l.snapshot (8 * x.toNat) 8))) 0)
      else s.poisonTo d 40 (s.poisonNew d 0x49)
    | none => s.poisonTo d 40 (s.poisonNew d 0x49)
  else if c = 3 then s.finish 1 (s.write d (.sca (BitVec.ofNat 64 (s.lidOf s.cur.cid))) 0)
  else
    let k := outNo d
    let num := match s.res s.cur.cid with | some p => p.cfg.num | none => 0
    match s.myRun with
    | none => s.finish 1 [.emit k (s.stamp s.cur.cid (eosTok (s.my.otag k)))]
    | some v =>
      match (if v.image.candidate v.g num then SMap.get v.seq.queues num [] else []) with
      | [] => s.finish 1 [.emit k (s.stamp s.cur.cid (eosTok (s.my.otag k)))]
      | w :: t =>
        (s.updSeq (regionOf s.cur.cid) (ctxOf s.cur.cid) fun q => { q with queues := SMap.set q.queues num t }).finish 1
          [.emit k (s.stamp s.cur.cid (scaTok (s.my.otag k) w))]

/-! ### RETIRE (R401) -/

/-- A copy in flight whose destination lies in retired allocations loses its token, and writes no more there. -/
def State.cutCopy (s : State) (k : CopyCmd) : CopyCmd :=
  if (List.range (cpRows k.d)).any fun w => s.rowRetired k w then { k with cut := true, dropTok := true } else k

/-- RETIRE. -/
def execRetire (d : Dst) (a : Src) (l : BitVec 1) (s : State) : Out :=
  let c := s.cur.cid
  let va := (s.srcSca a).toNat
  let named := if l = 1 then s.myAllocs else s.myAllocs.filter fun x => vaultVa x.vault x.offset = va
  if l = 0 && named.isEmpty then s.trap 0x07
  else if named.isEmpty then
    s.finish 1 (match d with | .out k => [.emit k.toNat (s.stamp c (depTok (s.my.otag k.toNat)))] | .v _ => [] | .x _ => [] | .null => [])
  else
    let o := s.owe d
    let ids := named.map Alloc.id
    let owes := match o.1, s.outTag d with | some n, some t => some (c, n, t.1, t.2) | _, _ => none
    let mark (y : Alloc) : Alloc := if ids.contains y.id then { y with freed := some s.reqNo, retired := true, owes := owes } else y
    let s1 := o.2.updPkg fun p => { p with allocs := p.allocs.map mark }
    let cutQ (z : CopyQ) : CopyQ := { z with cmds := z.cmds.map s1.cutCopy }
    (s1.updRegion (regionOf c) fun g => { g with copyIn := g.copyIn.map s1.cutCopy, copyQ := g.copyQ.map fun z => (z.1, cutQ z.2) }).done

/-- An access or a copy older than a mark still names bytes of an allocation. -/
def State.allocBusy (s : State) (a : Alloc) (mark : Nat) : Bool :=
  let lo := vaultVa a.vault a.offset
  (s.reqs.any fun r => decide (r.id < mark) && r.accs.any fun x => !x.over && (match x.pa with
      | some p => meets p x.size (s.vaultKey lo) a.bytes | none => r.vspace && meets x.va x.size lo a.bytes))
    || (s.regions.any fun g => (g.2.copyIn ++ g.2.copyQ.flatMap fun z => z.2.cmds).any fun k =>
        decide (k.id < mark) && k.lid == a.lid && k.cfg == a.cfg && regionOf k.cid == a.region
          && (List.range (cpRows k.d)).any fun w =>
            (s.intoV k && decide (0 ≤ k.rowDst w) && meets (k.rowDst w).toNat (cpBytes k.d) lo a.bytes)
              || (s.outOfV k && decide (0 ≤ k.rowSrc w) && meets (k.rowSrc w).toNat (cpBytes k.d) lo a.bytes))

/-- The bytes of freed allocations that nothing names any more become free, and RETIRE's token leaves with the last of its allocations
(R283, R401). -/
def State.sweepAllocs (s : State) : State :=
  let gone := s.pkg.allocs.filter fun a => match a.freed with | some m => !s.allocBusy a m | none => false
  let left := s.pkg.allocs.filter fun a => !(gone.map Alloc.id).contains a.id
  let toks := ((gone.filterMap Alloc.owes).filter fun o => !(left.any fun a => a.owes == some o)).eraseDups
  toks.foldl (fun s o => s.deliverWord o.1 (some o.2.1) (some o.2.2) 1 true 1) (s.updPkg fun p => { p with allocs := left })

/-! ### PRIO (R402) -/

/-- PRIO: .SET takes effect at the end of its cycle (R403). -/
def execPrio (d : Dst) (_a : Src) (g c : BitVec 4) (s : State) : Out :=
  let lid := s.lidOf s.cur.cid
  if c = 0 then (s.updLaunch lid fun l => { l with nextPrio := some (min g.toNat l.pkt.prio) }).done
  else s.finish 1 (s.write d (.sca (match s.launch lid with
    | some l => BitVec.ofNat 64 (l.effPrio + l.basePrio * 16) | none => 0)) 0)

end Sys2Proof.Machine
end

