-- ==== Sys2Proof/Machine/PoolSum.lean ====
section
/-! DEFINITION. The numbers of the pool (R182, R206 to R208, R148 to R151, R214): chunks, products, windows, the pass sum, the two chains of
an entry, and the packet a drain makes of its entries. -/

namespace Sys2Proof.Machine

/-! ### Formats and chunks (R182) -/

/-- Elements per 32-byte chunk of a format. -/
def epc (fmt : Nat) : Nat := if fmt = 1 ∨ fmt = 2 then 16 else if fmt = 5 then 64 else 32

/-- Two formats form a product class: 1 FP16, 2 BF16, 3 FP8, 6 scaled FP8, 5 MXFP4, 8 INT8; 0 for none. -/
def productClass (a b : Nat) : Nat :=
  if a = b ∧ (a = 1 ∨ a = 2 ∨ a = 5 ∨ a = 8) then a
  else if (a = 3 ∨ a = 4) ∧ (b = 3 ∨ b = 4) then 3
  else if (a = 6 ∨ a = 7) ∧ (b = 6 ∨ b = 7) then 6
  else 0

/-- Elements per block of a block code (R150); 0 without blocks. -/
def blockSize (b : Nat) : Nat := if b = 1 then 16 else if b = 2 then 32 else 0

/-- n entries of a list from o, short of them zero. -/
def sliceN (l : List Nat) (o n : Nat) : List Nat := (List.range n).map fun i => l.getD (o + i) 0

/-- Chunk c of a latch row: its elements and its scales. -/
def LatchRow.chunk (r : LatchRow) (c : Nat) : List Nat × List Nat :=
  let bs := blockSize r.blk
  (sliceN r.elems (c * epc r.fmt) (epc r.fmt), if bs = 0 then [] else sliceN r.scales (c * (epc r.fmt / bs)) (epc r.fmt / bs))

/-- An element of a format under its scale, and whether reading it raises invalid (R136, R141, R143). -/
def elemValue (fmt code scale : Nat) : Fv × Bool :=
  if fmt = 5 then (e8m0Value (e2m1.value code) scale, false)
  else if fmt = 6 ∨ fmt = 7 then s24Times ((fmtOf fmt).value code) scale
  else if fmt = 8 then (.fin (decide (signedN 8 code < 0)) (signedN 8 code).natAbs 0, false)
  else ((fmtOf fmt).value code, ((fmtOf fmt).value code).snan)

/-- The elements of a chunk under their scales: a chunk carries a scale for each of its own row's blocks, which divide it evenly (R142, R182). -/
def chunkValues (fmt : Nat) (c : List Nat × List Nat) : List (Fv × Bool) :=
  (List.range (epc fmt)).map fun e => elemValue fmt (c.1.getD e 0) (c.2.getD (e * c.2.length / epc fmt) 0)

/-! ### Exact sums (R206, R207) -/

/-- A term at a power of two at or below its own. -/
def Term.at_ (t : Term) (g : Int) : Int := (if t.neg then -1 else 1) * ((t.mag * 2 ^ (t.exp - g).toNat : Nat) : Int)

/-- The least power of two of a list of terms. -/
def minExp : List Term → Int
  | [] => 0
  | [t] => t.exp
  | t :: r => min t.exp (minExp r)

/-- The exact sum of terms. -/
def sumTerms (l : List Term) : Term :=
  let g := minExp l
  let v : Int := (l.map fun t => t.at_ g).foldl (· + ·) 0
  ⟨decide (v < 0), v.natAbs, g⟩

/-- E_max: the greatest exponent of the terms that are not zero. -/
def maxTop : List Term → Option Int
  | [] => none
  | t :: r => if t.mag = 0 then maxTop r else some (match maxTop r with | some m => max m (topExp t.mag t.exp) | none => topExp t.mag t.exp)

/-- A term truncated toward zero to a multiple of 2^g, and whether that discarded something. -/
def Term.cut (t : Term) (g : Int) : Term × Bool :=
  if g ≤ t.exp then (t, false)
  else (⟨t.neg, t.mag / 2 ^ (g - t.exp).toNat, g⟩, t.mag % 2 ^ (g - t.exp).toNat ≠ 0)

/-- The window of a class: its width less 1 (R206). -/
def windowOf (cls : Nat) : Option Nat := if cls = 2 then some 95 else if cls = 6 then some 127 else none

/-- Terms under their window, and whether a truncation discarded something. -/
def windowed (cls : Nat) (l : List Term) : List Term × Bool :=
  match windowOf cls, maxTop l with
  | some w, some m => let r := l.map fun t => t.cut (m - w); (r.map Prod.fst, r.any Prod.snd)
  | some _, none => (l, false)
  | none, _ => (l, false)

/-- What a product gives: NaN with or without invalid, an infinity, or a term. -/
inductive Prod3 where
  | nan (inv : Bool)
  | inf (neg : Bool)
  | term (t : Term)
  deriving DecidableEq, Repr

/-- One product of two read elements (R207). -/
def product (a b : Fv × Bool) : Prod3 :=
  match mulFv a.1 b.1 with
  | none => .nan true
  | some (.nan _) => .nan (a.2 || b.2)
  | some (.inf s) => .inf s
  | some (.fin s n e) => .term ⟨s, n, e⟩

/-- A product raises invalid. -/
def Prod3.inv : Prod3 → Bool | .nan i => i | .inf _ => false | .term _ => false
/-- A product is NaN. -/
def Prod3.isNan : Prod3 → Bool | .nan _ => true | .inf _ => false | .term _ => false
/-- A product is an infinity of a sign. -/
def Prod3.isInf (s : Bool) : Prod3 → Bool | .nan _ => false | .inf t => s == t | .term _ => false
/-- A product is −0. -/
def Prod3.negZero : Prod3 → Bool | .nan _ => false | .inf _ => false | .term t => t.neg && t.mag == 0
/-- The term of a product. -/
def Prod3.terms : Prod3 → List Term | .nan _ => [] | .inf _ => [] | .term t => [t]

/-- The products of leaf chunks, grouped: each group of products gives one term of the sum when the class sums blocks (R206). -/
def chunkProducts (cls afmt bfmt blk : Nat) (a b : List Nat × List Nat) : List (List Prod3) :=
  let va := chunkValues afmt a
  let vb := chunkValues bfmt b
  let ps := (va.zip vb).map fun p => product p.1 p.2
  if cls = 6 then chunks (blockSize blk) 64 ps else [ps]

/-- What a part sends for a multiply pass on a row: products of its leaves' chunks. -/
def partSend (cls afmt bfmt blk entry : Nat) (cs : List ((List Nat × List Nat) × (List Nat × List Nat))) : Send :=
  let bs := cs.flatMap fun c => chunkProducts cls afmt bfmt blk c.1 c.2
  let ps := bs.flatten
  .prods entry (ps.any Prod3.isNan) ((ps.any Prod3.inv)) (ps.any (Prod3.isInf false)) (ps.any (Prod3.isInf true))
    (cls ≠ 8 && ps.all Prod3.negZero)
    (if cls = 6 then bs.map fun b => sumTerms (b.flatMap Prod3.terms) else ps.flatMap Prod3.terms)

/-- The pass sum (R207). -/
def passSum (cls : Nat) (nan inv posInf negInf allNegZero : Bool) (ts : List Term) : Fr :=
  if nan ∨ (posInf ∧ negInf) then frNan (inv || (posInf && negInf))
  else if posInf ∨ negInf then frInf negInf
  else
    let w := windowed cls ts
    let t := sumTerms w.1
    if t.mag = 0 then ((frZero allNegZero).1, { inx := w.2 })
    else let r := fr (fp32.round 0 0 t.neg t.mag t.exp); (r.1, { r.2 with inx := r.2.inx || w.2 })

/-! ### Entries (R208) -/

/-- A pass sum applied to an entry. -/
def AccEntry.add (e : AccEntry) (s : Fr) : AccEntry :=
  let k := e.pc.toNat % 2
  let r := fadd 0 (if k = 0 then e.chain0 else e.chain1) s.1
  { chain0 := if k = 0 then r.1 else e.chain0, chain1 := if k = 0 then e.chain1 else r.1, pc := e.pc + 1,
    flags := e.flags ||| s.2.bits ||| r.2.bits, owed := true }

/-- The value of an entry and its flags. -/
def AccEntry.value (e : AccEntry) : Word × BitVec 32 :=
  let r := fadd 0 e.chain0 e.chain1
  (r.1, e.flags ||| r.2.bits)

/-! ### Drain formats (R148 to R151, R213, R214) -/

/-- Payload bytes of n elements (R151). -/
def payloadBytes (fmt blk n : Nat) : Nat :=
  let bs := blockSize blk
  (n * fmtBits fmt + 31) / 32 * 4 + (if bs = 0 then 0 else (n / bs * (if fmt = 5 then 1 else 4) + 3) / 4 * 4)

/-- Codes of a width packed little-endian (R138), padded to 4 bytes. -/
def packCodes (w : Nat) (l : List Nat) : List Byte :=
  bytesLE ((l.length * w + 31) / 32 * 4) ((l.zip (List.range l.length)).foldl (fun m p => m + p.1 % 2 ^ w * 2 ^ (w * p.2)) 0)

/-- A drain's conversion of its values (R214): codes, scales, flags. -/
def drainConvert (fmt blk rnd : Nat) (l : List Word) : List Nat × List Nat × Fl :=
  if fmt = 0 then (l.map BitVec.toNat, [], {})
  else if fmt = 8 ∨ fmt = 9 then
    let r := l.map fun v => toInt (if fmt = 8 then 8 else 32) rnd 0 (val32 v)
    (r.map Prod.fst, [], Fl.all (r.map Prod.snd))
  else if fmt = 5 then
    let r := (chunks 32 4096 l).map fun b => mxBlock (b.map val32)
    (r.flatMap fun b => b.2.1, r.map Prod.fst, Fl.all (r.map fun b => b.2.2))
  else if fmt = 6 ∨ fmt = 7 then
    let r := (chunks (blockSize blk) 4096 l).map fun b => scBlock (fmtOf fmt) rnd (b.map val32)
    (r.flatMap fun b => b.2.1, r.map Prod.fst, Fl.all (r.map fun b => b.2.2))
  else
    let r := l.map fun v => (fmtOf fmt).conv rnd 0 (val32 v)
    (r.map Prod.fst, [], Fl.all (r.map Prod.snd))

/-- FIRST of a drain descriptor (R212). -/
def dsFirst (d : Dword) : Nat := fld d 63 52
/-- Entries of a drain: ROWS × COLS. -/
def dsCount (d : Dword) : Nat := (fld d 51 40 + 1) * (fld d 39 28 + 1)
/-- TILE. -/
def dsTile (d : Dword) : Nat := fld d 27 16
/-- FMT. -/
def dsFmt (d : Dword) : Nat := fld d 15 12
/-- BLK. -/
def dsBlk (d : Dword) : Nat := fld d 11 10
/-- RND. -/
def dsRnd (d : Dword) : Nat := fld d 8 6

/-- The header a drain writes (R150, R214), given FLAGS: the fields of the descriptor, LAST 1, SEQ 0, and the rounding code as applied. -/
def drainHeader (d : Dword) (fl : Nat) : Nat :=
  let rnd := if dsFmt d = 0 ∨ ((dsFmt d = 8 ∨ dsFmt d = 9) ∧ dsRnd d = 6) then 0 else dsRnd d
  dsFmt d * 2 ^ 60 + dsBlk d * 2 ^ 58 + fld d 9 9 * 2 ^ 57 + 2 ^ 56 + fld d 51 40 * 2 ^ 44 + fld d 39 28 * 2 ^ 32
    + fl % 32 * 2 ^ 27 + rnd * 2 ^ 24 + dsTile d

/-- The descriptor breaks R213, but for the tile's size. -/
def drainBad (d : Dword) : Bool :=
  fld d 5 0 != 0 || !headerOk (drainHeader d 0) || decide (4096 - dsFirst d < dsCount d) || dsRnd d == 5 || dsRnd d == 7
    || (dsFmt d == 5 && dsRnd d != 6)
    || ((dsFmt d == 6 || dsFmt d == 7) && !(dsRnd d == 0 || dsRnd d == 1 || dsRnd d == 4))

/-- Header and payload of a drain from the values and flags of its entries. -/
def drainPacket (d : Dword) (vals : List Word) (fl : BitVec 32) : Nat × List Byte :=
  let r := drainConvert (dsFmt d) (dsBlk d) (dsRnd d) vals
  let scales := r.2.1.flatMap fun x => bytesLE (if dsFmt d = 5 then 1 else 4) x
  (drainHeader d (fl ||| r.2.2.bits).toNat,
   packCodes (fmtBits (dsFmt d)) r.1 ++ scales ++ List.replicate ((4 - scales.length % 4) % 4) 0)

/-- The vector tokens of a payload, 768 bytes each (R151). -/
def payloadTokens (tag : BitVec 4) (p : List Byte) : List Token :=
  (chunks 768 (p.length / 768 + 1) p).map fun c => vecTok tag (Mask.first ((c.length + 3) / 4)) (Vec.ofList (lanesOf c))

end Sys2Proof.Machine
end

