-- ==== Sys2Proof/Machine/Pool.lean ====
section
/-! DEFINITION. The pool commands of the C-strips (R182 to R224): words and their checks, ownership and issuers, what each command hands to
its queue, the status reads, and the save and restore of a node. -/

namespace Sys2Proof.Machine

/-! ### Carve words (R189, R217) and map words (R190) -/

/-- AFMT of a carve word. -/
def cwAfmt (w : Dword) : Nat := fld w 63 60
/-- BFMT. -/
def cwBfmt (w : Dword) : Nat := fld w 59 56
/-- SBLK. -/
def cwSblk (w : Dword) : Nat := fld w 55 54
/-- MODE: a sort group. -/
def cwSort (w : Dword) : Bool := w.getLsbD 53
/-- LINKLO. -/
def cwLo (w : Dword) : Bool := w.getLsbD 52
/-- LINKHI. -/
def cwHi (w : Dword) : Bool := w.getLsbD 51
/-- COUNT. -/
def cwCount (w : Dword) : Nat := fld w 50 40
/-- START. -/
def cwStart (w : Dword) : Nat := fld w 39 30
/-- GID. -/
def cwGid (w : Dword) : Nat := fld w 25 16

/-- A carve word that R189 or R217 refuses. -/
def carveBad (w : Dword) : Bool :=
  fld w 27 26 != 0 || fld w 15 0 != 0 || cwCount w == 0 || decide (1024 < cwStart w + cwCount w)
    || (cwLo w && cwStart w != 0) || (cwHi w && cwStart w + cwCount w != 1024)
    || (if cwSort w then cwLo w || cwHi w || cwSblk w != 0 || cwBfmt w != 0
          || !(cwAfmt w == 0 || cwAfmt w == 1 || cwAfmt w == 2 || cwAfmt w == 9)
        else
          let c := productClass (cwAfmt w) (cwBfmt w)
          c == 0 || (if c = 5 then cwSblk w != 2 else if c = 6 then cwSblk w != 1 && cwSblk w != 2 else cwSblk w != 0))

/-- The GID range of a map word covers a GID. -/
def mwCovers (w : Dword) (gid : Nat) : Bool := decide (fld w 63 54 ≤ gid ∧ gid ≤ fld w 63 54 + fld w 53 44)
/-- ALLS. -/
def mwAll (w : Dword) : Bool := w.getLsbD 41
/-- CLASS: a load map. -/
def mwLoad (w : Dword) : Bool := w.getLsbD 40
/-- LANE. -/
def mwLane (w : Dword) : Nat := fld w 39 37
/-- The chunk the group of rank k starts with. -/
def mwChunk (w : Dword) (k : Nat) : Nat := fld w 36 27 + k * fld w 26 17

/-- A map word that R190 refuses. -/
def mapBadWord (w : Dword) : Bool :=
  fld w 16 0 != 0 || decide (1023 < fld w 63 54 + fld w 53 44) || (mwAll w && fld w 43 42 != 0)

/-! ### Nodes -/

/-- A sorus node. -/
def State.node (s : State) (r so : Nat) : Node := SMap.get (s.region r).nodes so {}
/-- A node changed. -/
def State.updNode (s : State) (r so : Nat) (f : Node → Node) : State :=
  s.updRegion r fun g => { g with nodes := SMap.upd g.nodes so {} f }
/-- A queue of a node by number: 0 carve, 1 operand, 2 drain. -/
def Node.q (n : Node) (q : Nat) : PoolQ := if q = 0 then n.cq else if q = 1 then n.oq else n.dq
/-- A queue changed. -/
def Node.updQ (n : Node) (q : Nat) (f : PoolQ → PoolQ) : Node :=
  if q = 0 then { n with cq := f n.cq } else if q = 1 then { n with oq := f n.oq } else { n with dq := f n.dq }

/-- The queue a command goes to (R185). -/
def PoolOp.queue (o : PoolOp) : Nat :=
  match o with
  | .carve _ => 0
  | .map _ => 0
  | .commit => 0
  | .gather _ _ => 1
  | .issue _ _ _ => 1
  | .drain _ _ _ _ => 2
  | .clear _ _ => 2
  | .sort _ _ => 2
  | .sortk _ _ _ => 2

/-- The entries of a queue that are taken or claimed (R185). -/
def State.poolTaken (s : State) (r so q : Nat) : Nat :=
  ((s.node r so).q q).cmds.length + ((s.region r).poolIn.filter fun k => k.op.queue == q && k.sori.contains so).length

/-- A free entry in the queue of every sorus named. -/
def State.poolRoom (s : State) (r q : Nat) (l : List Nat) : Bool := l.all fun so => decide (s.poolTaken r so q < 16)

/-- A group's part belongs to generation g. -/
def Group.inGen (p : Group) (g : Nat) : Bool := decide (p.gFrom ≤ g) && (match p.gTo with | none => true | some t => decide (g ≤ t))
/-- The parts of the current carving. -/
def Node.current (n : Node) : List Group := n.groups.filter fun p => p.gTo.isNone
/-- The part of a GID in the carving of a generation (R188). -/
def Node.groupAt (n : Node) (gen gid : Nat) : Option Group := n.groups.find? fun p => p.inGen gen && cwGid p.word == gid
/-- An older carving is still being released. -/
def Node.pending (n : Node) : Bool := n.groups.any fun p => p.gTo.isSome && !p.released
/-- A part changed. -/
def Node.updGroup (n : Node) (p : Group) (f : Group → Group) : Node :=
  { n with groups := n.groups.map fun q => if q.gFrom = p.gFrom ∧ cwGid q.word = cwGid p.word then f q else q }
/-- Accumulator entries of a dot group's root part (R194). -/
def Group.entryCount (p : Group) : Nat := min 4096 (64 * cwCount p.word)

/-! ### Ownership and issuers (R186, R187) -/

/-- The trap a firing of context c takes for a queue of a sorus, or 0: POOLOWN, POOLSRC. -/
def State.poolOwn (s : State) (c so q : Nat) : Nat :=
  let n := s.node (regionOf c) so
  match n.owner with
  | none => 0
  | some o =>
    if o ≠ ctxOf c then 0x12
    else if s.keyed c && (match SMap.find n.issuer q with | some e => e != elemOf c | none => false) then 0x13
    else 0

/-- The first trap over the sori a command names. -/
def State.poolOwnAll (s : State) (c q : Nat) (l : List Nat) : Nat := (l.map fun so => s.poolOwn c so q).foldl (fun m x => if m = 0 then x else m) 0

/-- The context becomes the owner of an unowned sorus, and the element its queue's issuer in keyed mode. -/
def State.poolTake (s : State) (c q : Nat) : List Nat → State
  | [] => s
  | so :: t =>
    (s.updNode (regionOf c) so fun n =>
      let iss := if n.owner.isNone then [] else n.issuer
      { n with owner := some (ctxOf c), ending := if n.owner.isNone then false else n.ending,
               issuer := if s.keyed c && (SMap.find iss q).isNone then SMap.set iss q (elemOf c) else iss }).poolTake c q t

/-- A command of the firing in hand handed to its queues: it enters 2 cycles on (R185). -/
def State.poolSend (s : State) (d : Dst) (op : PoolOp) (l : List Nat) : State :=
  let c := s.cur.cid
  let o := s.owe d
  let k : PoolCmd := { id := s.reqNo, op, cid := c, fcount := s.firing.toNat, key := s.my.regs.kr, reqs := (s.my.point 5).reqs, sori := l,
                       arrives := s.cycle + 2, pend := o.1, out := s.outTag d }
  let s1 := { o.2.poolTake c op.queue l with reqNo := s.reqNo + 1 }
  s1.updRegion (regionOf c) fun g => { g with poolIn := g.poolIn ++ [k] }

/-- The sori a command with ALL and SORUS fields names. -/
def soriOf (all : BitVec 1) (so : BitVec 2) : List Nat := if all = 1 then [0, 1, 2, 3] else [so.toNat]

/-- The firing's ownership trap, or its continuation (R197). -/
def State.poolGate (s : State) (q : Nat) (l : List Nat) (k : Out) : Out :=
  if s.poolOwnAll s.cur.cid q l ≠ 0 then s.trap (s.poolOwnAll s.cur.cid q l) else k

/-! ### Carve queue commands (R198, R199) -/

/-- PCARVE. -/
def execPcarve (a : Src) (s : State) : Out :=
  match s.poisoned [a] with
  | some p => (s.countPoison s.cur.cid p).done
  | none =>
    let w := s.srcSca a
    s.poolGate 0 [fld w 29 28] (if carveBad w then s.trap 0x14 else (s.poolSend .null (.carve w) [fld w 29 28]).done)

/-- The sori of a map word. -/
def mwSori (w : Dword) : List Nat := if mwAll w then [0, 1, 2, 3] else [fld w 43 42]

/-- PMAP. -/
def execPmap (a : Src) (s : State) : Out :=
  match s.poisoned [a] with
  | some p => (s.countPoison s.cur.cid p).done
  | none =>
    let w := s.srcSca a
    s.poolGate 0 (mwSori w) (if mapBadWord w then s.trap 0x14 else (s.poolSend .null (.map w) (mwSori w)).done)

/-- A completion token that waits for several sori. -/
def State.poolWait (s : State) (d : Dst) (n : Nat) (commit : Bool) : State :=
  match d with
  | .out k => s.updRegion (regionOf s.cur.cid) fun g =>
      { g with waits := g.waits ++ [{ id := s.reqNo, left := n, cid := s.cur.cid, pend := some s.pendNo,
                                      out := some (k.toNat, s.my.otag k.toNat), commit }] }
  | .v _ => s
  | .x _ => s
  | .null => s

/-- PCOMMIT. -/
def execPcommit (d : Dst) (l : BitVec 1) (so : BitVec 2) (s : State) : Out :=
  let t := soriOf l so
  s.poolGate 0 t ((s.poolWait d t.length true).poolSend d .commit t).done

/-! ### Operand queue commands (R201, R202) -/

/-- Logical rows of a lane, those of gathers on their way to the queue with them (R195). -/
def State.laneRows (s : State) (r so l : Nat) : Nat :=
  (SMap.get (s.node r so).latch l []).length
    + ((s.region r).poolIn.map fun k => match k.op with
        | .gather m rows => if m = l ∧ k.sori.contains so then rows.length else 0
        | .carve _ => 0
        | .map _ => 0
        | .commit => 0
        | .issue _ _ _ => 0
        | .drain _ _ _ _ => 0
        | .clear _ _ => 0
        | .sort _ _ => 0
        | .sortk _ _ _ => 0).sum

/-- PGATHER: a logical row for every lane of the lane-valid mask, in ascending lane order; the tile stays ready until the last is fetched, from
the firing on or from when the table lets it (R262). -/
def execPgather (d : Dst) (a : Src) (l : BitVec 3) (so : BitVec 2) (tile : BitVec 12) (col wid : BitVec 7) (s : State) : Out :=
  let c := s.cur.cid
  match s.poisoned [a] with
  | some p => (s.countPoison c p).done
  | none =>
    let ix := s.srcVec a
    let js := Mask.list s.my.regs.mask
    let w := 8 * (wid.toNat + 1)
    s.poolGate 1 [so.toNat] (
      if 16 < s.laneRows (regionOf c) so.toNat l.toNat + js.length ∨ 1024 < w then s.trap 0x14
      else if js.isEmpty then (s.poolTake c 1 [so.toNat]).finish 1 (match d with
        | .out k => [.emit k.toNat (s.stamp c (depTok (s.my.otag k.toNat)))]
        | .v _ => []
        | .x _ => []
        | .null => [])
      else if s.keyFault 5 then s.trap 0x04
      else
        let rows := js.map fun j =>
          ({ id := s.reqNo, fcount := s.firing.toNat, so := so.toNat, lane := l.toNat, num := 0, tile := tile.toNat, col := 8 * col.toNat, width := w, ix := ix.get j, cid := c,
             last := js.getLast? == some j, pend := (s.owe d).1, out := s.outTag d, key := s.my.regs.kr, reqs := (s.my.point 5).reqs } : GatherRow)
        (((s.poolSend d (.gather l.toNat rows) [so.toNat]).tileAsk (regionOf c) tile.toNat (.gather s.reqNo)).engineKey).done)

/-- PISSUE. -/
def execPissue (d : Dst) (so : BitVec 2) (all load : BitVec 1) (n : BitVec 16) (s : State) : Out :=
  let t := soriOf all so
  s.poolGate 1 t ((s.poolWait d t.length false).poolSend d (.issue (load == 1) none (n.toNat + 1)) t).done

/-- PISSUEX. -/
def execPissuex (d : Dst) (so : BitVec 2) (all : BitVec 1) (b : BitVec 3) (n : BitVec 16) (s : State) : Out :=
  let t := soriOf all so
  s.poolGate 1 t ((s.poolWait d t.length false).poolSend d (.issue false (some b.toNat) (n.toNat + 1)) t).done

/-! ### Drain queue commands (R212 to R219) -/

/-- The tile of a drain is absent or too short (R213). -/
def State.drainTileBad (s : State) (r : Nat) (w : Dword) : Bool :=
  match s.tile r (dsTile w) with
  | none => true
  | some t => decide (t.bytes < 64 + payloadBytes (dsFmt w) (dsBlk w) (dsCount w))

/-- PDRAIN: the descriptor is checked; with .TILE the tile fills from now on, or as soon as its table lets it (R262). -/
def execPdrain (d : Dst) (a : Src) (clr to_ : BitVec 1) (so : BitVec 2) (gid : BitVec 10) (s : State) : Out :=
  let r := regionOf s.cur.cid
  match s.poisoned [a] with
  | some p => (s.countPoison s.cur.cid p).done
  | none =>
    let w := s.srcSca a
    let op := PoolOp.drain w (clr == 1) (to_ == 1) gid.toNat
    s.poolGate 2 [so.toNat] (
      if drainBad w || (to_ == 1 && s.drainTileBad r w) then s.trap 0x14
      else if to_ = 0 then (s.poolSend d op [so.toNat]).done
      else if s.keyFault 5 then s.trap 0x04
      else (((s.poolSend d op [so.toNat]).engineKey).tileAsk r (dsTile w) (.drain s.reqNo)).done)

/-- PCLEAR. -/
def execPclear (d : Dst) (a : Src) (so : BitVec 2) (gid : BitVec 10) (s : State) : Out :=
  match s.poisoned [a] with
  | some p => (s.countPoison s.cur.cid p).done
  | none =>
    let w := s.srcSca a
    s.poolGate 2 [so.toNat] (if fld w 39 1 ≠ 0 then s.trap 0x14 else (s.poolSend d (.clear w gid.toNat) [so.toNat]).done)

/-- PSORT: the lanes S1 has under the lane-valid mask, in ascending order. -/
def execPsort (d : Dst) (a : Src) (so : BitVec 2) (gid : BitVec 10) (s : State) : Out :=
  match s.poisoned [a] with
  | some p => (s.countPoison s.cur.cid p).done
  | none =>
    let v := s.srcVec a
    s.poolGate 2 [so.toNat] (s.poolSend d (.sort ((Mask.list (s.active [a])).map v.get) gid.toNat) [so.toNat]).done

/-- PSORTK. -/
def execPsortk (d : Dst) (idx desc : BitVec 1) (so : BitVec 2) (gid : BitVec 10) (s : State) : Out :=
  s.poolGate 2 [so.toNat] (s.poolSend d (.sortk (idx == 1) (desc == 1) gid.toNat) [so.toNat]).done

/-! ### Groups across sori (R183, R184, R193) -/

/-- The place of a sorus in the chain. -/
def chainPos (r so : Nat) : Nat :=
  let f := r / 16
  let i := r % 16
  let fp := if f < 8 then f else 8 + (15 - f)
  let ip := i / 4 * 4 + (if i / 4 % 2 = 0 then i % 4 else 3 - i % 4)
  (fp * 16 + ip) * 4 + so

/-- The sorus at a place of the chain. -/
def chainAt (p : Nat) : Nat × Nat :=
  let fp := p / 64
  let ip := p / 4 % 16
  let f := if fp < 8 then fp else 8 + (15 - fp)
  (f * 16 + (ip / 4 * 4 + (if ip / 4 % 2 = 0 then ip % 4 else 3 - ip % 4)), p % 4)

/-- What stands across a boundary of a part: another part (its place and its first generation with its GID), a neighbour that has not
committed, or no match. -/
inductive Link where
  | to_ (place gFrom gid : Nat)
  | wait
  | broken
  deriving DecidableEq, Repr

/-- Two parts match across a boundary. -/
def linkMatch (lo hi : Dword) : Bool :=
  cwHi lo && cwLo hi && cwStart hi == 0 && cwAfmt lo == cwAfmt hi && cwBfmt lo == cwBfmt hi && cwSblk lo == cwSblk hi
    && cwSort lo == cwSort hi

/-- The launch that holds a context of a region, between its steps too (R388). -/
def State.holderLid (s : State) (r x : Nat) : Option Nat :=
  (s.pkg.sched.launches.find? fun l => !l.2.evicted && l.2.seqs.any fun q => q.2.region == r && q.2.x == x).map Prod.fst
/-- The launch that owns a node. -/
def State.nodeLid (s : State) (r so : Nat) : Option Nat := (s.node r so).owner.bind (s.holderLid r)

/-- The part across the upper (`up`) or lower boundary of part p at a place. An old part meets an old one first (log entry 19). -/
def State.linkOf (s : State) (place : Nat) (p : Group) (up : Bool) : Link :=
  if (if up then decide (1023 ≤ place) else place == 0) then .broken
  else
    let q := if up then place + 1 else place - 1
    let h := chainAt place
    let g := chainAt q
    let n := s.node g.1 g.2
    let ok (x : Group) : Bool := if up then linkMatch p.word x.word else linkMatch x.word p.word
    let same := s.nodeLid h.1 h.2 == s.nodeLid g.1 g.2
    let old := if p.gTo.isSome then n.groups.find? fun x => x.gTo.isSome && ok x else none
    if !n.everCommitted then .wait
    else match (match old with | some x => some x | none => n.current.find? ok) with
      | some x => if same then .to_ q x.gFrom (cwGid x.word) else .broken
      | none => .broken

/-- A part at a place, by first generation and GID. -/
def State.partAt (s : State) (place gFrom gid : Nat) : Option Group :=
  let h := chainAt place
  (s.node h.1 h.2).groups.find? fun x => x.gFrom == gFrom && cwGid x.word == gid

/-- A part's neighbours in one direction, nearest first, and how the row ends: none for its proper end. -/
def State.linkRun (s : State) (up : Bool) : Nat → Nat → Group → List (Nat × Group) × Option Link
  | 0, _, _ => ([], some .broken)
  | f + 1, place, p =>
    if !(if up then cwHi p.word else cwLo p.word) then ([], none)
    else match s.linkOf place p up with
      | .to_ q gf gid =>
        (match s.partAt q gf gid with
          | some x => let r := s.linkRun up f q x; ((q, x) :: r.1, r.2)
          | none => ([], some .broken))
      | .wait => ([], some .wait)
      | .broken => ([], some .broken)

/-- The parts of a group in chain order, with how each end stands. -/
def State.parts (s : State) (r so : Nat) (p : Group) : List (Nat × Group) × Option Link × Option Link :=
  let lo := s.linkRun false 1024 (chainPos r so) p
  let hi := s.linkRun true 1024 (chainPos r so) p
  (lo.1.reverse ++ [(chainPos r so, p)] ++ hi.1, lo.2, hi.2)

/-- A group is broken (R193). -/
def State.broken (s : State) (r so : Nat) (p : Group) : Bool :=
  let g := s.parts r so p
  g.2.1 == some .broken || g.2.2 == some .broken
/-- A group is live (R192): every part joined and every leaf in. -/
def State.live (s : State) (r so : Nat) (p : Group) : Bool :=
  let g := s.parts r so p
  g.2.1.isNone && g.2.2.isNone && g.1.all fun x => x.2.joined
/-- The root part of a group, with its place. -/
def State.rootPart (s : State) (r so : Nat) (p : Group) : Nat × Group :=
  match (s.parts r so p).1 with | x :: _ => x | [] => (chainPos r so, p)

/-- Cycles a pass takes more for its path from a part to its root (R203). -/
def spanCycles (a b : Nat) : Nat :=
  if a = b then 0 else 4 + 3 * ((a / 4 - b / 4) + (b / 4 - a / 4) - ((a / 64 - b / 64) + (b / 64 - a / 64)))
    + 40 * ((a / 64 - b / 64) + (b / 64 - a / 64))

/-- The group's poison flag takes a code, unless it holds one. -/
def Group.flagged (p : Group) (code : Nat) : Group := { p with poison := if p.poison = 0 then code else p.poison }

/-- The group of a part flagged: its root part holds the poison flag (R194). -/
def State.flagGroup (s : State) (r so : Nat) (p : Group) (code : Nat) : State :=
  let t := s.rootPart r so p
  let h := chainAt t.1
  s.updNode h.1 h.2 fun n => n.updGroup t.2 (Group.flagged · code)

/-- The groups of the current carvings of a sorus and of its neighbours that are found broken take LINKERR (R193). -/
def State.markBroken (s : State) (r so : Nat) : State :=
  let p := chainPos r so
  ([p - 1, p, p + 1].filter (· < 1024)).foldl (fun s q =>
    let h := chainAt q
    ((s.node h.1 h.2).current.filter fun g => s.broken h.1 h.2 g).foldl (fun s g => s.flagGroup h.1 h.2 g 0x63) s) s

/-! ### Status reads (R200, R223) -/

/-- PSTAT.NODE's word. -/
def Node.stat (n : Node) : Dword :=
  let iss := match n.issuer with | (_, e) :: _ => some e | [] => none
  BitVec.ofNat 64 (n.cq.cmds.length + n.oq.cmds.length * 2 ^ 5 + n.dq.cmds.length * 2 ^ 10 + n.gen % 65536 * 2 ^ 16
    + bit01 n.pending * 2 ^ 32 + (match n.owner with | some o => o | none => 7) * 2 ^ 33 + bit01 iss.isSome * 2 ^ 36
    + iss.getD 0 * 2 ^ 37 + n.lstat * 2 ^ 48)

/-- PSTAT.GROUP's word. -/
def State.groupStat (s : State) (r so gid : Nat) : Dword :=
  match (s.node r so).current.find? fun p => cwGid p.word = gid with
  | none => 0
  | some p =>
    BitVec.ofNat 64 (1 + bit01 (s.live r so p) * 2 + bit01 (s.broken r so p) * 4 + bit01 (cwSort p.word) * 8 + bit01 ((s.rootPart r so p).2.poison ≠ 0) * 16
      + cwStart p.word * 2 ^ 8 + cwCount p.word * 2 ^ 18 + p.npass % 65536 * 2 ^ 32)

/-- PSTAT.LATCH's word. -/
def Node.latchStat (n : Node) : Dword :=
  let ch := (n.latch.flatMap fun l => l.2.map fun r => if r.here then r.width else 0).sum
  BitVec.ofNat 64 (ch * 2 ^ 40 + ((List.range 8).map fun l => min 16 (SMap.get n.latch l []).length * 2 ^ (5 * l)).sum)

/-- Queue q of a node stands still: it holds a stop code, or QSTOP stops it and it is at a boundary: before a pass of the operand queue,
before a command of the others (R224, R425). -/
def PoolQ.stopped (z : PoolQ) (q : Nat) : Bool :=
  z.stop.isSome || (z.qstop && (q == 1 || match z.cmds.head? with | none => true | some k => k.startAt.isNone))

/-- PQSTAT's word for queue n of a node. -/
def PoolQ.stat (q : PoolQ) (n : Nat) : Dword :=
  let h := q.cmds.head?
  let st := if q.stopped n then 3 else match h with | none => 0 | some k => if k.startAt.isSome then 1 else 2
  BitVec.ofNat 64 (q.cmds.length + st * 2 ^ 6 + (if q.stopped n then q.stop.getD 0x86 else 0) * 2 ^ 8
    + (match h with | some k => k.prog % 65536 * 2 ^ 16 + k.stamp % 65536 * 2 ^ 32 | none => 0) + q.done % 65536 * 2 ^ 48)

/-- What a probe reads. -/
def State.probeWord (s : State) (r : Nat) (p : Probe) : Dword :=
  let n := s.node r p.so
  if p.sel = 0 then n.stat else if p.sel = 1 then s.groupStat r p.so p.gid else if p.sel = 2 then n.latchStat else (n.q (p.sel - 3)).stat (p.sel - 3)

/-- A read of the node's state as of the next cycle, written back at latency 3. -/
def State.sendProbe (s : State) (d : Dst) (so sel gid : Nat) : Out :=
  match d with
  | .x k =>
    ((s.openPend s.cur.cid [] [k.toNat] []).updRegion (regionOf s.cur.cid) fun g =>
      { g with probes := g.probes ++ [{ cid := s.cur.cid, pend := s.pendNo, x := k.toNat, so, sel, gid }] }).done
  | .v _ => s.done
  | .out _ => s.done
  | .null => s.done

/-- The probes of a region answered: they read the state of this cycle. -/
def State.answerProbes (s : State) (r : Nat) : State :=
  ((s.region r).probes.foldl (fun t p => t.settle p.cid p.pend 2 [.sreg p.x (s.probeWord r p)]) s).updRegion r fun g => { g with probes := [] }

/-- PSTAT. -/
def execPstat (d : Dst) (a : Src) (g : BitVec 4) (so : BitVec 2) (s : State) : Out :=
  match (if g = 1 then s.poisoned [a] else none) with
  | some p => (s.countPoison s.cur.cid p).done
  | none => s.sendProbe d so.toNat g.toNat (if g = 1 then fld (s.srcSca a) 9 0 else 0)

/-- PQSTAT. -/
def execPqstat (d : Dst) (g : BitVec 4) (so : BitVec 2) (s : State) : Out := s.sendProbe d so.toNat (3 + g.toNat) 0

/-! ### Saving and restoring (R220 to R222) -/

/-- Nothing of a node is in flight: its queues are empty, no pass is in flight, no packet or tile write is leaving. -/
def State.nodeIdle (s : State) (r so : Nat) : Bool :=
  let n := s.node r so
  n.cq.cmds.isEmpty && n.oq.cmds.isEmpty && n.dq.cmds.isEmpty && n.runs.isEmpty && n.packets.isEmpty && n.tileWrites.isEmpty
    && !((s.region r).poolIn.any fun k => k.sori.contains so) && !((s.region r).gather.any fun k => k.so = so)

/-- The three queues of a node are empty, and nothing is on its way to them (R222). -/
def State.queuesEmpty (s : State) (r so : Nat) : Bool :=
  let n := s.node r so
  n.cq.cmds.isEmpty && n.oq.cmds.isEmpty && n.dq.cmds.isEmpty && !((s.region r).poolIn.any fun k => k.sori.contains so)

/-- The source number a save record names: element 0 of the region in the owner context (R221). -/
def State.saveSource (s : State) (r : Nat) (owner : Option Nat) : Nat := (s.source (mkCid r 0 (owner.getD 0))).toNat

/-- The launch of a node's owner, as a save record names it; 0 without one. -/
def State.saveLid (s : State) (r : Nat) (owner : Option Nat) : Nat := (owner.bind (s.holderLid r)).getD 0

/-- The seal key of the present reset as bytes, the most significant first (R433). -/
def State.sealKey (s : State) : List Byte := bytesBE 32 (Config.sealKey s.pkg.trust.resets).toNat

/-- A save record (R221): its header, the seal under the trust engine's key, and the body. -/
def State.saveRecord (s : State) (r so : Nat) : List Byte :=
  let n := s.node r so
  let src := s.saveSource r n.owner
  let body := (Config.saveBody (src * 4 + so) n.saves).take (2 ^ 21 - 64)
  let h := bytesLE 4 0x56415350 ++ bytesLE 2 1 ++ bytesLE 2 (bit01 n.pending) ++ bytesLE 4 (64 + body.length) ++ bytesLE 4 n.saves
    ++ bytesLE 4 src ++ bytesLE 1 so ++ bytesLE 1 (n.owner.getD 0xFF) ++ bytesLE 2 (n.gen % 65536) ++ bytesLE 8 (s.saveLid r n.owner)
  h ++ hmacSm3 s.sealKey (h ++ body) ++ body

/-- A queue with nothing in it, stopped as it was: QSTOP's stop ends by its .GO alone, another cause's while the launch lives (R425). -/
def PoolQ.cleared (q : PoolQ) (lives : Bool) : PoolQ := { qstop := q.qstop, stop := if lives then q.stop else none }
/-- A node with nothing in it: unowned, no carving, empty latch, GEN 0; its save count goes on. -/
def Node.cleared (n : Node) (lives : Bool) : Node :=
  { saves := n.saves, cq := n.cq.cleared lives, oq := n.oq.cleared lives, dq := n.dq.cleared lives }
/-- The node after a save. -/
def Node.fresh (n : Node) : Node := { n.cleared true with saves := n.saves + 1 }

/-- A save recorded by the trust engine. -/
def State.recordSave (s : State) (r so : Nat) : State :=
  let n := s.node r so
  s.updPkg fun p => { p with trust := { p.trust with saves := p.trust.saves ++
    [{ lid := s.saveLid r n.owner, source := s.saveSource r n.owner, sorus := so, seqno := n.saves, used := false, node := n,
       sealed := s.saveRecord r so }] } }

/-- A status or a dependence token for a destination. -/
def State.statusTo (s : State) (d : Dst) (w : Dword) : List Eff :=
  match d with
  | .out k => [.emit k.toNat (s.stamp s.cur.cid (depTok (s.my.otag k.toNat)))]
  | .x k => [.sreg k.toNat w]
  | .v _ => []
  | .null => []

/-- Cycles to move n bytes at 512 per cycle and complete 40 cycles after the last (R225). -/
def moveCycles (n : Nat) : Nat := (n + 511) / 512 + 40

/-- PSAVE: the record is written to the save area and the node reset. A page it is written to that is not present stops it; another failed
check gives its poison (R271). -/
def execPsave (d : Dst) (a : Src) (so : BitVec 2) (s : State) : Out :=
  let c := s.cur.cid
  let r := regionOf c
  let va := (s.srcSca a).toNat
  let b := s.saveRecord r so.toNat
  if !canonical va || va % 65536 != 0 then s.trap 0x14
  else s.withReach d true va b.length fun l =>
    if s.keyFault 5 then s.trap 0x04
    else if !s.myTurn then .next s.waitTurn
    else
      let s1 := (((s.touch (s.asidOf c) true va b.length).writePieces l b).recordSave r so.toNat).updNode r so.toNat Node.fresh
      (s1.addDeadline c s.firing.toNat s.my.regs.kr (l.map Prod.fst) (moveCycles b.length)).engineKey.finish (moveCycles b.length) (s.statusTo d (BitVec.ofNat 64 b.length))

/-- The saves of a source and sorus of a launch, latest last. -/
def Trust.savesOf (t : Trust) (lid src so : Nat) : List SaveRec := t.saves.filter fun k => k.lid == lid && k.source == src && k.sorus == so

/-- The save a record names, if the record restores (R222): its header and seal hold, and it is the latest save of its source and sorus
and has not been used. -/
def State.restorable (s : State) (b : List Byte) : Option SaveRec :=
  let n := leAt b 8 4
  let src := leAt b 16 4 % 2 ^ 29
  let so := leAt b 20 1
  if leAt b 0 4 ≠ 0x56415350 ∨ leAt b 4 2 ≠ 1 ∨ 2 ^ 21 < n ∨ n < 64
      ∨ hmacSm3 s.sealKey (b.take 32 ++ (b.take n).drop 64) ≠ sliceB b 32 32 then none
  else match (s.pkg.trust.savesOf (leAt b 24 8) src so).getLast? with
    | some k => if k.used ∨ k.seqno ≠ leAt b 12 4 then none else some k
    | none => none

/-- A save marked as used. -/
def Trust.useSave (t : Trust) (k : SaveRec) : Trust :=
  { t with saves := t.saves.map fun j =>
      if j.lid = k.lid ∧ j.source = k.source ∧ j.sorus = k.sorus ∧ j.seqno = k.seqno then { j with used := true } else j }

/-- A saved queue put in place of one: QSTOP's stop is the place's own (R425), another cause's goes with the command it holds. -/
def PoolQ.install (q saved : PoolQ) : PoolQ :=
  { saved with qstop := q.qstop, stop := if saved.cmds.isEmpty then q.stop else saved.stop }
/-- A saved node put in place with a new owner; what is still leaving the node leaves. -/
def State.installNode (s : State) (r so owner : Nat) (n : Node) : State :=
  s.updNode r so fun m => { n with owner := some owner, saves := max m.saves (n.saves + 1), packets := m.packets, runs := m.runs,
                                   opsIn := max m.opsIn n.opsIn, passFree := max m.passFree n.passFree,
                                   cq := m.cq.install n.cq, oq := m.oq.install n.oq, dq := m.dq.install n.dq }

/-- The bytes a restore reads: the record's own length, or the header alone where that breaks R222. -/
def restoreLen (h : List Byte) : Nat := if 64 ≤ leAt h 8 4 ∧ leAt h 8 4 ≤ 2 ^ 21 then leAt h 8 4 else 64

/-- PRESTORE: an address that is not canonical fails the read's own check (R222, R271). -/
def execPrestore (d : Dst) (a : Src) (x so : BitVec 2) (s : State) : Out :=
  let c := s.cur.cid
  let r := regionOf c
  let va := (s.srcSca a).toNat
  if (s.node r so.toNat).owner.isSome || !s.queuesEmpty r so.toNat then s.trap 0x12
  else s.withReach d false va 64 fun h =>
    let n := restoreLen (s.readPieces h)
    s.withReach d false va n fun l =>
      if s.keyFault 5 then s.trap 0x04
      else if !s.myTurn then .next s.waitTurn
      else
        let s0 := s.touch (s.asidOf c) false va n
        match s.restorable (s.readPieces l) with
        | none => s0.trap 0x15
        | some k =>
          let s1 := s0.updPkg fun p => { p with trust := p.trust.useSave k }
          ((s1.installNode r so.toNat x.toNat k.node).markBroken r so.toNat).engineKey.finish (moveCycles k.sealed.length) (s.statusTo d 0)

end Sys2Proof.Machine
end

