-- ==== Sys2Proof/Machine/PoolEvents.lean ====
section
/-! DEFINITION. What the sorus nodes do on their own (R185 to R225): queue entry, staging, commits, release and joining, the gather unit,
passes and their sums, drains, clears, sorts, and soft errors of pool storage. -/

namespace Sys2Proof.Machine

/-! ### Entering a queue (R185, R188, R195) -/

/-- Fields an operand or drain command takes as it enters: its stamp and its number. -/
def PoolCmd.stamped (k : PoolCmd) (n : Node) : PoolCmd := { k with stamp := n.gen, num := n.opsIn }

/-- A command enters the queue of one sorus. -/
def Node.enter (n : Node) (k : PoolCmd) : Node :=
  match k.op with
  | .carve _ => n.updQ 0 fun q => { q with cmds := q.cmds ++ [k.stamped n] }
  | .map _ => n.updQ 0 fun q => { q with cmds := q.cmds ++ [k.stamped n] }
  | .commit =>
    let m : Node := { n with gen := n.gen + 1 }
    m.updQ 0 fun q => { q with cmds := q.cmds ++ [k.stamped m] }
  | .gather l rows =>
    let row (x : GatherRow) : LatchRow :=
      { num := n.opsIn + 1, here := false, width := x.width, fmt := 0, blk := 0, entry := 0, code := 0, elems := [], scales := [] }
    let run : OpRun := { num := n.opsIn + 1, id := k.id, left := 1, started := true, until_ := 0 }
    let m : Node := { n with opsIn := n.opsIn + 1, latch := SMap.upd n.latch l [] (· ++ rows.map row), runs := n.runs ++ [run] }
    m.updQ 1 fun q => { q with cmds := q.cmds ++ [k.stamped m] }
  | .issue _ _ _ =>
    let run : OpRun := { num := n.opsIn + 1, id := k.id, left := 0, started := false, until_ := 0 }
    let m : Node := { n with opsIn := n.opsIn + 1, runs := n.runs ++ [run] }
    m.updQ 1 fun q => { q with cmds := q.cmds ++ [k.stamped m] }
  | .drain _ _ _ _ => n.updQ 2 fun q => { q with cmds := q.cmds ++ [k.stamped n] }
  | .clear _ _ => n.updQ 2 fun q => { q with cmds := q.cmds ++ [k.stamped n] }
  | .sort _ _ => n.updQ 2 fun q => { q with cmds := q.cmds ++ [k.stamped n] }
  | .sortk _ _ _ => n.updQ 2 fun q => { q with cmds := q.cmds ++ [k.stamped n] }

/-- Commands in order of arrival, then of source (R185). -/
def poolOrder (l : List PoolCmd) : List PoolCmd := sortBy (fun a b => decide (a.arrives < b.arrives ∨ (a.arrives = b.arrives ∧ a.cid < b.cid))) l

/-- The commands that enter in this cycle: of those due, each one that no earlier command keeps from one of its queues. -/
def poolEntrants : List PoolCmd → List (Nat × Nat) → List PoolCmd
  | [], _ => []
  | k :: t, used =>
    let mine := k.sori.map fun so => (so, k.op.queue)
    if mine.any used.contains then poolEntrants t (used ++ mine) else k :: poolEntrants t (used ++ mine)

/-- POOL_QUEUE_ENTRY: a queue accepts one command per cycle. -/
def execPoolQueueEntry (r : Nat) (s : State) : Out :=
  let g := s.region r
  let ks := poolEntrants (poolOrder (g.poolIn.filter fun k => decide (k.arrives ≤ s.cycle + 1))) []
  let s1 := s.updRegion r fun g => { g with poolIn := g.poolIn.filter fun k => !(ks.any fun j => j.id = k.id) }
  .next (ks.foldl (fun s k => k.sori.foldl (fun s so => s.updNode r so (Node.enter · k)) s) s1)

/-! ### Completions -/

/-- A sorus's share of a command is done: with the last one, D receives its token (R199, R202). -/
def State.shareDone (s : State) (r id : Nat) (res : Nat × Nat × Nat) : State :=
  match (s.region r).waits.find? fun w => w.id = id with
  | none => s
  | some w =>
    let rs := w.results ++ [res]
    if 1 < w.left then
      s.updRegion r fun g => { g with waits := g.waits.map fun x => if x.id = id then { x with left := x.left - 1, results := rs } else x }
    else
      let s1 := s.updRegion r fun g => { g with waits := g.waits.filter fun x => x.id ≠ id }
      if w.commit then
        let ord := sortBy (fun a b => decide (a.1 < b.1)) rs
        let p := match ord.find? fun x => x.2.1 ≠ 0 with | some x => x | none => ord.headD (0, 0, 0)
        s1.deliverWord w.cid w.pend w.out 1 false (BitVec.ofNat 64 (p.2.1 + p.1 * 2 ^ 8 + p.2.2 % 65536 * 2 ^ 10))
      else s1.deliverWord w.cid w.pend w.out 1 true 1

/-- The first command of a queue leaves it; the next one comes to the head for the cycle after. -/
def Node.pop (n : Node) (q now : Nat) : Node :=
  n.updQ q fun z => { z with cmds := match z.cmds.drop 1 with
    | k :: t => { k with arrives := max k.arrives (if q = 0 then now + 1 else now) } :: t
    | [] => [] }
/-- A queue completes a command. -/
def Node.count (n : Node) (q : Nat) : Node := n.updQ q fun z => { z with done := z.done + 1 }
/-- The head of a queue changed. -/
def Node.updHead (n : Node) (q : Nat) (f : PoolCmd → PoolCmd) : Node :=
  n.updQ q fun z => { z with cmds := match z.cmds with | k :: t => f k :: t | [] => [] }
/-- The head command of a queue that runs, once it has entered. -/
def Node.head (n : Node) (q now : Nat) : Option PoolCmd :=
  if (n.q q).stopped q then none
  else match (n.q q).cmds.head? with
    | some k => if k.arrives ≤ now then some k else none
    | none => none

/-- The operand commands of a node that are complete leave its list (R202). -/
def State.settleRuns (s : State) (r so : Nat) : State :=
  let over_ (x : OpRun) : Bool := x.started && x.left == 0 && decide (x.until_ ≤ s.cycle)
  ((s.node r so).runs.filter over_).foldl (fun s x =>
    (s.updNode r so fun n => ({ n with runs := n.runs.filter fun y => y.num ≠ x.num }).count 1).shareDone r x.id (so, 0, 0)) s

/-- A run of a node changed. -/
def Node.updRun (n : Node) (num : Nat) (f : OpRun → OpRun) : Node := { n with runs := n.runs.map fun x => if x.num = num then f x else x }

/-! ### The carve queue (R191 to R193) -/

/-- CARVE_STAGE: a word at the head of the carve queue joins the staged set. -/
def execCarveStage (r so : Nat) (s : State) : Out :=
  match (s.node r so).head 0 s.cycle with
  | none => .next s
  | some k =>
    match k.op with
    | .carve w => .next (s.updNode r so fun n => ({ n with staged := n.staged ++ [w] }.pop 0 s.cycle).count 0)
    | .map w => .next (s.updNode r so fun n => ({ n with stagedMaps := n.stagedMaps ++ [w] }.pop 0 s.cycle).count 0)
    | .commit => .next s
    | .gather _ _ => .next s
    | .issue _ _ _ => .next s
    | .drain _ _ _ _ => .next s
    | .clear _ _ => .next s
    | .sort _ _ => .next s
    | .sortk _ _ _ => .next s

/-- Two carve words share a leaf. -/
def leavesMeet (a b : Dword) : Bool := decide (cwStart a < cwStart b + cwCount b ∧ cwStart b < cwStart a + cwCount a)

/-- Some two entries of a list, in order, are related. -/
def anyPair {α : Type} (f : α → α → Bool) : List α → Bool
  | [] => false
  | a :: t => t.any (f a) || anyPair f t

/-- The dot groups a map word covers, in ascending GID (R190). -/
def coveredBy (m : Dword) (l : List Dword) : List Dword :=
  sortBy (fun a b => decide (cwGid a < cwGid b)) (l.filter fun w => !cwSort w && mwCovers m (cwGid w))

/-- The status of a staged set (R191). -/
def stagedStatus (ws ms : List Dword) : Nat :=
  if 1024 < ws.length ∨ 32 < ms.length then 5
  else if anyPair leavesMeet ws then 1
  else if anyPair (fun a b => cwGid a == cwGid b) ws then 2
  else if ms.any fun m => let l := coveredBy m ws
      (l.zip (List.range l.length)).any fun p => decide (1024 < mwChunk m p.2 + cwCount p.1) then 3
  else if anyPair (fun a b => mwLoad a == mwLoad b && (coveredBy a ws).any fun w => mwCovers b (cwGid w)) ms then 4
  else 0

/-- An operand command of a node still has a pass to start on a part (R192). -/
def Node.passToCome (n : Node) (p : Group) : Bool :=
  n.oq.cmds.any fun k => p.inGen k.stamp && (match k.op with
    | .issue load ex _ =>
      (SMap.get n.maps k.stamp []).any fun m => mwCovers m (cwGid p.word) && !cwSort p.word && (ex.isSome || mwLoad m == load)
    | .carve _ => false
    | .map _ => false
    | .commit => false
    | .gather _ _ => false
    | .drain _ _ _ _ => false
    | .clear _ _ => false
    | .sort _ _ => false
    | .sortk _ _ _ => false)

/-- A root part has nothing left to read, and no contribution to come (R192, R217). -/
def Group.readOut (p : Group) : Bool := p.entries.all (fun e => !e.2.owed) && p.keys.isEmpty && p.sends.isEmpty

/-- A group of which a part is old has nothing left to read, and no pass to come in any of its sori (R192). -/
def State.spent (s : State) (r so : Nat) (p : Group) : Bool :=
  (s.rootPart r so p).2.readOut
    && (s.parts r so p).1.all fun x => !(s.node (chainAt x.1).1 (chainAt x.1).2).passToCome x.2

/-- The leaves of the current groups whose old groups are all released join from a cycle on. -/
def Node.joinFree (n : Node) (at_ : Nat) : Node :=
  { n with groups := n.groups.map fun p =>
      if p.gTo.isNone ∧ !p.joined ∧ p.joinAt.isNone
          ∧ !(n.groups.any fun o => o.gTo.isSome && !o.released && leavesMeet o.word p.word) then { p with joinAt := some at_ } else p }

/-- Old groups that no command can name any more are forgotten. -/
def Node.prune (n : Node) : Node :=
  { n with groups := n.groups.filter fun p => !(p.released && p.sends.isEmpty
      && !((n.oq.cmds ++ n.dq.cmds).any fun k => p.inGen k.stamp)) }

/-- Ownership ends with a commit of an empty set once no group and no pending generation is left (R186; log entry 19). -/
def Node.endOwner (n : Node) : Node :=
  if n.ending ∧ !n.pending ∧ n.gen = n.installed then { n with owner := none, issuer := [], ending := false } else n

/-- An old part of a group that is spent is released, and its leaves join 4 cycles on. -/
def Node.release (n : Node) (p : Group) (now : Nat) : Node :=
  ((n.updGroup p fun q => if q.gTo.isSome then { q with released := true } else q).joinFree (now + 4)).endOwner

/-- The old groups of a sorus that are spent are released, with all their old parts. -/
def State.releaseSpent (s : State) (r so : Nat) : State :=
  ((s.node r so).groups.filter fun p => p.gTo.isSome && !p.released && s.spent r so p).foldl (fun t p =>
    (s.parts r so p).1.foldl (fun t x => t.updNode (chainAt x.1).1 (chainAt x.1).2 fun n => n.release x.2 s.cycle) t) s

/-- The staged set becomes generation g (R191, R192): a word that equals a current one keeps its group; every other current group is old;
leaves with no old group to wait for join now. -/
def Node.install (n : Node) (g now : Nat) : Node :=
  let kept (p : Group) : Bool := n.staged.any fun w => w == p.word
  let old := n.groups.map fun p => if p.gTo.isNone ∧ !kept p then { p with gTo := some (g - 1) } else p
  let new := (n.staged.filter fun w => !(n.current.any fun p => p.word == w)).map fun w => ({ word := w, gFrom := g } : Group)
  let m : Node := { n with groups := old ++ new, maps := SMap.set n.maps g n.stagedMaps, installed := g, everCommitted := true, lstat := 0,
                           ending := n.staged.isEmpty && n.stagedMaps.isEmpty, staged := [], stagedMaps := [] }
  let j := m.joinFree now
  { j with groups := j.groups.map fun p => if p.joinAt = some now ∧ p.gFrom = g then { p with joined := true } else p }

/-- A failed commit: its generation is the current carving, kept whole. -/
def Node.refuse (n : Node) (g st : Nat) : Node :=
  { n with maps := SMap.set n.maps g (SMap.get n.maps n.installed []), installed := g, lstat := st, staged := [], stagedMaps := [] }

/-- COMMIT_CHECK: a commit at the head waits for an older carving's release, checks for 8 + ceil(N / 32) cycles, and installs; joining is
evaluated again. -/
def execCommitCheck (r so : Nat) (s : State) : Out :=
  let n := s.node r so
  match n.head 0 s.cycle with
  | none => .next s
  | some k =>
    match k.op with
    | .commit =>
      (match k.startAt with
      | none => if n.pending then .next s else .next (s.updNode r so fun n => n.updHead 0 fun k => { k with startAt := some s.cycle })
      | some b =>
        if s.cycle < b + 8 + (n.staged.length + n.stagedMaps.length + 31) / 32 then .next s
        else
          let st := stagedStatus n.staged n.stagedMaps
          let m := if st = 0 then n.install k.stamp s.cycle else n.refuse k.stamp st
          let s1 := ((s.updNode r so fun _ => ((m.pop 0 s.cycle).count 0).endOwner).markBroken r so).releaseSpent r so
          .next (s1.shareDone r k.id (so, st, k.stamp)))
    | .carve _ => .next s
    | .map _ => .next s
    | .gather _ _ => .next s
    | .issue _ _ _ => .next s
    | .drain _ _ _ _ => .next s
    | .clear _ _ => .next s
    | .sort _ _ => .next s
    | .sortk _ _ _ => .next s

/-- GROUP_RELEASE (R192). -/
def execGroupRelease (r so gid : Nat) (s : State) : Out :=
  if (s.node r so).groups.any fun p => p.gTo.isSome && !p.released && cwGid p.word == gid && s.spent r so p then .next (s.releaseSpent r so)
  else .next s

/-- The cycle in which a part's leaves join has come. -/
def Group.joinDue (p : Group) (now : Nat) : Bool := match p.joinAt with | some t => decide (t ≤ now) | none => false

/-- LEAF_JOIN (R192): stationary values are zero in every bit. -/
def execLeafJoin (r so gid : Nat) (s : State) : Out :=
  let join (p : Group) : Group := if cwGid p.word = gid ∧ !p.joined ∧ p.joinDue s.cycle then { p with joined := true, stat := [] } else p
  .next (s.updNode r so fun n => { n with groups := n.groups.map join }.prune)

/-! ### The gather unit (R201, R204) -/

/-- Rows and chunks a lane holds or has under way. -/
def State.laneHeld (s : State) (r so l : Nat) : Nat × Nat :=
  let a := (SMap.get (s.node r so).latch l []).filter LatchRow.here
  let b := (s.region r).gather.filter fun x => x.so == so && x.lane == l && x.due.isSome
  (a.length + b.length, (a.map LatchRow.width).sum + (b.map GatherRow.width).sum)

/-- The row whose fetch starts next: the first whose lane has room and whose tile the table has granted, of those in firing order, one lane's
rows in their order. -/
def State.nextRow (s : State) (r : Nat) : List GatherRow → List (Nat × Nat) → Option GatherRow
  | [], _ => none
  | x :: t, skip =>
    if x.due.isSome ∨ skip.contains (x.so, x.lane) then s.nextRow r t skip
    else
      let h := s.laneHeld r x.so x.lane
      if h.1 < 16 ∧ h.2 + x.width ≤ 1024 ∧ !s.tileWaits r x.tile (.gather x.id) then some x else s.nextRow r t ((x.so, x.lane) :: skip)

/-- The first waiting row of a lane given its arrival cycle. -/
def startRow (so l due : Nat) : List GatherRow → List GatherRow
  | [] => []
  | x :: t => if x.so = so ∧ x.lane = l ∧ x.due.isNone then { x with due := some due } :: t else x :: startRow so l due t

/-- The gather unit is fetching: 64 chunks per cycle. -/
def State.gatherBusy (s : State) (r : Nat) : Bool :=
  (s.region r).gather.any fun x => match x.due with | some d => decide (s.cycle + 19 < d) | none => false

/-- Bytes of a vault where their frame stands now. -/
def State.vaultBytes (s : State) (a n : Nat) : List Byte := s.readPieces (s.redirected [(a, 0, n)])

/-- The row of a tile that a gather row names (R201): format, block code, code, elements, scales. -/
def State.tileRow (s : State) (r : Nat) (x : GatherRow) : Nat × Nat × Nat × List Nat × List Nat :=
  match s.tile r x.tile with
  | none => (0, 0, 0x60, [], [])
  | some t =>
    let a := s.vaultKey (vaultVa r t.offset)
    let h := natLE (s.vaultBytes a 8)
    let f := bitsN h 63 60
    let b := bitsN h 59 58
    let row := fld x.ix 11 0
    let cols := bitsN h 43 32 + 1
    let rows := bitsN h 55 44 + 1
    if f = 0 ∨ f = 9 ∨ h.testBit 57 ∨ !headerOk h then (f, b, 0x60, [], [])
    else if fld x.ix 15 12 ≠ 0 ∨ fld x.ix 31 28 ≠ 0 ∨ rows ≤ row then (f, b, 0x61, [], [])
    else
      let w := fmtBits f
      let c0 := x.col * epc f
      let nib (e : Nat) : Nat := natLE (s.vaultBytes (a + 64 + e * w / 8) ((w + 7) / 8)) / 2 ^ (e * w % 8) % 2 ^ w
      let el := (List.range (x.width * epc f)).map fun i => if c0 + i < cols then nib (row * cols + c0 + i) else 0
      let bs := blockSize b
      let sz := if f = 5 then 1 else 4
      let s0 := a + 64 + (rows * cols * w + 31) / 32 * 4
      let sc := if bs = 0 then [] else
        (List.range (x.width * epc f / bs)).map fun i =>
          if c0 / bs + i < cols / bs then natLE (s.vaultBytes (s0 + sz * (row * (cols / bs) + c0 / bs + i)) sz) else 0
      (f, b, 0, el, sc)

/-- The bytes a gather row reads: the header, and of a sound row its elements and scales within COLS. -/
def State.rowPieces (s : State) (r : Nat) (x : GatherRow) : List (Nat × Nat × Nat) :=
  match s.tile r x.tile with
  | none => []
  | some t =>
    let a := s.vaultKey (vaultVa r t.offset)
    let h := natLE (s.vaultBytes a 8)
    let f := bitsN h 63 60
    let w := fmtBits f
    let row := fld x.ix 11 0
    let cols := bitsN h 43 32 + 1
    let c0 := x.col * epc f
    let bs := blockSize (bitsN h 59 58)
    let sz := if f = 5 then 1 else 4
    let e0 := (row * cols + c0) * w
    let n := min (x.width * epc f) (cols - c0)
    let nb := if bs = 0 then 0 else min (x.width * epc f / bs) (cols / bs - c0 / bs)
    let s0 := a + 64 + ((bitsN h 55 44 + 1) * cols * w + 31) / 32 * 4
    s.redirected ((a, 0, 64) :: (if (s.tileRow r x).2.2.1 ≠ 0 then [] else
      (if n = 0 then [] else [(a + 64 + e0 / 8, 0, (e0 + n * w + 7) / 8 - e0 / 8)])
        ++ (if nb = 0 then [] else [(s0 + sz * (row * (cols / bs) + c0 / bs), 0, sz * nb)])))

/-- The first row of a lane that has not arrived, filled. -/
def fillRow (num entry : Nat) (v : Nat × Nat × Nat × List Nat × List Nat) : List LatchRow → List LatchRow
  | [] => []
  | y :: t =>
    if y.here ∨ y.num ≠ num then y :: fillRow num entry v t
    else { y with here := true, fmt := v.1, blk := v.2.1, code := v.2.2.1, entry, elems := v.2.2.2.1, scales := v.2.2.2.2 } :: t

/-- A gathered row is in the latch: poisoned with a record where a read of it met poison at its node (R270, R342); with the last, the tile is
let go and D receives its token. -/
def State.arriveRow (s0 : State) (r : Nat) (x : GatherRow) : State :=
  let pl := s0.rowPieces r x
  let bad := s0.piecesCode x.cid false pl
  let s0 := (s0.takeBanks (blocksOf pl)).updRegion r fun g => { g with progress := true }
  let s := match bad with | some k => ((s0.metCode k).accPoison x.cid k.1 x.fcount (k.2 % 2 ^ 52) x.key).2 | none => s0
  let v := s0.tileRow r x
  let row := match bad with | some k => (v.1, v.2.1, k.1, [], []) | none => v
  let s1 := s.updNode r x.so fun n => { n with latch := SMap.upd n.latch x.lane [] (fillRow x.num (fld x.ix 27 16) row) }
  if x.last then
    let s2 := (s1.unholdTile r x.tile).updNode r x.so fun n => n.updRun x.num fun y => { y with left := 0 }
    (s2.settleRuns r x.so).deliverWord x.cid x.pend x.out 1 true 1
  else s1

/-- A PGATHER at the head of an operand queue is handed to the gather unit, and leaves (R185). -/
def State.handGather (s : State) (r so : Nat) : State :=
  match (s.node r so).head 1 s.cycle with
  | none => s
  | some k =>
    match k.op with
    | .gather _ rows =>
      (s.updNode r so fun n => n.pop 1 s.cycle).updRegion r fun g => { g with gather := g.gather ++ rows.map fun x => { x with num := k.num } }
    | .carve _ => s
    | .map _ => s
    | .commit => s
    | .issue _ _ _ => s
    | .drain _ _ _ _ => s
    | .clear _ _ => s
    | .sort _ _ => s
    | .sortk _ _ _ => s

/-- A row's reads are due: in keyed mode its turn has come (R301), and no migration freezes its tile (R340). -/
def State.rowDue (s : State) (r : Nat) (x : GatherRow) : Bool :=
  (match x.due with | some d => decide (d ≤ s.cycle) | none => false) && s.engineTurn x.cid x.key x.reqs && s.openTo (s.rowPieces r x)

/-- The first row of a lane leaves the unit. -/
def dropRow (so l : Nat) : List GatherRow → List GatherRow
  | [] => []
  | x :: t => if x.so = so ∧ x.lane = l then t else x :: dropRow so l t

/-- Rows of a lane arrive in their order: a later one waits for an earlier one (R195, R201), and each for its vault banks (R257). A read that finds
an uncorrectable error returns nothing (R415). -/
def State.arriveRows (s : State) (r so l : Nat) : List GatherRow → State
  | [] => s
  | x :: t =>
    if !s.rowDue r x || !s.banksFree x.cid (blocksOf (s.rowPieces r x)) then s
    else match s.errIn false (s.rowPieces r x) with
      | some a => s.findFor x.cid x.fcount a x.key
      | none => ((s.updRegion r fun g => { g with gather := dropRow so l g.gather }).arriveRow r x).arriveRows r so l t

/-- The rows of a lane that the unit holds. -/
def State.laneGather (s : State) (r so l : Nat) : List GatherRow := (s.region r).gather.filter fun x => x.so == so && x.lane == l

/-- The rows of a lane that are due arrive. -/
def State.arriveDue (s : State) (r so l : Nat) : State := s.arriveRows r so l (s.laneGather r so l)

/-- GATHER_ROW_FETCH: rows of a lane that have been fetched arrive; the unit, when free, starts the next row if it is one of this lane. -/
def execGatherRowFetch (r so l : Nat) (s : State) : Out :=
  let s1 := s.arriveDue r so l
  if s1.gatherBusy r then .next s1
  else match s1.nextRow r (s1.region r).gather [] with
    | none => .next s1
    | some x =>
      if x.so ≠ so ∨ x.lane ≠ l then .next s1
      else .next (s1.updRegion r fun g => { g with gather := startRow so l (s1.cycle + 19 + (x.width + 63) / 64) g.gather })

/-! ### Passes (R202, R203) -/

/-- Classes of map a command's pass uses. -/
def usesMap (load : Bool) (ex : Option Nat) (m : Dword) : Bool := ex.isSome || mwLoad m == load

/-- The maps of a pass with the dot groups each covers in ascending GID; load maps first. -/
def Node.passMaps (n : Node) (stamp : Nat) (load : Bool) (ex : Option Nat) : List (Dword × List Group) :=
  let ms := (SMap.get n.maps stamp []).filter (usesMap load ex)
  ((ms.filter fun m => mwLoad m) ++ (ms.filter fun m => !mwLoad m)).map fun m =>
    (m, sortBy (fun a b => decide (cwGid a.word < cwGid b.word))
      (n.groups.filter fun p => p.inGen stamp && !cwSort p.word && mwCovers m (cwGid p.word)))

/-- The lane a map reads in a pass: lane b of a streaming pass for a load map. -/
def passLane (ex : Option Nat) (m : Dword) : Nat := match ex with | some b => if mwLoad m then b else mwLane m | none => mwLane m

/-- The head row of a lane for operand command num: only rows of earlier commands count (R195). -/
def Node.headRow (n : Node) (num l : Nat) : Option LatchRow :=
  match SMap.get n.latch l [] with
  | y :: _ => if y.num < num then some y else none
  | [] => none

/-- The lanes a pass names. -/
def passLanes (ex : Option Nat) (ms : List (Dword × List Group)) : List Nat :=
  ((ms.map fun m => passLane ex m.1) ++ (match ex with | some b => [b] | none => [])).eraseDups

/-- A pass may start: its generation is installed, its head rows have arrived, its groups are live or broken. -/
def State.passReady (s : State) (r so : Nat) (k : PoolCmd) (load : Bool) (ex : Option Nat) : Bool :=
  let n := s.node r so
  let ms := n.passMaps k.stamp load ex
  decide (k.arrives < s.cycle) && decide (n.passFree ≤ s.cycle) && decide (k.stamp ≤ n.installed)
    && ((passLanes ex ms).all fun l => match n.headRow k.num l with | some y => y.here | none => true)
    && ms.all fun m => m.2.all fun p => s.live r so p || s.broken r so p

/-- A load of one part from a row; its chunks keep the scales of the row's own blocks (R142, log entry 19). -/
def State.loadPart (s : State) (r so : Nat) (m : Dword) (k : Nat) (p : Group) (row : Option LatchRow) : State :=
  match row with
  | none => s
  | some y =>
    if y.code ≠ 0 ∨ y.fmt ≠ cwBfmt p.word then s.flagGroup r so p (if y.code ≠ 0 then y.code else 0x60)
    else s.updNode r so fun n => n.updGroup p fun q =>
      { q with stat := (List.range (cwCount p.word)).map fun x => (x, y.chunk (mwChunk m k + x)) }

/-- What a part sends for a multiply pass. -/
def sendOf (p : Group) (m : Dword) (k : Nat) (row : Option LatchRow) : Send :=
  match row with
  | none => .hole
  | some y =>
    if y.code ≠ 0 then .flag y.code
    else if y.fmt ≠ cwAfmt p.word ∨ y.blk ≠ cwSblk p.word then .flag 0x60
    else partSend (productClass (cwAfmt p.word) (cwBfmt p.word)) (cwAfmt p.word) (cwBfmt p.word) (cwSblk p.word) y.entry
      ((List.range (cwCount p.word)).map fun x => (y.chunk (mwChunk m k + x), SMap.get p.stat x ([], [])))

/-- A part's pass j counted. -/
def State.stepPass (s : State) (r so : Nat) (p : Group) : State := s.updNode r so fun n => n.updGroup p fun q => { q with npass := q.npass + 1 }

/-- A multiply pass of one part: its contribution goes to the root under the part's pass number, and reaches it 2 cycles before a sum would stand
in its entry (R203). -/
def State.mulPart (s : State) (r so num lat : Nat) (m : Dword) (k : Nat) (p : Group) (row : Option LatchRow) : State :=
  let p := ((s.node r so).groups.find? fun q => q.gFrom = p.gFrom ∧ cwGid q.word = cwGid p.word).getD p
  let root := s.rootPart r so p
  let h := chainAt root.1
  let c : PassPart := { node := 4 * r + so, num, due := s.cycle + lat - 2 + spanCycles (chainPos r so) root.1, send := sendOf p m k row }
  let s1 := s.updNode h.1 h.2 fun n => n.updGroup root.2 fun q => { q with sends := SMap.upd q.sends p.npass [] (· ++ [c]) }
  (s1.stepPass r so p).updNode r so fun n => n.updRun num fun x => { x with left := x.left + 1 }

/-- One part's share of a pass under one map: broken groups are skipped and flagged (R193). -/
def State.passPart (s : State) (r so num lat : Nat) (m : Dword) (k : Nat) (p : Group) (row : Option LatchRow) : State :=
  if s.broken r so p then s.flagGroup r so p 0x63
  else if mwLoad m then (s.stepPass r so p).loadPart r so m k p row
  else s.mulPart r so num lat m k p row

/-- PASS_START: one pass of the command at the head of the operand queue starts. -/
def execPassStart (r so : Nat) (s : State) : Out :=
  let s := (s.handGather r so).settleRuns r so
  let n := s.node r so
  match n.head 1 s.cycle with
  | none => .next s
  | some k =>
    match k.op with
    | .issue load ex cnt =>
      if !s.passReady r so k load ex then .next (s.updNode r so fun n => n.updHead 1 fun k => { k with startAt := none })
      else
        let ms := n.passMaps k.stamp load ex
        let lat := if ex.isSome then 15 else 14
        let rows (m : Dword) : Option LatchRow := n.headRow k.num (passLane ex m)
        let s1 := ms.foldl (fun s m => (m.2.zip (List.range m.2.length)).foldl
          (fun s p => s.passPart r so k.num lat m.1 p.2 p.1 (rows m.1)) s) s
        let s2 := (passLanes ex ms).foldl (fun s l => if (n.headRow k.num l).isSome then
          s.updNode r so fun n => { n with latch := SMap.upd n.latch l [] (List.drop 1) } else s) s1
        let s3 := s2.updNode r so fun n => { n with passFree := s.cycle + (if ex.isSome then 2 else 1) }
        if cnt ≤ k.prog + 1 then
          .next (s3.updNode r so fun n => (n.pop 1 s.cycle).updRun k.num fun x => { x with started := true, until_ := s.cycle + (if load then 3 else lat - 2) })
        else .next (s3.updNode r so fun n => n.updHead 1 fun k => { k with prog := k.prog + 1, startAt := some s.cycle })
    | .carve _ => .next s
    | .map _ => .next s
    | .commit => .next s
    | .gather _ _ => .next s
    | .drain _ _ _ _ => .next s
    | .clear _ _ => .next s
    | .sort _ _ => .next s
    | .sortk _ _ _ => .next s

/-! ### At the root (R202, R208) -/

/-- A contribution is a hole. -/
def Send.isHole : Send → Bool | .hole => true | .flag _ => false | .prods _ _ _ _ _ _ _ => false
/-- The poison code of a contribution. -/
def Send.code : Send → Nat | .hole => 0 | .flag c => c | .prods _ _ _ _ _ _ _ => 0
/-- The entry of a contribution. -/
def Send.entry : Send → Option Nat | .hole => none | .flag _ => none | .prods e _ _ _ _ _ _ => some e
/-- The terms of a contribution. -/
def Send.terms : Send → List Term | .hole => [] | .flag _ => [] | .prods _ _ _ _ _ _ t => t
/-- A property of the products of a contribution: 0 NaN, 1 invalid, 2 +inf, 3 −inf, 4 every product −0. -/
def Send.prop (i : Nat) : Send → Bool
  | .hole => false
  | .flag _ => false
  | .prods _ a b c d e _ => if i = 0 then a else if i = 1 then b else if i = 2 then c else if i = 3 then d else e

/-- The entry that a complete pass adds a sum to; none where its result is nothing or a poison flag. -/
def Group.passEntry (p : Group) (l : List Send) : Option Nat :=
  match l.head?.bind Send.entry with
  | none => none
  | some e => if (l.any fun x => x.entry ≠ some e) ∨ p.entryCount ≤ e then none else some e

/-- A complete pass at its root: nothing, a poison flag, or a sum into an entry. -/
def Group.applyPass (p : Group) (l : List Send) : Group :=
  match l.find? fun x => x.code ≠ 0 with
  | some x => p.flagged x.code
  | none =>
    if l.all Send.isHole then p
    else match p.passEntry l with
      | none => p.flagged 0x62
      | some e =>
          let sum := passSum (productClass (cwAfmt p.word) (cwBfmt p.word)) (l.any (Send.prop 0)) (l.any (Send.prop 1)) (l.any (Send.prop 2))
            (l.any (Send.prop 3)) (l.all (Send.prop 4)) (l.flatMap Send.terms)
          { p with entries := SMap.upd p.entries e {} fun a => a.add sum }

/-- The contributions of a pass in chain order. -/
def inChain (l : List PassPart) : List PassPart :=
  sortBy (fun a b => decide (chainPos (a.node / 4) (a.node % 4) < chainPos (b.node / 4) (b.node % 4))) l

/-- Every part of a pass has sent, and its result stands: a flag or nothing as the last part reaches the root, a sum in its entry 2 cycles on
(R202, R203). -/
def Group.passDone (p : Group) (parts now : Nat) (l : List PassPart) : Bool :=
  let late := if (p.passEntry (l.map PassPart.send)).isSome then 2 else 0
  decide (parts ≤ l.length) && l.all fun x => decide (x.due + late ≤ now)

/-- A pass at the root of a part applies, and its contributions leave. -/
def State.applyOne (s : State) (r so : Nat) (p : Group) (j : Nat) (l : List PassPart) : State :=
  let s1 := s.updNode r so fun n => n.updGroup p fun q => ({ q with sends := SMap.del q.sends j }).applyPass ((inChain l).map PassPart.send)
  l.foldl (fun s x => (s.updNode (x.node / 4) (x.node % 4) fun n => n.updRun x.num fun y => { y with left := y.left - 1 }).settleRuns
    (x.node / 4) (x.node % 4)) s1

/-- The passes at the root of a part whose results stand apply, in their order. -/
def State.applyDue (s : State) (r so : Nat) (p : Group) : State :=
  let parts := (s.parts r so p).1.length
  (p.sends.filter fun x => p.passDone parts s.cycle x.2).foldl (fun s x => s.applyOne r so p x.1 x.2) s

/-- PASS_ROOT_APPLY: a pass sum goes into its entry, in the order in which the group's passes started. -/
def execPassRootApply (r so gid : Nat) (s : State) : Out :=
  .next (((s.node r so).groups.filter fun p => cwGid p.word = gid).foldl (fun s p => s.applyDue r so p) s)

/-! ### Drains and clears (R211 to R216, R225) -/

/-- The launch of a context completes with error status (R211). -/
def State.headError (s : State) (c : Nat) : State :=
  s.updPkg fun p => { p with sched := { p.sched with launches := match SMap.find p.sched.launches (s.lidOf c) with
    | some l => SMap.set p.sched.launches (s.lidOf c) { l with headErr := true }
    | none => p.sched.launches } }

/-- A failed check at the head of the drain queue: POISON in place of the command's tokens, and the queue goes on. -/
def State.headFail (s : State) (r so : Nat) (k : PoolCmd) (code lat : Nat) : State :=
  let s1 := s.updNode r so fun n => (n.pop 2 s.cycle).count 2
  (s1.headError k.cid).deliverBad k.cid k.pend k.out lat (s.poison k.cid (BitVec.ofNat 48 k.fcount) code)

/-- A drain-queue command may start: its generation is installed, and in keyed mode every operand command before it is complete (R187). -/
def State.drainReady (s : State) (r so : Nat) (k : PoolCmd) : Bool :=
  let n := s.node r so
  decide (k.arrives < s.cycle) && decide (k.stamp ≤ n.installed) && !(n.packets.any Packet.holds) && n.tileWrites.isEmpty
    && (!s.keyed k.cid || !(n.runs.any fun x => decide (x.num ≤ k.num)))

/-- The dot group a command acts on, if its root part is here and a range lies within its entries. -/
def State.drainGroup (s : State) (r so : Nat) (k : PoolCmd) (gid last : Nat) : Option Group :=
  match (s.node r so).groupAt k.stamp gid with
  | none => none
  | some p => if cwSort p.word || cwLo p.word || decide (p.entryCount < last) then none else some p

/-- Entries a drain reads in one cycle: values and flags; read entries are no longer owed, and with CLR are cleared. -/
def Group.drainRead (p : Group) (clr : Bool) (l : List Nat) : Group × List Word × BitVec 32 :=
  let vs := l.map fun i => (SMap.get p.entries i {}).value
  ({ p with entries := l.foldl (fun m i => if clr then SMap.del m i else if SMap.has m i then SMap.upd m i {} fun e => { e with owed := false } else m) p.entries },
   vs.map Prod.fst, (vs.map Prod.snd).foldl (· ||| ·) 0)

/-- A drain whose reads have ended: the poison of its group, its write, or its packet. `t` is the cycle of the last read. -/
def State.drainEnd (s : State) (r so : Nat) (k : PoolCmd) (w : Dword) (tile : Bool) (poison : Nat) (t : Nat) : State :=
  if poison ≠ 0 then
    (if tile then s.tileFilled r (dsTile w) else s).headFail r so k poison 5
  else
    let p := drainPacket w k.got k.fl
    if tile then
      let tw : TileWrite := { cid := k.cid, tile := dsTile w, bytes := bytesLE 8 p.1 ++ List.replicate 56 0 ++ p.2,
                              due := t + 6 + (64 + p.2.length + 511) / 512, pend := k.pend, out := k.out }
      s.updNode r so fun n => { n with tileWrites := n.tileWrites ++ [tw] }
    else
      match k.out with
      | none => s.updNode r so fun n => (n.pop 2 s.cycle).count 2
      | some (o, g) =>
        let toks := scaTok g (BitVec.ofNat 64 p.1) :: payloadTokens g p.2
        let pk : Packet := { cid := k.cid, out := o, pend := k.pend, toks, due := t + 4, holds := false }
        s.updNode r so fun n => { n.pop 2 s.cycle with packets := n.packets ++ [pk] }

/-- DRAIN_START: the drain at the head of its queue reads entries, 16 per cycle, and when all are read makes its packet or its write. -/
def execDrainStart (r so : Nat) (s : State) : Out :=
  let n := s.node r so
  match n.head 2 s.cycle with
  | none => .next s
  | some k =>
    match k.op with
    | .drain w clr tile gid =>
      if k.startAt.isNone ∧ (!s.drainReady r so k ∨ (!tile ∧ 2 ≤ (n.packets.filter fun p => !p.holds).length)) then .next s
      else if !n.tileWrites.isEmpty || (tile && s.tileWaits r (dsTile w) (.drain k.id)) then .next s
      else match s.drainGroup r so k gid (dsFirst w + dsCount w) with
        | none => .next ((if tile then s.tileFilled r (dsTile w) else s).headFail r so k 0x64 1)
        | some p =>
          let ix := rangeFrom (dsFirst w + k.prog) (min 16 (dsCount w - k.prog))
          let d := p.drainRead clr ix
          let k1 := { k with prog := k.prog + ix.length, startAt := some s.cycle, got := k.got ++ d.2.1, fl := k.fl ||| d.2.2 }
          let s1 := s.updNode r so fun n => (n.updGroup p fun _ => d.1).updHead 2 fun _ => k1
          if k1.prog < dsCount w then .next s1 else .next (s1.drainEnd r so k1 w tile p.poison s.cycle)
    | .carve _ => .next s
    | .map _ => .next s
    | .commit => .next s
    | .gather _ _ => .next s
    | .issue _ _ _ => .next s
    | .clear _ _ => .next s
    | .sort _ _ => .next s
    | .sortk _ _ _ => .next s

/-- The keys a token of a packet carries: those of PSORTK's key tokens, which have the output's own tag (R219). -/
def keysOut (k : PoolCmd) (t : Token) : Nat :=
  match k.op, k.out with
  | .sortk _ _ _, some (_, g) => if t.kind = kDATA ∧ t.tag = g then (Mask.list t.mask).length else 0
  | _, _ => 0

/-- The sort group of a PSORTK whose last token has left is empty (R219). -/
def Node.emptySort (n : Node) : Node :=
  match n.dq.cmds with
  | k :: _ =>
    (match k.op with
      | .sortk _ _ gid => (match n.groupAt k.stamp gid with | some p => n.updGroup p fun q => { q with keys := [] } | none => n)
      | _ => n)
  | [] => n

/-- A packet's next token leaves when its output register is empty; that of a queue that stands still waits (R224). -/
def State.emitPacket (s : State) (r so : Nat) (p : Packet) : State :=
  if s.cycle < p.due ∨ ((s.ctx p.cid).outReg p.out).isSome ∨ (p.holds ∧ (s.node r so).dq.stopped 2) then s
  else match p.toks with
    | [] => s
    | t :: rest =>
      let s0 := s.putTok p.cid p.out t
      let s1 := if p.holds then s0.updNode r so fun n => n.updHead 2 fun k => { k with prog := k.prog + keysOut k t } else s0
      let same (q : Packet) : Bool := q.cid == p.cid && q.out == p.out
      if rest.isEmpty then
        let s2 := s1.updNode r so fun n =>
          let m := { n with packets := n.packets.filter fun q => !same q }
          if p.holds then (m.emptySort.pop 2 s.cycle).count 2 else m.count 2
        match p.pend with | some d => s2.dropPend p.cid d | none => s2
      else s1.updNode r so fun n => { n with packets := n.packets.map fun q => if same q then { q with toks := rest } else q }

/-- DRAIN_PACKET_EMIT: a token of a packet leaves each time its output register empties. -/
def execDrainPacketEmit (r so : Nat) (s : State) : Out := .next ((s.node r so).packets.foldl (fun s p => s.emitPacket r so p) s)

/-- CLEAR_START: a clear at the head of the drain queue clears 64 entries per cycle, or 64 of a sort group's
keys; with P, or with the last key, the poison flag (R215, R225). -/
def execClearStart (r so : Nat) (s : State) : Out :=
  match (s.node r so).head 2 s.cycle with
  | none => .next s
  | some k =>
    match k.op with
    | .clear w gid =>
      if k.startAt.isNone ∧ !s.drainReady r so k then .next s
      else
        let over_ (s : State) (lat : Nat) : State := (s.updNode r so fun n => (n.pop 2 s.cycle).count 2).deliverWord k.cid k.pend k.out lat true 1
        (match (s.node r so).groupAt k.stamp gid with
        | none => .next (s.headFail r so k 0x64 1)
        | some p =>
          if cwSort p.word then
            let s1 := s.updNode r so fun n => (n.updGroup p fun q =>
              { q with keys := q.keys.drop 64, poison := if p.keys.length ≤ 64 then 0 else q.poison }).updHead 2 fun k =>
                { k with prog := k.prog + min 64 p.keys.length, startAt := some s.cycle }
            (if 64 < p.keys.length then .next s1 else .next (over_ s1 (if p.keys.isEmpty then 1 else 2)))
          else if cwLo p.word ∨ p.entryCount < fld w 63 52 + fld w 51 40 + 1 then .next (s.headFail r so k 0x64 1)
          else
            let ix := rangeFrom (fld w 63 52 + k.prog) (min 64 (fld w 51 40 + 1 - k.prog))
            let s1 := s.updNode r so fun n => (n.updGroup p fun q =>
              { q with entries := ix.foldl SMap.del q.entries, poison := if w.getLsbD 0 then 0 else q.poison }).updHead 2 fun k =>
                { k with prog := k.prog + ix.length, startAt := some s.cycle }
            if k.prog + ix.length ≤ fld w 51 40 then .next s1 else .next (over_ s1 2))
    | .carve _ => .next s
    | .map _ => .next s
    | .commit => .next s
    | .gather _ _ => .next s
    | .issue _ _ _ => .next s
    | .drain _ _ _ _ => .next s
    | .sort _ _ => .next s
    | .sortk _ _ _ => .next s

/-! ### Sorting (R217 to R219) -/

/-- A key as it is held: 16-bit formats keep lane bits [15:0]. -/
def sortHeld (fmt : Nat) (w : Word) : Word := if fmt = 1 ∨ fmt = 2 then (w.setWidth 16).setWidth 32 else w

/-- The order value of a key (R219). -/
def sortOrder (fmt : Nat) (w : Word) : Nat :=
  if fmt = 9 then (w ^^^ 0x80000000#32).toNat
  else if fmt = 0 then (if w.getLsbD 31 then (~~~ w).toNat else w.toNat + 2 ^ 31)
  else if w.getLsbD 15 then 2 ^ 16 - 1 - w.toNat else w.toNat + 2 ^ 15

/-- The sort group a command acts on. -/
def State.sortGroup (s : State) (r so : Nat) (k : PoolCmd) (gid : Nat) : Option Group :=
  match (s.node r so).groupAt k.stamp gid with
  | none => none
  | some p => if cwSort p.word then some p else none

/-- Keys appended to a sort group; those past its capacity set SORTFULL. -/
def Group.append (p : Group) (l : List Word) : Group :=
  let room := 16 * cwCount p.word - p.keys.length
  let q := { p with keys := p.keys ++ (l.take room).map (sortHeld (cwAfmt p.word)) }
  if room < l.length then q.flagged 0x65 else q

/-- SORT_APPEND: the PSORT at the head of the drain queue. -/
def execSortAppend (r so : Nat) (s : State) : Out :=
  match (s.node r so).head 2 s.cycle with
  | none => .next s
  | some k =>
    match k.op with
    | .sort l gid =>
      if !s.drainReady r so k then .next s
      else (match s.sortGroup r so k gid with
        | none => .next (s.headFail r so k 0x64 1)
        | some p =>
          .next ((s.updNode r so fun n => ((n.updGroup p (Group.append · l)).pop 2 s.cycle).count 2).deliverWord k.cid k.pend k.out 1 true 1))
    | .carve _ => .next s
    | .map _ => .next s
    | .commit => .next s
    | .gather _ _ => .next s
    | .issue _ _ _ => .next s
    | .drain _ _ _ _ => .next s
    | .clear _ _ => .next s
    | .sortk _ _ _ => .next s

/-- The keys of a group with their indices in sorted order: stable both ways. -/
def Group.sorted (p : Group) (desc : Bool) : List (Nat × Word) :=
  let o (x : Nat × Word) : Nat := sortOrder (cwAfmt p.word) x.2
  sortBy (fun a b => if desc then decide (o b < o a) else decide (o a < o b)) ((List.range p.keys.length).zip p.keys)

/-- The tokens of PSORTK. -/
def Group.sortTokens (p : Group) (idx desc : Bool) (tag : BitVec 4) : List Token :=
  let runs := chunks 192 86 (p.sorted desc)
  (runs.flatMap fun l =>
    vecTok tag (Mask.first l.length) (Vec.ofList (l.map Prod.snd))
      :: (if idx then [vecTok (tag + 1) (Mask.first l.length) (Vec.ofList (l.map fun x => BitVec.ofNat 32 x.1))] else []))
    ++ [markTok 0 true (BitVec.ofNat 64 p.keys.length)]

/-- Cycles of the sorting network for n keys: k (k + 1), k = ceil(log2 max(n, 2)). -/
def sortCycles (n : Nat) : Nat := let k := Nat.log2 (max n 2 - 1) + 1; k * (k + 1)

/-- SORT_EMIT: the PSORTK at the head of the drain queue sorts and sends its tokens; with the last its group is empty. -/
def execSortEmit (r so : Nat) (s : State) : Out :=
  match (s.node r so).head 2 s.cycle with
  | none => .next s
  | some k =>
    match k.op with
    | .sortk idx desc gid =>
      if k.startAt.isSome ∨ !s.drainReady r so k then .next s
      else (match s.sortGroup r so k gid, k.out with
        | none, _ => .next (s.headFail r so k 0x64 1)
        | some _, none => .next (s.updNode r so fun n => (n.pop 2 s.cycle).count 2)
        | some p, some (o, g) =>
          let empty (n : Node) : Node := n.updGroup p fun q => { q with keys := [] }
          if p.poison ≠ 0 then .next ((s.updNode r so empty).headFail r so k p.poison 1)
          else
            let pk : Packet := { cid := k.cid, out := o, pend := k.pend, toks := p.sortTokens idx desc g,
                                 due := s.cycle + 4 + sortCycles p.keys.length, holds := true }
            let run (k : PoolCmd) : PoolCmd := { k with startAt := some s.cycle }
            let send (m : Node) : Node := { m with packets := m.packets ++ [pk] }
            .next (s.updNode r so fun n => send (n.updHead 2 run)))
    | .carve _ => .next s
    | .map _ => .next s
    | .commit => .next s
    | .gather _ _ => .next s
    | .issue _ _ _ => .next s
    | .drain _ _ _ _ => .next s
    | .clear _ _ => .next s
    | .sort _ _ => .next s

/-! ### Soft errors (R224) -/

/-- A queue of a region stops with a code: the report names the firing of the held command, or none, and carries the stopping point (R407,
R425). -/
def State.poolStop (s : State) (r so q code : Nat) (addr : Option Nat) : State :=
  let n := s.node r so
  let s1 := s.updNode r so fun n => n.updQ q fun z => { z with stop := some code }
  match (n.q q).cmds.head? with
  | some k => s1.report k.cid code 2 (0x10 + 3 * so + q) k.fcount addr k.key (((s1.node r so).q q).stat q).toNat
  | none => s1

/-- A drain's tile write is due: its queue runs, its turn has come (R301), and no migration freezes its tile (R340). -/
def State.writeDue (s : State) (r so : Nat) (w : TileWrite) (k : PoolCmd) (pl : List (Nat × Nat × Nat)) : Bool :=
  decide (w.due ≤ s.cycle) && !(s.node r so).dq.stopped 2 && s.engineTurn w.cid k.key k.reqs && s.openTo pl

/-- DRAIN_TILE_WRITE_DONE: a drain's last write performs; its tile is ready and its token leaves. It waits for its turn in keyed mode (R301)
and for a migration (R340); a write to a retired frame is poison (R342); one that meets an uncorrectable vault error stops the queue (R214). -/
def execDrainTileWriteDone (r so : Nat) (s : State) : Out :=
  let n := s.node r so
  match n.tileWrites, n.dq.cmds, (n.tileWrites.head?).bind fun w => s.tile r w.tile with
  | w :: rest, k :: _, some t =>
    let pl := s.redirected [(s.vaultKey (vaultVa r t.offset), 0, w.bytes.length)]
    if !s.writeDue r so w k pl || !s.banksFree w.cid (blocksOf pl) then .next s
    else match (blocksOf pl).find? s.vaultBad with
      | some a => .next (((s.vaultMet a).takeBanks (blocksOf pl)).poolStop r so 2 0x2A (some (a % 2 ^ 52)))
      | none =>
        let s := (s.takeBanks (blocksOf pl)).updRegion r fun g => { g with progress := true }
        let gone (s : State) : State := (s.tileFilled r w.tile).updNode r so fun n => ({ n with tileWrites := rest }.pop 2 s.cycle).count 2
        match s.piecesCode w.cid true pl with
        | some b =>
          .next ((gone (s.accPoison w.cid b.1 k.fcount (b.2 % 2 ^ 52) k.key).2).deliverBad w.cid w.pend w.out 1
            (s.poison w.cid (BitVec.ofNat 48 k.fcount) b.1))
        | none =>
          let s1 := gone (s.writePieces pl w.bytes)
          .next (match w.out with | some _ => s1.deliverWord w.cid w.pend w.out 1 true 1 | none => s1)
  | _, _, _ => .next s

/-- POOLECC: an error in a queue's command storage (q 0 to 2) stops the queue; one in an entry, a stationary value or a latch row sets the
poison flag of the group that uses that state: of the current carving (q 3), or of one that is being released (log entry 19). -/
def execPoolecc (r so q gid : Nat) (s : State) : Out :=
  if q < 3 then .next (s.poolStop r so q 0x66 none)
  else match (s.node r so).groups.find? fun p => cwGid p.word = gid ∧ !p.released ∧ (q = 3) = p.gTo.isNone with
    | some p => .next (s.flagGroup r so p 0x66)
    | none => .next s

end Sys2Proof.Machine
end

