-- ==== Sys2Proof/Machine/Sched.lean ====
section
/-! DEFINITION. The package scheduler and the sequencers: acceptance, grants, loading, steps, completion, ranks, eviction and restore (R74,
R384 to R394, R412, R413). -/

namespace Sys2Proof.Machine

/-! ### Records (R387) -/

/-- What orders the payloads of unsolicited frames: TIME, SOURCE and SEQ of a trap record; the stamp of a refusal or completion record, which has
no other of them (R73, R387, R407, R419). -/
def portKey (b : List Byte) : Nat × Nat × Nat := if b.length = 64 then (leAt b 16 8, leAt b 4 4, leAt b 30 2) else (leAt b 24 8, 0, 0)

/-- One key comes before another. -/
def keyLess (a b : Nat × Nat × Nat) : Bool :=
  decide (a.1 < b.1) || (a.1 == b.1 && (decide (a.2.1 < b.2.1) || (a.2.1 == b.2.1 && decide (a.2.2 < b.2.2))))

/-- An entry put in its place in a list in order, after those of its own key. -/
def placeBy (key : α → Nat × Nat × Nat) (x : α) (l : List α) : List α :=
  let before := l.takeWhile fun y => !keyLess (key x) (key y)
  before ++ x :: l.drop before.length

/-- A payload that leaves as an unsolicited TRAPREC frame (R443), in the order of R419. -/
def State.toPort (s : State) (b : List Byte) : State :=
  s.updPkg fun p => { p with port := { p.port with pending := placeBy portKey b p.port.pending } }

/-- The bytes of a completion record. -/
def completionBytes (code flags lid poison stranded : Nat) (acc done : Dword) : List Byte :=
  bytesLE 1 code ++ bytesLE 1 flags ++ bytesLE 2 0 ++ bytesLE 4 lid ++ bytesLE 4 (min poison (2 ^ 32 - 1))
    ++ bytesLE 4 (min stranded (2 ^ 32 - 1)) ++ bytesLE 8 acc.toNat ++ bytesLE 8 done.toNat

/-- Where a record's 32 bytes are stored (R384, R387): at an aligned address, whose page allows a store and meets no poison at its node. -/
def State.recordReach (s : State) (asid va : Nat) : Reach := if va % 32 ≠ 0 then .fail 0x21 va else s.reachClear asid false true va 32

/-- The record of an access of the scheduler or the loader that reached a retired frame: in the launch's first region, with the error log, or in
the error log alone where it has none (R342; log entry 20). -/
def State.reportMigrated (s : State) (lid asid a : Nat) : State :=
  match (s.launch lid).bind fun l => l.seqs.head? with
  | some q =>
    let c := mkCid q.2.region 0 q.2.x
    s.raise q.2.region { s.recOf c 0x28 3 0xFF 0 (some a) 0 ((s.source c).toNat + 0x28 * 2 ^ 29) 0 with lid := lid, asid := asid }
  | none =>
    let k := s.recOf 0 0x28 3 0xFF 0 (some a) 0 (0x28 * 2 ^ 29) 0
    s.updPkg fun p => { p with errLog := p.errLog.push { k with source := 0, lid := lid, asid := asid } }

/-- What such an access met: a retired frame is reported. -/
def State.metReach (s : State) (lid asid : Nat) (r : Reach) : State :=
  match r with
  | .fail k a => if k = 0x28 then s.reportMigrated lid asid a else s
  | .ok _ => s
  | .np _ => s
  | .hold => s

/-- A record stored at an address of an address space, if the store passes translation. -/
def State.storeRecord (s : State) (asid va : Nat) (b : List Byte) : Option State :=
  match s.recordReach asid va with
  | .ok l => some ((s.touch asid true va b.length).writePieces l b)
  | .fail _ _ => none
  | .np _ => none
  | .hold => none

/-- A record stored, or sent over the control port alone (R387). -/
def State.giveRecord (s : State) (lid asid va : Nat) (b : List Byte) : State :=
  match s.storeRecord asid va b with | some t => t | none => (s.metReach lid asid (s.recordReach asid va)).toPort b

/-- The error that the store of a record finds in the rest of its block (R415). -/
def State.recordErr (s : State) (asid va : Nat) : Option Nat := s.reachErr asid false true va 32

/-- Every package of the pod but for those listed is told (R384, R385, R448). -/
def State.tellPod (s : State) (listed : List Nat) (m : FabMsg) : State :=
  (s.peers.filter fun p => !listed.contains p).foldl (fun s p => s.forward p m) s

/-! ### Acceptance (R384 to R386) -/

/-- A packet is refused with a code (R384): its record comes from the package at position 0, which refuses it too, and is stored where the code
allows it. -/
def State.refusePacket (s : State) (d : Delivery) (code : Nat) (store : Bool) : State :=
  let p := pktOf d.bytes
  let b := completionBytes code 0 p.lid 0 0 0 s.now
  if d.pkgs.head? != some s.pkg.pkgId then s
  else if store then s.giveRecord 0 d.asid p.compVa b
  else s.toPort b

/-- One packet reaches its queue, or its refusal is recorded (R384, R385); the record's store waits for a migration of its page. The other
packages of the pod learn of the launch from the one at position 0. -/
def State.deliverPacket (s : State) (d : Delivery) : State :=
  let p := pktOf d.bytes
  if !pktSound d.bytes (!d.host) d.pkgs.length then
    let again (s : State) : State := s.updSched fun k => { k with deliveries := k.deliveries ++ [d] }
    (if s.recordReach d.asid p.compVa = .hold then again s
     else match s.recordErr d.asid p.compVa with
       | some a => again (s.findErr 0 none 0 a 0)
       | none => s.refusePacket d 0x22 true)
  else if s.inPod p.lid then s.refusePacket d 0x23 false
  else
    let l : Launch := { pkt := p, asid := d.asid, parent := d.parent, pkgs := d.pkgs, st := .queued, order := s.pkg.sched.nextOrder,
                        waits := p.preds.filter fun q => q != 0 && s.inPod q, basePrio := p.prio, effPrio := p.prio }
    let s1 := s.updSched fun k => { k with launches := SMap.set k.launches p.lid l, nextOrder := k.nextOrder + 1 }
    if d.pkgs.head? != some s.pkg.pkgId then s1
    else s1.tellPod d.pkgs (.launched p.lid p.seed.toNat p.clo p.ccount d.pkgs p.prio p.preds)

/-- PACKET_DELIVERY (R28, R384): the packets of the cycle in ascending source number. -/
def execPacketDelivery (s : State) : Out :=
  let ds := sortBy (fun (a b : Delivery) => decide (a.source < b.source)) s.pkg.sched.deliveries
  .next (ds.foldl State.deliverPacket (s.updSched fun k => { k with deliveries := [] }))

/-- The range of RAND counters of a packet overlaps another under one seed (R378); an empty range overlaps none. -/
def Pkt.overlaps (p : Pkt) (seed : Dword) (clo ccount : Nat) : Bool :=
  p.seed == seed && decide (0 < p.ccount ∧ 0 < ccount ∧ p.clo < clo + ccount ∧ clo < p.clo + p.ccount)

/-- The range of a packet overlaps that of another accepted launch of the pod (R378). -/
def State.randOverlaps (s : State) (lid : Nat) (p : Pkt) : Bool :=
  (s.pkg.sched.launches.any fun k => k.1 != lid && k.2.st != .queued && p.overlaps k.2.pkt.seed k.2.pkt.clo k.2.pkt.ccount)
    || s.pkg.sched.away.any fun k => k.1 != lid && k.2.accepted && p.overlaps k.2.seed k.2.clo k.2.ccount

/-- Where the parameter block stands (R386). -/
def State.paramReach (s : State) (asid : Nat) (p : Pkt) : Reach :=
  if p.paramLen = 0 then .ok [] else s.reachClear asid true false p.paramVa (64 * p.paramLen)

/-- A launch is accepted: its place in the order and its stamp are set, and the pod is told. -/
def State.acceptLaunch (s : State) (lid : Nat) (l : Launch) (f : Launch → Launch) : State :=
  let n := s.pkg.sched.nextOrder
  let ovl := s.randOverlaps lid l.pkt
  let s1 := (s.updSched fun k => { k with nextOrder := n + 1 }).updLaunch lid fun l => f { l with accTime := s.now, order := n, randOvl := ovl }
  if l.pkgs.head? != some s.pkg.pkgId then s1 else s1.tellPod l.pkgs (.accepted lid)

/-- PACKET_ACCEPTANCE (R385, R386). -/
def execPacketAcceptance (lid : Nat) (s : State) : Out :=
  match s.launch lid with
  | none => .next s
  | some l =>
    if l.st ≠ .queued ∨ !l.waits.isEmpty then .next s
    else match s.paramReach l.asid l.pkt with
      | .hold => .next s
      | .fail k a => .next ((s.metReach lid l.asid (.fail k a)).acceptLaunch lid l fun l => { l with st := .ending, code := 0x24 })
      | .np _ => .next (s.acceptLaunch lid l fun l => { l with st := .ending, code := 0x24 })
      | .ok q =>
        match s.errIn false q with
        | some a => .next (s.findErr lid none 0 a 0)
        | none =>
          let s1 := if l.pkt.paramLen = 0 then s else s.touch l.asid false l.pkt.paramVa (64 * l.pkt.paramLen)
          .next (s1.acceptLaunch lid l fun l => { l with st := .accepted, snapshot := s.readPieces q })

/-! ### Priorities (R388, R390) -/

/-- The launches that lend a launch their priority (R388): those queued or accepted that name it as a predecessor, in any package of the pod, and
its parent while that waits in JOINC. -/
def State.lenders (s : State) (lid : Nat) : List Nat :=
  ((s.pkg.sched.launches.filter fun k => (k.2.st = .queued ∨ k.2.st = .accepted) ∧ k.2.pkt.preds.contains lid).map Prod.fst)
    ++ ((s.pkg.sched.away.filter fun k => k.2.preds.contains lid).map Prod.fst)
    ++ (match s.launch lid with
      | some l => (match l.parent with | some p => if l.joiners.isEmpty then [] else [p] | none => [])
      | none => [])

/-- One round of inheritance over effective priorities. -/
def State.prioRound (s : State) (m : SMap Nat) : SMap Nat :=
  m.map fun e => (e.1, ((s.lenders e.1).map fun k => SMap.get m k 0).foldl max e.2)

/-- Rounds of inheritance. -/
def State.prioRounds (s : State) : Nat → SMap Nat → SMap Nat
  | 0, m => m
  | n + 1, m => s.prioRounds n (s.prioRound m)

/-- The base priorities set in the cycle before hold now (R403), and the pod is told (R388). -/
def State.landPrios (s : State) : State :=
  let set := s.pkg.sched.launches.filterMap fun e => e.2.nextPrio.map fun p => (e.1, p)
  let s1 := s.updSched fun k => { k with launches := k.launches.map fun e =>
    (e.1, match e.2.nextPrio with | some p => { e.2 with basePrio := p, nextPrio := none } | none => e.2) }
  set.foldl (fun s e => s.tellPod [] (.reprio e.1 e.2)) s1

/-- Every launch's effective priority brought up to date. -/
def State.refreshPrios (s : State) : State :=
  let l := (s.pkg.sched.launches.map fun e => (e.1, e.2.basePrio)) ++ s.pkg.sched.away.map fun e => (e.1, e.2.prio)
  let m := s.prioRounds l.length l
  s.updSched fun k => { k with launches := k.launches.map fun e => (e.1, { e.2 with effPrio := SMap.get m e.1 e.2.basePrio }) }

/-- The resident launches of a region in descending effective priority, ties in acceptance order: context, launch, priority. -/
def State.ranking (s : State) (r : Nat) : List (Nat × Nat × Nat) :=
  let l := ((s.region r).res.filter fun p => p.1 < 4).filterMap fun p => (s.launch p.2.lid).map fun k => (p.1, p.2.lid, k.effPrio, k.order)
  (sortBy (fun a b => decide (b.2.2.1 < a.2.2.1) || (a.2.2.1 == b.2.2.1 && decide (a.2.2.2 < b.2.2.2))) l).map fun e => (e.1, e.2.1, e.2.2.1)

/-- RFCTL with its RANK fields set (R94). -/
def setRanks (w : Dword) (l : List Nat) : Dword :=
  BitVec.ofNat 64 (w.toNat - bitsN w.toNat 15 8 * 256 + (l.getD 0 0 * 64 + l.getD 1 0 * 16 + l.getD 2 0 * 4 + l.getD 3 0) * 256)

/-- PRIORITY_RANK_UPDATE (R390, R411): RANK is written again only when a priority or the set of residents changes. -/
def execPriorityRankUpdate (r : Nat) (s : State) : Out :=
  let k := s.ranking r
  if k = (s.region r).ranked then .next s
  else
    let o := k.map Prod.fst
    let all := o ++ (List.range 4).filter fun x => !o.contains x
    .next (s.updRegion r fun g => { g with ranked := k, rfctl := setRanks g.rfctl all })

/-! ### Grants (R388, R389) -/

/-- A launch holds context x of region r: one that has been evicted holds none until it is granted again. -/
def State.held (s : State) (r x : Nat) : Bool :=
  s.pkg.sched.launches.any fun l => !(l.2.evicted && l.2.st == .accepted) && l.2.seqs.any fun q => q.2.region == r && q.2.x == x

/-- The user context a region could give, if bring-up has released it and it is eligible (R388, R440, R451): the lowest empty one (log entry
13). -/
def State.freeCtx (s : State) (r : Nat) : Option Nat :=
  if s.pkg.bring.step ≠ 8 || (s.region r).withdrawn || SMap.has s.pkg.trust.windows (frondOf r) then none
  else (List.range 4).find? fun x => !SMap.has (s.region r).res x && !s.held r x

/-- Regions taken frond by frond: `need` left, in groups of `m` that share a frond. -/
def takeFronds (m : Nat) : Nat → List (List Nat) → List Nat
  | _, [] => []
  | need, l :: t =>
    let n := min (l.length / m * m) need
    l.take n ++ takeFronds m (need - n) t

/-- The regions a grant takes, ascending, if there are enough: whole fronds first (R388), and the regions that share outer digits within one
frond (R389). -/
def State.pickRegions (s : State) (p : Pkt) : Option (List Nat) :=
  let fs := (List.range 16).map fun f => (rangeFrom (16 * f) 16).filter fun r => (s.freeCtx r).isSome
  let l := takeFronds (max 1 (p.product [3])) p.regions ((fs.filter fun l => l.length == 16) ++ (fs.filter fun l => l.length != 16))
  if l.length = p.regions then some (sortBy (fun a b => decide (a < b)) l) else none

/-- A span of a vault is free of allocations and of residents' tiles. -/
def State.spanFree (s : State) (r off n : Nat) : Bool :=
  !((s.pkg.allocs.any fun a => a.vault == r && meets a.offset a.bytes off n)
    || ((s.region r).res.any fun p => p.2.cfg.tiles.any fun t => meets t.offset t.bytes off n)
    || (s.savedTiles r).any fun t => meets t.offset t.bytes off n)

/-- An evicted context's saved state fits a region: its sori are unowned and its tiles' places free (R413). -/
def State.savedFits (s : State) (r : Nat) (v : Saved) : Bool :=
  v.nodes.all (fun n => (s.node r n.1).owner.isNone && s.nodeIdle r n.1)
    && v.tiles.all fun t => s.spanFree r t.2.offset t.2.bytes && !((s.region r).res.any fun p => p.2.cfg.tiles.any fun u => u.tile == t.1)
      && !(s.savedTiles r).any fun u => u.tile == t.1

/-- The regions a grant to a launch would take now. -/
def State.grantFor (s : State) (l : Launch) : Option (List Nat) :=
  match s.pickRegions l.pkt with
  | none => none
  | some rs => if l.saved.all fun v => s.savedFits (rs.getD v.g 0) v then some rs else none

/-- The accepted launches that wait for regions, in the grant order (R388, R390): an evicted one heads its priority. -/
def State.grantOrder (s : State) : List (Nat × Launch) :=
  sortBy (fun a b => decide (b.2.effPrio < a.2.effPrio) || (a.2.effPrio == b.2.effPrio
      && ((a.2.evicted && !b.2.evicted) || (a.2.evicted == b.2.evicted && decide (a.2.order < b.2.order)))))
    (s.pkg.sched.launches.filter fun l => l.2.st = .accepted)

/-- The allocations of a launch follow its regions, all at once; they stay in their vaults (R259, R413). -/
def State.moveAllocs (s : State) (lid : Nat) (moves : List (Nat × Nat)) : State :=
  s.updPkg fun p => { p with allocs := p.allocs.map fun a =>
    if a.lid = lid then { a with region := ((moves.find? fun m => m.1 == a.region).map Prod.snd).getD a.region } else a }

/-- REGION_GRANT (R388): the first launch of the order takes its regions in one step. An evicted launch's sinks that no saved configuration holds
stand in its regions again (R410), and its allocations go with its regions (R259). -/
def execRegionGrant (lid : Nat) (s : State) : Out :=
  match s.grantOrder with
  | [] => .next s
  | (k, l) :: _ =>
    if k ≠ lid then .next s
    else match s.grantFor l with
      | none => .next s
      | some rs =>
        let pairs := (List.range rs.length).map fun g => (g, rs.getD g 0, (s.freeCtx (rs.getD g 0)).getD 0)
        let fresh (e : Nat × Nat × Nat) : Nat × RegSeq := (e.1, { region := e.2.1, x := e.2.2, pos := none, phase := none, queues := [], since := [] })
        let moved (e : Nat × Nat × Nat) : Nat × RegSeq := match SMap.find l.seqs e.1 with
          | some q => (e.1, { q with region := e.2.1, x := e.2.2 })
          | none => fresh e
        let s1 := pairs.foldl (fun s e => s.updRegion e.2.1 fun g => { g with sinks := SMap.set g.sinks e.2.2 (SMap.get l.sinks e.1 {}) }) s
        if l.image.isSome then
          let moves := pairs.filterMap fun e => (SMap.find l.seqs e.1).map fun q => (q.region, e.2.1)
          .next ((s1.moveAllocs lid moves).updLaunch lid fun l => { l with st := .loaded, evicted := !l.saved.isEmpty, sinks := [], seqs := pairs.map moved })
        else .next (s1.updLaunch lid fun l => { l with st := .granted, seqs := pairs.map fresh })

/-! ### Loading (R68, R74, R75, R332) -/

/-- Where a DATA record of TARGET 1 stands (R68): one of no bytes touches no page; a WHERE whose eight bytes do not lie in the snapshot names no
address, and fails (log entry 11). -/
def State.dataReach (s : State) (asid : Nat) (snap : List Byte) (d : DataRec) : Reach :=
  let va := leAt snap d.where_ 8
  if snap.length < d.where_ + 8 || !canonical va then .fail 0x20 va
  else if d.bytes.isEmpty then .ok []
  else if (va + d.bytes.length - 1) / 2 ^ 52 ≠ va / 2 ^ 52 then .fail 0x20 va
  else s.reachClear asid true true va d.bytes.length

/-- It fails its check. -/
def State.dataBad (s : State) (asid : Nat) (snap : List Byte) (d : DataRec) : Bool :=
  match s.dataReach asid snap d with | .fail _ _ => true | .np _ => true | .ok _ => false | .hold => false

/-- The pages of bytes of a region's vault, each by its offset and where it stands now (R340). -/
def State.vaultPieces (s : State) (r off n : Nat) : List (Nat × Nat × Nat × Nat) :=
  (pagePieces (n / 65536 + 2) off n).map fun p => let w := s.redirect (s.vaultKey (vaultVa r p.1), 0); (p.1, w.1, w.2, p.2)

/-- No migration keeps the loader from bytes of a vault (R340). -/
def State.vaultOpen (s : State) (r off n : Nat) : Bool := s.openTo ((s.vaultPieces r off n).map Prod.snd)

/-- Bytes written into a vault for a launch; a retired frame takes none (R342). -/
def State.writeVault (s : State) (lid asid r off : Nat) (b : List Byte) : State :=
  (s.vaultPieces r off b.length).foldl (fun s p =>
    if s.isRetired p.2.1 then s.reportMigrated lid asid (p.2.1 % 2 ^ 52)
    else s.writePieces [p.2] ((b.drop (p.1 - off)).take p.2.2.2)) s

/-- A DATA record written: configuration phase 0 (R74). `vault` gives a region index its region. -/
def State.writeData (s : State) (lid asid : Nat) (snap : List Byte) (vault : Nat → Nat) (d : DataRec) : State :=
  if d.param then
    match s.dataReach asid snap d with
    | .ok [] => s
    | .ok (p :: t) => (s.touch asid true (leAt snap d.where_ 8) d.bytes.length).writePieces (p :: t) d.bytes
    | .fail _ _ => s
    | .np _ => s
    | .hold => s
  else s.writeVault lid asid (vault d.region) d.where_ d.bytes

/-- The error that the write of a DATA record finds in a block it covers in part (R415). -/
def State.dataErr (s : State) (asid : Nat) (snap : List Byte) (d : DataRec) : Option Nat :=
  if d.param then
    match s.dataReach asid snap d with
    | .ok l => s.errIn true l
    | .fail _ _ => none
    | .np _ => none
    | .hold => none
  else none

/-- A record waits for a migration: of a page of TARGET 1, or of a frame of a vault. -/
def State.dataWaits (s : State) (asid : Nat) (snap : List Byte) (vault : Nat → Nat) (d : DataRec) : Bool :=
  if d.param then s.dataReach asid snap d == .hold else !s.vaultOpen (vault d.region) d.where_ d.bytes.length

/-- Where a region's sequence begins (R393, R394). -/
def Image.start (im : Image) (g : Nat) : Option Nat :=
  match im.stepsOf g with
  | [] => none
  | q :: _ => if q.when_ = 2 then none else some 0

/-- A sequence at a place: the PHASE of the step is that of its number. -/
def RegSeq.at (q : RegSeq) (im : Image) (g : Nat) (i : Option Nat) : RegSeq :=
  { q with pos := i, phase := match i with | some n => (im.stepsOf g)[n]?.map SeqStep.step | none => none }

/-- A port's generator before it is patched (R66), or none for a base outside the snapshot. -/
def genOf (snap : List Byte) (p : PortRec) : Option Gen :=
  if p.param then
    (if snap.length < p.base + 8 then none else some { page := p.page, access := p.access, base := leAt snap p.base 8, extent := p.extent, table := [] })
  else some { page := p.page, access := p.access, base := p.base, extent := p.extent, table := [] }

/-- The extent checks of R332: a port of G-space that fails has code EXTENT. -/
def Gen.extentOk (g : Gen) : Bool :=
  g.page == 3 || (canonical g.base && canonical (g.base + g.extent - 1) && (g.base + g.extent - 1) / 2 ^ 52 == g.base / 2 ^ 52
    && decide (g.pages.length ≤ 1048576))

/-- The entries of a new generator that meet a range an event is changing are stale until its repatch (R336). -/
def State.staleNew (s : State) (asid : Nat) (g : Gen) : Gen :=
  (s.pkg.xlat.evs.filter fun e => e.asid = asid && e.kind.orders
      && (match e.stage with
        | .acked _ => true | .frozen _ => true | .copied _ => true
        | .sent _ => false | .queued => false | .inval _ => false | .replay _ => false | .settle _ => false | .done _ => false)).foldl
    (fun g e => g.mark e.range.1 e.range.2 fun p => { p with stale := true }) g

/-- The generators of a configuration patched in order (R332), by 4 × pinna + port. -/
def State.patchAll (s : State) (asid : Nat) : List (Nat × Gen) → SMap Gen → SMap Gen × State
  | [], m => (m, s)
  | (k, g) :: t, m =>
    let r := s.patchGen asid g
    r.2.patchAll asid t (SMap.set m k (r.2.staleNew asid r.1))

/-- The configurations of a region index, in the order of their steps. -/
def Image.cfgNums (im : Image) (g : Nat) : List Nat := ((im.stepsOf g).map SeqStep.cfg).eraseDups

/-- One configuration of a region's sequence patched (R27 step 4, R332): its generators, kept until a step places it; where a port fails with
EXTENT, none, with a record of the region and error status for its launch. -/
def State.patchCfg (s : State) (lid asid : Nat) (snap : List Byte) (im : Image) (g : Nat) (q : RegSeq) (c : Nat) : State :=
  let ports := im.ports.filter fun p => p.cfg = c
  match ports.find? fun p => match genOf snap p with | some g => !g.extentOk | none => true with
  | some p =>
    let k := s.recOf (mkCid q.region (8 * p.pinna + 5) q.x) 0x16 4 0xFF 0 none 0 0 0
    (s.raise q.region { k with lid := lid, asid := asid }).updLaunch lid fun l => { l with headErr := true }
  | none =>
    let r := s.patchAll asid (ports.filterMap fun p => (genOf snap p).map fun g => (4 * p.pinna + p.sport, g)) []
    r.2.updSched fun d => d.updSeq lid g fun q => { q with gens := SMap.set q.gens c r.1 }

/-- Every configuration of some region indexes patched; `key` names the sequence of an index. -/
def State.patchImage (s : State) (lid asid : Nat) (snap : List Byte) (im : Image) (l : List (Nat × Nat × RegSeq)) : State :=
  l.foldl (fun s e => (im.cfgNums e.1).foldl (fun s c => s.patchCfg lid asid snap im e.2.1 e.2.2 c) s) s

/-- A launch accepted before this one has still to load into one of its regions (R74). -/
def State.loadsBefore (s : State) (l : Launch) : Bool :=
  s.pkg.sched.launches.any fun k => k.2.st == .granted && decide (k.2.order < l.order)
    && k.2.seqs.any fun q => l.seqs.any fun p => p.2.region == q.2.region

/-- The retired frame that the first failing record of TARGET 1 meets is reported (R342). -/
def State.dataMet (s : State) (lid : Nat) (l : Launch) (data : List DataRec) : State :=
  match data.find? fun d => d.param && s.dataBad l.asid l.snapshot d with
  | some d => s.metReach lid l.asid (s.dataReach l.asid l.snapshot d)
  | none => s

/-- IMAGE_LOAD (R27 step 4, R71, R73 to R75, R332): the image is read and checked, its data written, and the ports of all its configurations
patched; a refused one leaves no trace. It waits for the migration of a page it reads or writes, and for the loads of launches accepted before. -/
def execImageLoad (lid : Nat) (s : State) : Out :=
  match s.launch lid with
  | none => .next s
  | some l =>
    if l.st ≠ .granted ∨ s.loadsBefore l then .next s
    else
      let args : LoadArgs := ⟨false, l.pkt.keyed, l.pkt.regions, s.pkg.trust.keys, s.dataBad l.asid l.snapshot⟩
      let refuse (s : State) (e : LoadErr) (id : Dword) : Out :=
        .next (s.updLaunch lid fun l => { l with st := .ending, code := e.code, refusal := e.bytes id s.now })
      match s.readImage l.asid l.pkt.imageVa with
      | .wait => .next s
      | .bad k a => refuse (s.metReach lid l.asid (.fail k a)) { code := 1 } 0
      | .found a => .next (s.findErr lid none 0 a 0)
      | .bytes b =>
        match imageErr args b with
        | some e => refuse (if e.code = 0xF ∧ e.field = 64 then s.dataMet lid l (imageOf b).data else s) e (BitVec.ofNat 64 (leAt b 8 8))
        | none =>
          let im := imageOf b
          let vault (g : Nat) : Nat := match SMap.find l.seqs g with | some q => q.region | none => 0
          if im.data.any (s.dataWaits l.asid l.snapshot vault) then .next s
          else match im.data.findSome? (s.dataErr l.asid l.snapshot) with
          | some a => .next (s.findErr lid none 0 a 0)
          | none =>
            let s1 := im.data.foldl (fun s d => s.writeData lid l.asid l.snapshot vault d) s
            let s2 := s1.updLaunch lid fun l =>
              { l with st := .loaded, image := some im, seqs := l.seqs.map fun q => (q.1, q.2.at im q.1 (im.start q.1)) }
            .next ((s2.patchImage lid l.asid l.snapshot im (l.seqs.map fun q => (q.1, q.1, q.2))).shareAsid l.asid)

/-- A configuration's tiles collide with those of a resident of the region, or of one to be restored there (R261, R413). -/
def State.tilesCollide (s : State) (r : Nat) (c : Cfg) : Bool :=
  let l := ((s.region r).res.flatMap fun p => p.2.cfg.tiles) ++ s.savedTiles r
  c.tiles.any fun t => l.any fun u => u.tile == t.tile || meets u.offset u.bytes t.offset t.bytes

/-- The tile-table entries of a context's configuration are removed: it is reloaded, evicted or killed (R261). -/
def State.dropTiles (s : State) (r x : Nat) : State := s.updRegion r fun g => { g with tiles := g.tiles.filter fun t => t.2.owner != x }

/-- The sori a context owns are given up: its configuration is reloaded or evicted, or killed, when the launch lives no more (R186, R425). -/
def State.releaseSori (s : State) (r x : Nat) (lives : Bool) : State :=
  s.updRegion r fun g => { g with nodes := g.nodes.map fun n => (n.1, if n.2.owner = some x then n.2.cleared lives else n.2) }

/-- The candidate the sequencer places, by its index (R394): one that has waited 4,096 cycles first, the oldest first; else the one with the
most words; ties to the lowest configuration number. -/
def RunView.pick (v : RunView) (now : Nat) : Option Nat :=
  let steps := v.image.stepsOf v.g
  let words (i : Nat) : Nat := match steps[i]? with | some q => (SMap.get v.seq.queues q.cfg []).length | none => 0
  let age (i : Nat) : Nat := match steps[i]? with | some q => now - SMap.get v.seq.since q.cfg now | none => 0
  let num (i : Nat) : Nat := match steps[i]? with | some q => q.cfg | none => 0
  let l := (List.range steps.length).filter fun i => (match steps[i]? with | some q => q.when_ == 2 | none => false) && decide (0 < words i)
  let old := l.filter fun i => decide (4096 ≤ age i)
  match sortBy (fun a b => decide (age b < age a) || (age a == age b && decide (num a < num b))) old with
  | i :: _ => some i
  | [] => (sortBy (fun a b => decide (words b < words a) || (words a == words b && decide (num a < num b))) l).head?

/-- Another load of the region is under way (R74). -/
def State.loadBusy (s : State) (r : Nat) : Bool :=
  (s.region r).res.any fun p => match p.2.phase with | .loading _ => true | .running => false | .finished => false | .draining _ => false | .evicting => false

/-- Some context of a launch is on its way out or saved: it places nothing. -/
def State.evicting (s : State) (lid : Nat) : Bool :=
  s.regions.any (fun g => g.2.res.any fun p => p.2.lid == lid && p.2.phase == .evicting)
    || (match s.launch lid with | some l => !l.saved.isEmpty | none => false)

/-- A launch accepted before this one has still to load into one of its regions (R74). -/
def State.launchWaits (s : State) (lid : Nat) : Bool := match s.launch lid with | some l => s.loadsBefore l | none => false

/-- The step a region's context places next: its index and whether it is a candidate. -/
def RunView.due (v : RunView) (now : Nat) : Option (Nat × Bool) :=
  match v.seq.pos with
  | some i => some (i, false)
  | none => (v.pick now).map fun i => (i, true)

/-- A request needs an entry that XINVAL.HOLD holds (R351). -/
def State.needsHeld (s : State) (q : Req) : Bool :=
  !q.issued && decide (q.port < 4) && match s.gen q.cid q.port with
    | some g => g.page != 3 && q.accs.any fun a => (g.entry a.va).held
    | none => false

/-- Bytes of a copy's side meet an entry that XINVAL.HOLD holds. -/
def State.sideHeld (s : State) (c : Nat) (v : Bool) (port : Nat) (va : Int) (n : Nat) : Bool :=
  !v && decide (0 ≤ va) && match s.genAt c port with
    | some g => g.table.any fun e => e.2.held && g.meets e.1 va.toNat n
    | none => false

/-- The copy at the head of a queue needs a held entry. -/
def State.copyHeld (s : State) (z : CopyQ) : Bool :=
  match z.cmds with
  | [] => false
  | k :: _ => !k.finished && (s.sideHeld k.cid (cpSv k.d) (cpSport k.d) (k.rowSrc k.row) (cpBytes k.d)
      || s.sideHeld k.cid (cpDv k.d || cpDten k.d) (cpDport k.d) (k.rowDst k.row) (cpBytes k.d))

/-- A firing waits at a page that is not present (R93). -/
def Wait.atPage (w : Wait) : Bool :=
  match w with | .held _ va => va.isSome | .none => false | .idle _ => false | .resumed _ => false | .timew _ _ => false

/-- A generator of a region is stopped on a page that is not present, or pauses at a held entry, which counts alike (R95, R337, R351, R360). -/
def State.genStopped (s : State) (r : Nat) : Bool :=
  (s.reqs.any fun q => regionOf q.cid == r && ((q.stopped && !q.issued) || s.needsHeld q))
    || ((s.region r).copyQ.any fun z => z.2.stop == some 0x25 || s.copyHeld z.2)
    || s.ctxs.any fun k => regionOf k.1 == r && k.2.ctl.wait.atPage

/-- A region has been quiet for 64 cycles: it is at a quiescent point (R338). -/
def State.quiescent (s : State) (r : Nat) : Bool := decide (64 ≤ (s.region r).quiet)

/-- The scheduler may place or evict a configuration of a region: beside a generator that is stopped or held, only at a quiescent point (R28,
R338; log entry 20). -/
def State.maySwap (s : State) (r : Nat) : Bool := !s.genStopped r || s.quiescent r

/-- STEP_PLACEMENT (R332, R393, R394): the step's generators go with it, its tiles are entered, and its records begin to be written. A
configuration that failed with EXTENT is not placed, and the region's sequence ends. Beside a stopped generator the region must be at a quiescent
point (R28, R338; log entry 20). -/
def execStepPlacement (r x : Nat) (s : State) : Out :=
  match s.runOf r x with
  | none => .next s
  | some v =>
    if SMap.has (s.region r).res x || s.loadBusy r || (v.lid != 0 && (s.evicting v.lid || s.launchWaits v.lid)) || !s.maySwap r then .next s
    else match v.due s.cycle with
      | none => .next s
      | some (i, cand) =>
        match (v.image.stepsOf v.g)[i]? with
        | none => .next (s.updSeq r x fun q => q.at v.image v.g none)
        | some st =>
          match v.image.cfgs.find? fun c => c.num = st.cfg with
          | none => .next s
          | some c =>
            if s.tilesCollide r c then .next s
            else
              match SMap.find v.seq.gens c.num with
              | none => .next (s.updSeq r x fun q => { q.at v.image v.g none with queues := [] })
              | some gens =>
                let tiles : List (Nat × Tile) := c.tiles.map fun t => (t.tile,
                  ({ owner := x, offset := t.offset, bytes := t.bytes, st := if t.state = 2 then .ready else .empty } : Tile))
                let res : Resident := { lid := v.lid, asid := v.asid, keyed := v.keyed, g := v.g, cfg := c, pos := i, step := st.step, pick := cand,
                                        gens := gens, phase := .loading (s.cycle + 140 + 15 * c.elems.length + 31) }
                let s1 := ((s.releaseSori r x true).dropTiles r x).updRegion r fun g => { g with
                  res := SMap.set g.res x res, tiles := tiles.foldl (fun m t => SMap.set m t.1 t.2) g.tiles }
                .next (s1.updSeq r x fun q =>
                  { q.at v.image v.g none with since := SMap.set q.since c.num s.cycle, gens := SMap.del q.gens c.num })

/-- The issue points an instruction uses: ports 0 to 3, 4 the vault path, 5 the engine point (R301). -/
def pointsOf (op : Nat) (i : Instr) : List Nat :=
  if [0xA0, 0xA1, 0xA2, 0xA3, 0xA9].contains op then [4]
  else if op = 0xAD then []
  else if [0xD8, 0x74, 0x7B, 0x7C, 0xE8].contains op then [5]
  else if op = 0x77 then (match i with | .pdrain _ _ _ to_ _ _ => if to_ = 1 then [5] else [] | _ => [])
  else match (useOf i).port with
    | some p => [p.1]
    | none => if (0xC0 ≤ op ∧ op < 0xD0) ∨ op = 0xAE ∨ op = 0xAF then [4] else []

/-- A context as the loader leaves it (R63, R299, R301). -/
def ElemRec.ctx (r : ElemRec) (step : Nat) : Ctx where
  slots := r.slots
  rules := r.rules
  regs := { p := r.preds, mask := r.mask, kr := BitVec.ofNat 64 (step * 2 ^ 48) }
  ctl := { released := true }
  points := ((recInstrs r).flatMap fun p => pointsOf (fld (r.slots.getD p.1 0) 25 18) p.2).foldl
    (fun m p => SMap.set m p { live := true }) []

/-- Frames the control port sends: a response or an unsolicited frame (R442). -/
def State.sendFrame (s : State) (f : FrameOut) : State := s.updPkg fun p => { p with port := { p.port with sent := p.port.sent ++ [f] } }

/-- A response to a command: sent on the port it came in on, and kept (R442). -/
def State.respond (s : State) (fr : Frame) (cmd status : Nat) (payload : List Byte) : State :=
  let f : FrameOut := { port := fr.port, cmd, seq := fr.seq, time := s.now, status, payload }
  (s.sendFrame f).updPkg fun p => { p with port := { p.port with resp := (p.port.resp ++ [f]).drop (p.port.resp.length + 1 - 65536) } }

/-- The response held for a SEQ. -/
def State.heldResp (s : State) (seq : BitVec 32) : Option FrameOut := s.pkg.port.resp.find? fun f => f.seq = seq

/-- A command's answer: one that is held is sent again on the port the command came in on (R442). -/
def State.answer (s : State) (fr : Frame) (cmd status : Nat) (payload : List Byte) : State :=
  match s.heldResp fr.seq with
  | some f => s.sendFrame { f with port := fr.port }
  | none => s.respond fr cmd status payload

/-- A system image's region has passed CFGSIG; the response of SYSLOAD leaves with the last (R445). -/
def State.sysPassed (s : State) (r : Nat) : State :=
  let l := s.pkg.port.sysloads.map fun e => (e.1, e.2.filter (· ≠ r))
  let done := l.filter fun e => e.2.isEmpty
  let s1 := s.updPkg fun p => { p with port := { p.port with sysloads := l.filter fun e => !e.2.isEmpty } }
  done.foldl (fun s e => s.answer e.1 7 0 []) s1

/-- Nothing is left of what a context of a region held (R74, R147), and the copies of its records are new (R417). -/
def State.clearCtxs (s : State) (r x : Nat) : State :=
  let mine (c : Nat) : Bool := regionOf c == r && ctxOf c == x
  { s with ctxs := s.ctxs.filter (fun k => !mine k.1), badCopies := s.badCopies.filter fun e => !(mine e.2 && decide (e.1 ≤ s.cycle)) }

/-- CONFIGURATION_LOAD (R74): the last record is confirmed, and the contexts become candidates together in the next cycle. -/
def execConfigurationLoad (r x : Nat) (s : State) : Out :=
  match SMap.find (s.region r).res x with
  | none => .next s
  | some p =>
    match p.phase with
    | .loading n =>
      if s.cycle + 1 < n then .next s
      else
        let s1 := p.cfg.elems.foldl (fun s e => s.setCtx (mkCid r e.elem x) (e.ctx p.step)) (s.clearCtxs r x)
        let s2 := s1.updRegion r fun g => { g with res := SMap.set g.res x { p with phase := .running } }
        .next (if x = 4 then s2.sysPassed r else s2)
    | .running => .next s
    | .finished => .next s
    | .draining _ => .next s
    | .evicting => .next s

/-! ### Finish and drain (R392) -/

/-- The contexts of a resident. -/
def cidsOf (r x : Nat) (c : Cfg) : List Nat := c.elems.map fun e => mkCid r e.elem x

/-- The inputs that are sinks, by context (R254). -/
def sinkInputs (r x : Nat) (c : Cfg) : List (Nat × Nat) :=
  c.elems.flatMap fun e => (recInstrs e).filterMap fun p => match p.2 with | .ends _ a _ => some (mkCid r e.elem x, inNo a) | _ => none

/-- A placed configuration finishes (R392, R398); a system configuration does so by the HALT of every element record alone (R445). -/
def State.cfgFinished (s : State) (r x : Nat) (p : Resident) : Bool :=
  let sinks := sinkInputs r x p.cfg
  (!p.keyed && p.choice.isSome)
    || (if x == 4 || sinks.isEmpty then (cidsOf r x p.cfg).all fun c => (s.ctx c).ctl.halted
        else sinks.all fun k => SMap.get (s.ctx k.1).sinkDone k.2 false)

/-- A command in a pool, copy or port queue of a region whose context passes a test. -/
def State.cmdsFor (s : State) (r : Nat) (mine : Nat → Bool) : Bool :=
  let g := s.region r
  (g.copyIn ++ g.copyQ.flatMap fun z => z.2.cmds).any (fun k => mine k.cid)
    || g.poolIn.any (fun k => mine k.cid) || g.gather.any (fun k => mine k.cid)
    || g.nodes.any (fun n => (n.2.cq.cmds ++ n.2.oq.cmds ++ n.2.dq.cmds).any (fun k => mine k.cid) || n.2.packets.any (fun k => mine k.cid)
        || n.2.tileWrites.any fun k => mine k.cid)
    || g.waits.any (fun k => mine k.cid) || s.reqs.any fun q => mine q.cid && !q.over

/-- A context of a region's elements has a command in a queue, or a pass of its sori under way. -/
def State.cmdsOf (s : State) (r x : Nat) : Bool :=
  s.cmdsFor r (fun c => regionOf c == r && ctxOf c == x) || (s.region r).nodes.any fun n => n.2.owner == some x && !n.2.runs.isEmpty

/-- The open results that commands of a region's pool and copy queues owe, with their contexts: each comes when its command ends. -/
def Region.owed (g : Region) : List (Nat × Option Nat) :=
  ((g.copyIn ++ g.copyQ.flatMap fun z => z.2.cmds).map fun k => (k.cid, k.pend))
    ++ ((g.poolIn ++ g.nodes.flatMap fun n => n.2.cq.cmds ++ n.2.oq.cmds ++ n.2.dq.cmds).map fun k => (k.cid, k.pend))
    ++ (g.gather.map fun k => (k.cid, k.pend)) ++ (g.waits.map fun k => (k.cid, k.pend))
    ++ (g.nodes.flatMap fun n => (n.2.packets.map fun k => (k.cid, k.pend)) ++ n.2.tileWrites.map fun k => (k.cid, k.pend))

/-- A port of a context has a gather in progress. -/
def Ctx.gathers (k : Ctx) : Bool := k.ports.any fun p => p.2.gath.isSome

/-- A result of context c that a firing has produced, or that an access, a barrier, a translation event or a quote of it will, has still to be
written back; what its commands in queues owe is none of these (R92, R392). -/
def State.writesDue (s : State) (c : Nat) : Bool :=
  let k := s.ctx c
  let owed := if k.pend.isEmpty then [] else (s.region (regionOf c)).owed ++ k.ports.map fun p => (c, p.2.gath.map Prod.snd)
  k.pend.any fun p => p.due.isSome || !owed.contains (c, some p.id)

/-- The writebacks of a context are complete; no packet of a LAUNCH and no translation event is under way (R392). -/
def State.settledAt (s : State) (c : Nat) : Bool :=
  !s.writesDue c && (s.ctx c).ctl.readAt.isNone && !s.pkg.xlat.evs.any fun e => e.cid == c

/-- Every context of a configuration is settled. -/
def State.settled (s : State) (r x : Nat) (p : Resident) : Bool := (cidsOf r x p.cfg).all s.settledAt

/-- The tokens of one context in its buffers and output registers and on the links to it, but for the EOS that its complete sinks keep
(R392). -/
def State.tokensAt (s : State) (c : Nat) : Nat :=
  let k := s.ctx c
  (k.ch.inb.map fun b => b.2.length - bit01 (SMap.get k.sinkDone b.1 false)).foldl (· + ·) 0 + k.ch.outr.length
    + (s.flight.filter fun f => f.dst == c).length

/-- The tokens of a context of a region, over its elements. -/
def State.tokensOf (s : State) (r x : Nat) : Nat := (List.range 96).foldl (fun n e => n + s.tokensAt (mkCid r e x)) 0

/-- The drain token removes every token at an element, each one stranded (R392). -/
def State.strandAt (s : State) (r x e : Nat) : State :=
  let c := mkCid r e x
  let n := s.tokensAt c
  if n = 0 then s
  else
    let s1 := (s.countStranded c n).updCtx c fun k => k.updCh fun h => { h with inb := [], outr := [] }
    { s1 with flight := s1.flight.filter fun f => f.dst != c }

/-- A context emptied: its registers, tokens, links and ports are gone, and its resident with them. Only FSTAT stands until the next load
(R147). -/
def State.emptyCtx (s : State) (r x : Nat) : State :=
  let mine (c : Nat) : Bool := regionOf c == r && ctxOf c == x
  let s1 := { s with ctxs := s.ctxs.map (fun (k : Nat × Ctx) => (k.1, if mine k.1 then { regs := { fstat := k.2.regs.fstat } } else k.2)),
                     flight := s.flight.filter (fun f => !mine f.src && !mine f.dst),
                     fans := s.fans.filter fun f => !mine f.src }
  s1.updRegion r fun g => { g with res := SMap.del g.res x }

/-- The place after a step that has drained (R393): k positions on with a choice, else the next step if its WHEN is 0. -/
def Image.after (im : Image) (g : Nat) (p : Resident) : Option Nat :=
  let l := im.stepsOf g
  match p.choice with
  | some k => if p.pos + k < l.length then some (p.pos + k) else none
  | none => match l[p.pos + 1]? with | some q => if q.when_ = 0 then some (p.pos + 1) else none | none => none

/-- A generator between two placements: it holds its patch table, and nothing fetched. -/
def Gen.idle (g : Gen) : Gen := { g with window := [], fetchAt := none }

/-- The drain token has left element 95: the context is empty, its generators go back to its sequence, and the next step is due (R392, R393). -/
def State.endStep (s : State) (r x : Nat) (p : Resident) : State :=
  let s1 := ((List.range 96).foldl (fun s e => s.strandAt r x e) s).emptyCtx r x
  match s.runOf r x with
  | none => s1
  | some v => s1.updSeq r x fun q => { q.at v.image v.g (v.image.after v.g p) with
      since := SMap.set q.since p.cfg.num s.cycle, gens := SMap.set q.gens p.cfg.num (p.gens.map fun g => (g.1, g.2.idle)) }

/-- STEP_DRAIN (R392): the configuration finishes; its writebacks complete; the drain token passes an element a cycle, removes the tokens there,
and waits at one whose queues hold a command of the context; the context is empty. -/
def execStepDrain (r x : Nat) (s : State) : Out :=
  match SMap.find (s.region r).res x with
  | none => .next s
  | some p =>
    let phase (q : ResPhase) : State := s.updRegion r fun g => { g with res := SMap.set g.res x { p with phase := q } }
    match p.phase with
    | .running =>
      .next (if s.cfgFinished r x p then (if s.settled r x p && p.stAck == 0 then phase (.draining 0) else phase .finished) else s)
    | .finished => .next (if s.settled r x p && p.stAck == 0 then phase (.draining 0) else s)
    | .draining e =>
      let s1 := s.strandAt r x e
      let go (n : Nat) : State := s1.updRegion r fun g => { g with res := SMap.set g.res x { p with phase := .draining n } }
      let c := mkCid r e x
      if s1.cmdsFor r (fun k => k == c) || (s1.ctx c).gathers || !s1.settledAt c then .next s1
      else if e < 95 then .next (go (e + 1))
      else .next (if s1.cmdsOf r x then s1 else s1.endStep r x p)
    | .loading _ => .next s
    | .evicting => .next s

/-! ### Completion (R28, R387, R444) -/

/-- A region's part of a launch is complete: no resident, no step due, and every entry queue empty or of no WHEN 2 step (R393). -/
def State.regionDone (s : State) (lid : Nat) (im : Image) (g : Nat) (q : RegSeq) : Bool :=
  (match SMap.find (s.region q.region).res q.x with | some p => p.lid != lid | none => true)
    && q.pos.isNone && q.queues.all fun e => e.2.isEmpty || !im.candidate g e.1

/-- Everything R28 asks of this package's part: sequences, children, retired allocations, accesses. -/
def State.partDone (s : State) (lid : Nat) (l : Launch) : Bool :=
  (match l.st with
    | .ending => true
    | .loaded => !l.evicted && (match l.image with | some im => l.seqs.all fun q => s.regionDone lid im q.1 q.2 | none => false)
    | .queued => false | .accepted => false | .granted => false)
    && !(s.pkg.sched.launches.any fun k => k.2.parent == some lid) && !(s.pkg.sched.deliveries.any fun d => d.parent == some lid)
    && !(s.pkg.allocs.any fun a => a.retired && a.lid == lid) && !(s.reqs.any fun q => q.lid == lid && !q.over)

/-- Sink counts of a launch in this package: poison and stranded. -/
def State.sinkSums (s : State) (l : Launch) : Nat × Nat :=
  l.seqs.foldl (fun m q => let k := SMap.get (s.region q.2.region).sinks q.2.x {}
    (m.1 + k.poison, m.2 + k.stranded)) (l.poison, l.stranded)

/-- Nothing waits for a launch of the pod any more (R385). -/
def State.endWaits (s : State) (lid : Nat) : State :=
  s.updSched fun d => { d with launches := d.launches.map fun (k : Nat × Launch) => (k.1, { k.2 with waits := k.2.waits.filter (· != lid) }),
                               away := SMap.del d.away lid }

/-- What a launch held is freed: contexts, allocations, barriers, transaction barriers (R387); its predecessors' waits end with it. -/
def State.freeLaunch (s : State) (lid : Nat) (l : Launch) : State :=
  let s1 := l.seqs.foldl (fun s q => s.updRegion q.2.region fun g => { g with sinks := SMap.set g.sinks q.2.x {} }) s
  let noTb (g : Region) : Region := { g with tbs := g.tbs.filter (fun t => t.2.owner != some lid), nbar := g.nbar.filter fun b => b.2.owner != some lid }
  let s2 : State := { s1 with regions := s1.regions.map fun (g : Nat × Region) => (g.1, noTb g.2) }
  let s3 := s2.updPkg fun p => { p with allocs := p.allocs.filter (fun a => a.lid != lid), gbar := p.gbar.filter fun b => b.2.owner != some lid }
  (s3.updSched fun d => { d with launches := SMap.del d.launches lid }).endWaits lid

/-- The flags and code of a launch's record (R387) from its sums. -/
def Launch.verdict (l : Launch) (poison stranded : Nat) (ovl childErr headErr : Bool) (killed : Bool) : Nat × Nat :=
  let flags := bit01 ovl + 2 * bit01 (decide (0 < poison)) + 4 * bit01 (decide (0 < stranded)) + 8 * bit01 childErr
  (if killed then 0x21 else if l.code ≠ 0 then l.code else if 0 < poison ∨ 0 < stranded ∨ headErr then 0x20 else 0, flags)

/-- The record is written and its first two bytes kept for the parent's JOINC (R387, R397); what the launch held is freed, here and in the other
packages of the pod. -/
def State.endLaunch (s : State) (lid : Nat) (l : Launch) (b : List Byte) (refused : Bool) : State :=
  let s1 := s.giveRecord lid l.asid l.pkt.compVa b
  let s2 := if refused ∧ (s.storeRecord l.asid l.pkt.compVa b).isSome then s1.toPort b else s1
  let s3 := match l.parent with
    | some p => s2.updLaunch p fun k => { k with kids := SMap.set k.kids lid (leAt b 0 1, leAt b 1 1), childErr := k.childErr || leAt b 0 1 != 0 }
    | none => s2
  (s3.freeLaunch lid l).tellPod [] (.ended lid)

/-- LAUNCH_COMPLETION (R28, R73, R387, R444): at the package at position 0, once every listed package has reported; any other code than OK that one
reports makes the launch ERROR, but for KILLED (log entry 13). The store waits for a migration of its page. -/
def execLaunchCompletion (lid : Nat) (s : State) : Out :=
  match s.launch lid with
  | none => .next s
  | some l =>
    if s.podIndex l ≠ 0 ∨ !s.partDone lid l ∨ l.reports.length + 1 < l.pkgs.length ∨ s.recordReach l.asid l.pkt.compVa = .hold then .next s
    else if let some a := s.recordErr l.asid l.pkt.compVa then .next (s.findErr lid none 0 a 0)
    else if !l.refusal.isEmpty then .next (s.endLaunch lid l l.refusal true)
    else
      let m := s.sinkSums l
      let rp := l.reports.foldl (fun n r => (n.1 + r.2.2.2.1, n.2 + r.2.2.2.2)) m
      let fl (k : Nat) : Bool := l.reports.any fun r => r.2.2.1 / 2 ^ k % 2 == 1
      let v := l.verdict rp.1 rp.2 (l.randOvl || fl 0) (l.childErr || fl 3) (l.headErr || l.reports.any fun r => r.2.1 != 0 && r.2.1 != 0x21)
        (l.killed.isSome || l.reports.any fun r => r.2.1 == 0x21)
      .next (s.endLaunch lid l (completionBytes v.1 v.2 lid rp.1 rp.2 l.accTime s.now) false)

/-- COMPLETION_REPORT (R444): a package at another position reports to the one at position 0, once; what its part holds is freed when the launch
is complete. Its control port returns the record of a refused image (R73). -/
def execCompletionReport (lid : Nat) (s : State) : Out :=
  match s.launch lid with
  | none => .next s
  | some l =>
    if s.podIndex l = 0 ∨ l.reported ∨ !s.partDone lid l then .next s
    else
      let m := s.sinkSums l
      let v := l.verdict m.1 m.2 l.randOvl l.childErr l.headErr l.killed.isSome
      let s1 := s.forward (l.pkgs.getD 0 0) (.report lid s.pkg.pkgId v.1 v.2 m.1 m.2)
      let s2 := s1.updLaunch lid fun l => { l with reported := true }
      .next (if l.refusal.isEmpty then s2 else s2.toPort l.refusal)

/-! ### Eviction and restore (R390, R412, R413) -/

/-- A generator has entries held (R338, R351). -/
def Gen.holds (g : Gen) : Bool := g.table.any fun e => e.2.held

/-- A generator of context x of a region is stopped on a page that is not present (R337, R338). -/
def State.portStopped (s : State) (r x : Nat) : Bool :=
  s.reqs.any fun q => regionOf q.cid == r && ctxOf q.cid == x && q.stopped && !q.issued

/-- A running configuration is evictable (R412). -/
def State.evictable (s : State) (r x : Nat) (p : Resident) : Bool :=
  let g := s.region r
  !((cidsOf r x p.cfg).any fun c => (s.ctx c).ctl.trap.isSome) && !(p.gens.any fun e => e.2.holds) && !s.portStopped r x
    && !(g.nodes.any fun n => n.2.owner == some x && [n.2.cq, n.2.oq, n.2.dq].any fun q => q.stop.isSome || q.qstop)
    && !(g.copyQ.any fun z => (z.2.stop.isSome || z.2.qstop) && z.2.cmds.any fun k => ctxOf k.cid == x)

/-- The residents of a launch: region and context. -/
def State.residentsOf (s : State) (lid : Nat) : List (Nat × Nat × Resident) :=
  s.regions.flatMap fun g => (g.2.res.filter fun p => p.2.lid == lid).map fun p => (g.1, p.1, p.2)

/-- A launch can leave now: every resident runs and is evictable, or is already leaving. -/
def State.canLeave (s : State) (lid : Nat) : Bool :=
  let l := s.residentsOf lid
  !l.isEmpty && l.all fun e => e.2.2.phase == .evicting || (e.2.2.phase == .running && s.evictable e.1 e.2.1 e.2.2)

/-- The launches to be evicted: the resident one of lowest effective priority below the first waiting launch's, when that one has no grant, as soon
as it can leave (R390); and those that a repair window with evict waits for (R440). Of equal priorities the one of the fewest resident configurations goes first, then the
one accepted last (log entry 13). -/
def State.victims (s : State) : List Nat :=
  let run := s.pkg.sched.launches.filter fun l => l.2.st = .loaded && !(s.residentsOf l.1).isEmpty
  let low := match s.grantOrder with
    | [] => []
    | (_, l) :: _ =>
      if (s.grantFor l).isSome then []
      else ((sortBy (fun (a b : Nat × Launch) => decide (a.2.effPrio < b.2.effPrio) || (a.2.effPrio == b.2.effPrio
          && (decide ((s.residentsOf a.1).length < (s.residentsOf b.1).length)
            || ((s.residentsOf a.1).length == (s.residentsOf b.1).length && decide (b.2.order < a.2.order)))))
        (run.filter fun k => decide (k.2.effPrio < l.effPrio))).take 1).map Prod.fst
  let fr := (run.filter fun k => k.2.seqs.any fun q => (SMap.get s.pkg.trust.windows (frondOf q.2.region) (false, false)).1).map Prod.fst
  (low ++ fr).filter s.canLeave

/-- The source slots of a record: armed, unspent CSTEP and STRAND.TAKE, with their outputs (R412). -/
def Ctx.sources (k : Ctx) (r : ElemRec) : List (Nat × Nat) :=
  (recInstrs r).filterMap fun p => match p.2 with
    | .cstep d _ _ => if k.chain.armed && !k.chain.spent then some (p.1, outNo d) else none
    | .strand d _ _ c => if c = 4 then some (p.1, outNo d) else none
    | _ => none

/-- The source slots of a context that have not emitted their DRAIN. -/
def Ctx.undrained (k : Ctx) (r : ElemRec) : List (Nat × Nat) :=
  if k.ctl.halted then [] else (k.sources r).filter fun p => !SMap.get k.drained p.1 false

/-- The read streams of a context end with a DRAIN after the tokens already requested. -/
def Ctx.drainPorts (k : Ctx) : Ctx :=
  { k with ports := k.ports.map fun p => (p.1,
      if p.2.mode == .read && !p.2.draining && p.2.chain.armed && !p.2.chain.spent then
        { p.2 with frozen := true, draining := true, buf := p.2.buf ++ [{ tok := { kind := kDRAIN } }] } else p.2) }

/-- A context's sources emit DRAIN where their outputs accept. -/
def State.injectCtx (s : State) (c : Nat) (r : ElemRec) : State :=
  ((s.ctx c).undrained r).foldl (fun s p =>
    if (s.ctx c).accepts p.2 then
      (s.putTok c p.2 { kind := kDRAIN, tag := (s.ctx c).otag p.2 }).updCtx c fun k => { k with drained := SMap.set k.drained p.1 true }
    else s) (s.updCtx c Ctx.drainPorts)

/-- EVICTION (R412 step 1): every source emits DRAIN in place of its next token and then stops firing. -/
def execEviction (r x : Nat) (s : State) : Out :=
  match SMap.find (s.region r).res x with
  | none => .next s
  | some p =>
    if !(p.phase == .evicting || (p.phase == .running && s.victims.contains p.lid && s.maySwap r)) then .next s
    else
      let s1 := s.updRegion r fun g => { g with res := SMap.set g.res x { p with phase := .evicting } }
      .next (p.cfg.elems.foldl (fun s e => s.injectCtx (mkCid r e.elem x) e) s1)

/-- The configuration has quiesced (R412 step 2). -/
def State.quiesced (s : State) (r x : Nat) (p : Resident) : Bool :=
  p.cfg.elems.all (fun e => ((s.ctx (mkCid r e.elem x)).undrained e).isEmpty
      && (s.ctx (mkCid r e.elem x)).ports.all fun q => q.2.gath.isNone && (q.2.mode == .idle || q.2.mode == .write || q.2.buf.isEmpty))
    && s.tokensOf r x == 0 && p.stAck == 0 && s.settled r x p && !s.cmdsOf r x

/-- The bytes of a tile, by offset; a retired frame gives none (R342). -/
def State.tileContents (s : State) (r : Nat) (t : Tile) : List (Nat × List Byte) :=
  ((s.vaultPieces r t.offset t.bytes).filter fun p => !s.isRetired p.2.1).map fun p => (p.1, s.readPieces [p.2])

/-- The retired frames that the save of some tiles meets are reported. -/
def State.tilesMet (s : State) (lid asid r : Nat) (l : List Tile) : State :=
  (l.flatMap fun t => s.vaultPieces r t.offset t.bytes).foldl (fun s p =>
    if s.isRetired p.2.1 then s.reportMigrated lid asid (p.2.1 % 2 ^ 52) else s) s

/-- The last context of a launch has been evicted: it waits for a grant again, and the sinks of its regions without a configuration are kept
(R410). -/
def State.leaveRegions (s : State) (lid : Nat) : State :=
  match s.launch lid with
  | none => s
  | some l =>
    let bare := l.seqs.filter fun q => !(l.saved.any fun v => v.g == q.1)
    let s1 := bare.foldl (fun s q => s.updRegion q.2.region fun g => { g with sinks := SMap.set g.sinks q.2.x {} }) s
    s1.updLaunch lid fun l =>
      { l with st := .accepted, evicted := true, sinks := bare.map fun q => (q.1, SMap.get (s.region q.2.region).sinks q.2.x {}) }

/-- EVICTION_SAVE (R412 steps 3 and 4): the state is saved and the context empty; with its last context the launch waits for a grant again. -/
def execEvictionSave (r x : Nat) (s : State) : Out :=
  match SMap.find (s.region r).res x with
  | none => .next s
  | some p =>
    let g := s.region r
    let tiles := g.tiles.filter fun t => t.2.owner == x
    if p.phase != .evicting || !s.quiesced r x p || !tiles.all (fun t => s.vaultOpen r t.2.offset t.2.bytes) then .next s
    else
      let v : Saved := { g := p.g, region := r, res := { p with phase := .running },
                         ctxs := p.cfg.elems.map fun e => (e.elem, s.ctx (mkCid r e.elem x)), sink := SMap.get g.sinks x {},
                         nodes := g.nodes.filter fun n => n.2.owner == some x, tiles := tiles,
                         bytes := tiles.flatMap fun t => s.tileContents r t.2, mark := s.resMark r x p (0, 9) }
      let s1 := ((((s.tilesMet p.lid p.asid r (tiles.map Prod.snd)).emptyCtx r x).dropTiles r x).releaseSori r x true)
      let s2 := s1.updRegion r fun g => { g with sinks := SMap.set g.sinks x {} }
      let s3 := s2.updLaunch p.lid fun l => { l with saved := l.saved ++ [v] }
      let s4 := s3.addDeadline (mkCid r 0 x) 0 0 [] (moveCycles ((tiles.map fun t => t.2.bytes).foldl (· + ·) 0))
      .next (if (s4.residentsOf p.lid).isEmpty then s4.leaveRegions p.lid else s4)

/-- A saved context in its new place: issue-point floors carry the new source number, frozen sources resume, and it has not starved (R82, R301,
R413). -/
def Ctx.replace (k : Ctx) (src : Nat) : Ctx :=
  { k with ctl := { k.ctl with starve := 0 }, drained := [], points := k.points.map fun p => (p.1,
             if p.2.floor = 0 then p.2 else { p.2 with floor := p.2.floor / 2 ^ 93 * 2 ^ 93 + src * 2 ^ 64 + p.2.floor % 2 ^ 64 }),
           ports := k.ports.map fun p => (p.1, if p.2.draining then { p.2 with frozen := false, draining := false } else p.2) }

/-- One saved context reinstated in region r, context x. -/
def State.restoreOne (s : State) (r x : Nat) (v : Saved) : State :=
  let s0 := ((s.releaseSori r x true).dropTiles r x).clearCtxs r x
  let s1 := v.bytes.foldl (fun s b => s.writeVault v.res.lid v.res.asid r b.1 b.2) s0
  let s2 := v.ctxs.foldl (fun s k => s.setCtx (mkCid r k.1 x) (k.2.replace (s.source (mkCid r k.1 x)).toNat)) s1
  let s3 := v.nodes.foldl (fun s n => s.installNode r n.1 x n.2) s2
  let q := s3.patchAll v.res.asid v.res.gens []
  let n := moveCycles ((v.tiles.map fun t => t.2.bytes).foldl (· + ·) 0)
  let s4 := q.2.addDeadline (mkCid r 0 x) 0 0 [] n
  s4.updRegion r fun g => { g with res := SMap.set g.res x { v.res with gens := q.1 }, sinks := SMap.set g.sinks x v.sink,
                                    tiles := v.tiles.foldl (fun m t => SMap.set m t.1 { t.2 with owner := x }) g.tiles }

/-- RESTORE (R413): the saved state of a granted launch is reinstated before its first firing. Beside a stopped generator a region must be at a
quiescent point (R28), and a frozen frame lets nothing in (R340). -/
def execRestore (lid : Nat) (s : State) : Out :=
  match s.launch lid with
  | none => .next s
  | some l =>
    let ready (v : Saved) : Bool := match SMap.find l.seqs v.g with
      | some q => s.maySwap q.region && v.bytes.all fun b => s.vaultOpen q.region b.1 b.2.length
      | none => true
    if l.st ≠ .loaded ∨ !l.evicted ∨ !l.saved.all ready then .next s
    else
      let s1 := l.saved.foldl (fun s v => match SMap.find l.seqs v.g with
        | some q => s.restoreOne q.region q.x v
        | none => s) s
      .next (s1.updLaunch lid fun l => { l with saved := [], evicted := false })

/-- QUIESCENT_POINT (R338): 64 consecutive cycles with no firing and no beat, every access in flight held at a stopped generator. The count is
kept by the step, and stands at 64 from then on. -/
def execQuiescentPoint (r : Nat) (s : State) : Out :=
  if s.quiescent r then .next (s.updRegion r fun g => { g with quiet := 64 }) else .next s

end Sys2Proof.Machine
end

