-- ==== Sys2Proof/Machine/Kill.lean ====
section
/-! DEFINITION. Kills and errors (R373, R414 to R418): ONE operation that ends a launch with its children, and the events that cause or
carry one. -/

namespace Sys2Proof.Machine

/-! ### What a kill does (R373, R414, R416) -/

/-- A launch and its descendants; `fuel` bounds the generations. -/
def State.family (s : State) : Nat → List Nat → List Nat
  | 0, l => l
  | n + 1, l =>
    let kid (k : Nat × Launch) : Bool := !l.contains k.1 && (match k.2.parent with | some p => l.contains p | none => false)
    let new := (s.pkg.sched.launches.filter kid).map Prod.fst
    if new.isEmpty then l else s.family n (l ++ new)

/-- The whole family of a launch in this package. -/
def State.familyOf (s : State) (lid : Nat) : List Nat := s.family s.pkg.sched.launches.length [lid]

/-- A departure due to a killed context: poison in its sink for an x register; what goes to an output is discarded with the context
(R373, R414). -/
def State.abortArrival (s : State) (code : Nat) (a : Arrival) : State :=
  match a.out with
  | some _ => s
  | none => s.countPoison a.cid (s.poison a.cid a.fcount code)

/-- The departures still to come of a barrier. -/
def Barrier.due (b : Barrier) : List Arrival := b.syncs ++ b.leaving.flatMap fun l => l.2.2.2

/-- Every barrier of a launch completes with BARABORT, or COLL_ABORT for a pod barrier where the kill did not begin; then it is free, as its
transaction barriers are (R373, R416). -/
def State.abortBarriers (s : State) (lid : Nat) (here : Bool) : State :=
  let mine (b : Nat × Barrier) : Bool := b.2.owner == some lid
  let s1 := (s.regions.flatMap fun g => (g.2.nbar.filter mine).flatMap fun b => b.2.due).foldl (fun s a => s.abortArrival 0x47 a) s
  let code (b : Nat) : Nat := if 8 ≤ b && !here then 0x4B else 0x47
  let s2 := (s.pkg.gbar.filter mine).foldl (fun s b => b.2.due.foldl (fun s a => s.abortArrival (code b.1) a) s) s1
  let clear (g : Region) : Region :=
    { g with nbar := g.nbar.filter (fun b => b.2.owner != some lid), tbs := g.tbs.filter fun t => t.2.owner != some lid }
  let s3 : State := { s2 with regions := s2.regions.map fun (g : Nat × Region) => (g.1, clear g.2) }
  s3.updPkg fun p => { p with gbar := p.gbar.filter fun b => b.2.owner != some lid }

/-- A model address lies in another package. -/
def State.remote (s : State) (a : Nat) : Bool := a % 2 ^ 52 / 2 ^ 41 != s.pkg.pkgId

/-- A side of a copy has a row on a page that lies in another package. -/
def State.sideRemote (s : State) (c : Nat) (v : Bool) (port : Nat) (rows n : Nat) (start : Nat → Int) : Bool :=
  !v && match s.genAt c port with
    | some g => g.table.any fun e => (match e.2.p with
        | .frame b _ _ _ sp _ => s.remote (physKey sp b) && (List.range rows).any fun w => g.meets e.1 (start w).toNat n
        | .pg => false
        | .np => false)
    | none => false

/-- A copy whose source or destination lies in another package completes with COLL_ABORT where the kill did not begin (R416). -/
def State.abortCopy (s : State) (here : Bool) (k : CopyCmd) : State :=
  if here || !(s.sideRemote k.cid (cpSv k.d) (cpSport k.d) (cpRows k.d) (cpBytes k.d) k.rowSrc
      || s.sideRemote k.cid (cpDv k.d || cpDten k.d) (cpDport k.d) (cpRows k.d) (cpBytes k.d) k.rowDst) || k.out.isSome then s
  else s.countPoison k.cid (s.poison k.cid (BitVec.ofNat 48 k.fcount) 0x4B)

/-- What the commands and requests of the contexts that pass a test ask, or have been granted, at the tile table: tile and entry. -/
def State.tileUses (s : State) (r : Nat) (mine : Nat → Bool) : List (Nat × TileWait) :=
  let g := s.region r
  let copies := (g.copyIn ++ g.copyQ.flatMap fun z => z.2.cmds).filter fun k => mine k.cid && cpDten k.d
  let cmds := (g.poolIn ++ g.nodes.flatMap fun n => n.2.oq.cmds ++ n.2.dq.cmds).filter fun k => mine k.cid
  let ofCmd (k : PoolCmd) : List (Nat × TileWait) :=
    match k.op with
    | .gather _ rows => (rows.take 1).map fun x => (x.tile, .gather k.id)
    | .drain d _ true _ => [(dsTile d, .drain k.id)]
    | .drain _ _ false _ => []
    | .carve _ => []
    | .map _ => []
    | .commit => []
    | .issue _ _ _ => []
    | .clear _ _ => []
    | .sort _ _ => []
    | .sortk _ _ _ => []
  ((copies.map fun k => (cpTile k.d, TileWait.copy k.id)) ++ cmds.flatMap ofCmd
    ++ ((g.gather.filter fun x => mine x.cid).map fun x => (x.tile, TileWait.gather x.id))
    ++ (s.reqs.filter fun q => mine q.cid).flatMap fun q => match q.tile with | some t => [(t, TileWait.store q.id)] | none => []).eraseDups

/-- What asked at a tile's entry is gone: it waits no more, or what it was granted ends. -/
def Tile.forget (t : Tile) (w : TileWait) : Tile :=
  if t.waitq.contains w then { t with waitq := t.waitq.filter (· != w) }
  else match w with
  | .gather _ => { t with holders := t.holders - 1 }
  | .op _ => t
  | .store _ => if t.st = .filling then { t with st := .ready } else t
  | .drain _ => if t.st = .filling then { t with st := .ready } else t
  | .copy _ => if t.st = .filling then { t with st := .ready } else t

/-- Every command, request and result of the contexts that pass a test is discarded, and the tiles they used are let go. -/
def State.dropWork (s : State) (r : Nat) (mine : Nat → Bool) : State :=
  let uses := s.tileUses r mine
  let s := uses.foldl (fun s u => s.updTile r u.1 fun t => t.forget u.2) s
  let pool (z : PoolQ) : PoolQ := { z with cmds := z.cmds.filter fun k => !mine k.cid }
  let node (n : Node) : Node :=
    { n with cq := pool n.cq, oq := pool n.oq, dq := pool n.dq, packets := n.packets.filter (fun k => !mine k.cid),
             tileWrites := n.tileWrites.filter fun k => !mine k.cid }
  let copy (z : CopyQ) : CopyQ :=
    let held := match z.cmds with | k :: _ => mine k.cid | [] => false
    let l := z.cmds.filter fun k => !mine k.cid
    if held then { z with cmds := l, stop := if z.stop = some 0x25 then none else z.stop, reported := none } else { z with cmds := l }
  let s1 := s.updRegion r fun g => { g with
    copyIn := g.copyIn.filter (fun k => !mine k.cid), copyQ := g.copyQ.map (fun z => (z.1, copy z.2)),
    poolIn := g.poolIn.filter (fun k => !mine k.cid), nodes := g.nodes.map (fun n => (n.1, node n.2)),
    gather := g.gather.filter (fun k => !mine k.cid), waits := g.waits.filter (fun k => !mine k.cid),
    probes := g.probes.filter (fun k => !mine k.cid),
    freeze := match g.freeze with | some (c, t) => if mine c then none else some (c, t) | none => none }
  let s2 := { s1 with reqs := s1.reqs.filter fun q => !mine q.cid }
  (uses.map Prod.fst).eraseDups.foldl (fun s t => s.tileTurn r t id) s2

/-- One resident of a killed launch: its copies abort, its work, tokens, sori and generators are gone, and its context is empty (R414). -/
def State.killResident (s : State) (here : Bool) (r x : Nat) : State :=
  let g := s.region r
  let mine (c : Nat) : Bool := regionOf c == r && ctxOf c == x
  let s1 := ((g.copyIn ++ g.copyQ.flatMap fun z => z.2.cmds).filter fun k => mine k.cid).foldl (fun s k => s.abortCopy here k) s
  (((s1.dropWork r mine).releaseSori r x false).dropTiles r x).emptyCtx r x

/-- The sori that a launch's contexts own between its steps are given up (R186, R414); an evicted launch holds no context. -/
def State.releaseAll (s : State) (l : Launch) : State :=
  if l.evicted && l.st == .accepted then s
  else l.seqs.foldl (fun s q => if (match SMap.find (s.region q.2.region).res q.2.x with | some _ => true | none => false) then s
    else s.releaseSori q.2.region q.2.x false) s

/-- One launch killed in this package; one that has ended but for its record stays as it ended. -/
def State.killOne (s : State) (here : Bool) (code lid : Nat) : State :=
  match s.launch lid with
  | none => s
  | some l =>
    if l.st = .ending then s
    else
      let s0 := (s.residentsOf lid).foldl (fun s e => s.killResident here e.1 e.2.1) (s.abortBarriers lid here)
      let s1 := s0.releaseAll l
      let sum (f : Sink → Nat) : Nat := ((l.saved.map fun v => f v.sink) ++ l.sinks.map fun k => f k.2).foldl (· + ·) 0
      s1.updLaunch lid fun l => { l with st := .ending, killed := some code, saved := [], evicted := false, sinks := [],
                                         seqs := if l.evicted && l.st == .accepted then [] else l.seqs,
                                         poison := l.poison + sum Sink.poison, stranded := l.stranded + sum Sink.stranded }

/-- Packets on their way to the queue from a launch of a family are queued before the kill, so that it reaches them too. -/
def State.queueKids (s : State) (l : List Nat) : State :=
  let mine (d : Delivery) : Bool := match d.parent with | some p => l.contains p | none => false
  let ds := s.pkg.sched.deliveries.filter mine
  ds.foldl State.deliverPacket (s.updSched fun k => { k with deliveries := k.deliveries.filter fun d => !mine d })

/-- A kill takes effect in this package: the launch and its children (R414). -/
def State.killAll (s : State) (lid code : Nat) (here : Bool) : State :=
  let s1 := s.queueKids (s.familyOf lid)
  (s1.familyOf lid).foldl (fun s k => s.killOne here code k) s1

/-- A kill begins here: its record is raised in a region, or enters the error log alone where the launch has none; it takes effect; and it is
sent to the other packages of the launch (R405, R414, R426). -/
def State.startKill (s : State) (lid code : Nat) (r : Option Nat) (k : Rec) : State :=
  let s1 := match r with
    | some n => s.raise n k
    | none => s.updPkg fun p => { p with errLog := p.errLog.push k }
  let others := match s.launch lid with | some l => l.pkgs.filter (· ≠ s.pkg.pkgId) | none => []
  others.foldl (fun s q => s.forward q (.kill lid code)) (s1.killAll lid code true)

/-- The kill record of a context's launch. -/
def State.killRec (s : State) (c code fcount : Nat) (addr : Option Nat) (key : Dword) (d1 : Nat) : Rec :=
  s.recOf c code 5 0xFF fcount addr key d1 0

/-- The launch of a context is killed with a record that names the context; a system configuration belongs to no launch. -/
def State.killCtx (s : State) (c code fcount : Nat) (addr : Option Nat) (key : Dword) : State :=
  s.startKill (s.lidOf c) code (some (regionOf c)) (s.killRec c code fcount addr key 0)

/-- The kills of the errors that reads have found in the cycle follow (R415): a launch that has ended but for its record is killed no more. -/
def State.killFound (s : State) : State :=
  s.pkg.found.foldl (fun s f =>
    match s.launch f.lid with
    | none => s
    | some l =>
      if l.st = .ending then s
      else match f.cid with
        | some c => s.startKill f.lid 0x2C (some (regionOf c)) { s.killRec c 0x2C f.fcount (some f.addr) f.key 0 with lid := f.lid, asid := l.asid }
        | none =>
          let at_ := l.seqs.head?.map fun q => mkCid q.2.region 0 q.2.x
          let k := s.killRec (at_.getD 0) 0x2C 0 (some f.addr) 0 0
          s.startKill f.lid 0x2C (at_.map regionOf) { k with source := if at_.isSome then k.source else 0, lid := f.lid, asid := l.asid })
    (s.updPkg fun p => { p with found := [] })

/-- KILL_PROPAGATION (R414, R416): a kill that began in another package takes effect here. -/
def execKillPropagation (lid code : Nat) (s : State) : Out := .next (s.killAll lid code false)

/-! ### HBM errors (R415) -/

/-- The read of an access at an address finds an uncorrectable error: its block is marked, and the launch of its context is killed. An access of a
system configuration, which has no launch, meets the marked block as any later read does (log entry 20). -/
def State.hbmError (s : State) (c fcount p : Nat) (key : Dword) : State :=
  if !isHbm p || s.isMarked p then s
  else
    let s1 := s.updPkg fun k => { k with marked := k.marked ++ [p / 64] }
    if s.lidOf c = 0 then s1 else s1.killCtx c 0x2C fcount (some p) key

/-- The copies at the heads of the queues of every region, with their regions. -/
def State.copyHeads (s : State) : List (Nat × CopyCmd) :=
  s.regions.flatMap fun g => g.2.copyQ.flatMap fun z => (z.2.cmds.take 1).map fun k => (g.1, k)

/-- HBMUE (R415): a read that a load, an atomic or a merge makes finds the error. `n` is a request and `lane` its access, which reads, or stores
less than its block; or `n` is a copy that moves pieces and `lane` the word of its present piece that is read, or 64 more, written where the
piece stores less than the block. Where `n` names neither, the error stands in block `lane` from now on, and the next read of it finds it. -/
def execHbmue (n lane : Nat) (s : State) : Out :=
  match s.req n with
  | some r =>
    (match (r.acc lane).bind fun a => a.pa.map fun p => (a, p) with
    | none => .next s
    | some (a, p) =>
      if a.over || !(a.op.reads || !r.covers (p / 64)) then .next s else .next (s.hbmError r.cid r.fcount p r.key))
  | none =>
    match s.copyHeads.find? fun e => e.2.id == n with
    | none => .next { s with hbmErrs := s.hbmErrs ++ [(s.cycle, lane)] }
    | some (r, k) =>
      if k.finished then .next s
      else
        let pl := s.piecePlaces r k
        match pl[lane % 64]? with
        | none => .next s
        | some w =>
          if 64 ≤ lane ∧ wholeIn pl w.2.1 then .next s
          else .next (s.hbmError k.cid k.fcount (if lane < 64 then w.1.1 else w.2.1) k.key)

/-! ### The configuration store and dynamic state (R417, R418) -/

/-- An error in the wire records of a configuration: the context id has 127 for its element. -/
def ofWires (c : Nat) : Bool := elemOf c == 127

/-- The event record of CFGECC for a context; an error in wire records has element 0 in its source. -/
def State.cfgRecord (s : State) (c : Nat) : State :=
  s.report (if ofWires c then mkCid (regionOf c) 0 (ctxOf c) else c) 0x83 4 0xFF 0 none 0

/-- The 64-byte blocks of the wire records of a region's residents. -/
def State.wireBlocks (s : State) (r : Nat) : Nat :=
  ((s.region r).res.map fun p => (8 * p.2.cfg.wires.length + 63) / 64).foldl (· + ·) 0

/-- The cycles from an error in the configuration store to the end of the check: the read, the writing at a block a cycle, and CFGSIG at two
cycles a block (R417). -/
def State.repairCycles (s : State) (c : Nat) : Nat := let n := if ofWires c then s.wireBlocks (regionOf c) else 15; 177 + 3 * n

/-- CFGECC (R417): an uncorrectable word in a context's record, or in the wire records of its configuration; the region is frozen from the next
cycle on. -/
def execCfgecc (c : Nat) (s : State) : Out :=
  if (s.res c).isNone || (s.region (regionOf c)).freeze.isSome || (95 < elemOf c && !ofWires c) then .next s
  else .next (s.updRegion (regionOf c) fun g => { g with freeze := some (c, s.cycle) })

/-- The record of a context's element; one that has none holds empty slots and rules (R63). -/
def State.recordOf (s : State) (c : Nat) : ElemRec :=
  ((s.res c).bind fun p => p.cfg.elems.find? fun e => e.elem = elemOf c).getD ⟨elemOf c, 0, 0, [], []⟩

/-- The copy of a record in the patch store cannot be read, or does not match its digest (R418). -/
def State.copyLost (s : State) (c : Nat) : Bool := s.badCopies.any fun e => decide (e.1 ≤ s.cycle) && e.2 == c

/-- A context's slots and rules written again from the copy of its record (R417, R429). The wire records have one home, which is their copy. -/
def State.reloadRecord (s : State) (c : Nat) : State :=
  if ofWires c then s else s.updCtx c fun k => { k with slots := (s.recordOf c).slots, rules := (s.recordOf c).rules }

/-- A context's record as it stands in the store, and its SM3 digest (R430): its registers' load values are those of the copy. -/
def State.storedDigest (s : State) (c : Nat) : List Byte :=
  sm3 { s.recordOf c with slots := (s.ctx c).slots, rules := (s.ctx c).rules }.bytes

/-- The digest kept at load of a context's record (R417, R430). -/
def State.keptDigest (s : State) (c : Nat) : List Byte := sm3 (s.recordOf c).bytes

/-- The region of a freeze thaws. -/
def State.thaw (s : State) (r : Nat) : State := s.updRegion r fun g => { g with freeze := none }

/-- CFGECC_THAW (R417, R418): the record, or all of the region's wire records, is written again and matches, and the region thaws with its event
record; or the copy cannot be read or does not match, the launch is killed, and the region thaws for the others. -/
def execCfgeccThaw (r : Nat) (readable : Bool) (s : State) : Out :=
  match (s.region r).freeze with
  | none => .next s
  | some (c, t) =>
    if readable then
      (if s.cycle < t + s.repairCycles c then .next s
       else
         let s1 := (s.reloadRecord c).thaw r
         if !s.copyLost c && s1.storedDigest c == s1.keptDigest c then .next (s1.cfgRecord c) else .next (s1.killCtx c 0x83 0 none 0))
    else if s.cycle ≤ t then .next s
    else .next ((s.thaw r).killCtx c 0x83 0 none 0)

/-- STATEECC (R418): an uncorrectable soft error in dynamic state kills the launch of the owning context. -/
def execStateecc (c : Nat) (s : State) : Out :=
  if (s.res c).isNone then .next s else .next (s.killCtx c 0x84 0 none 0)

end Sys2Proof.Machine
end

