-- ==== Sys2Proof/Machine/System.lean ====
section
/-! DEFINITION. Manifests and quotes (R437 to R439) and the ten system and trap instructions (R421 to R431). -/

namespace Sys2Proof.Machine

/-! ### Manifests (R437, R438) -/

/-- The code of a state of the time discipline (R374). -/
def Disc.code (d : Disc) : Nat := match d with | .free => 0 | .acquiring => 1 | .locked => 2 | .holdover => 3

/-- KEYSET: the enrolled keys in ascending order of their KEYID, concatenated (R434). -/
def Trust.keySet (t : Trust) : List Byte := (sortBy (fun a b => decide (natBE (sm3 a) < natBE (sm3 b))) t.keys).flatten

/-- A launch that runs in the package: loaded, and not evicted (R438, R439). -/
def State.runningLaunch (s : State) (lid : Nat) : Option Launch :=
  match s.launch lid with
  | some l => if l.st = .loaded ∧ !l.evicted then some l else none
  | none => none

/-- FLOORS: bit g is FLOOR of granted region g. -/
def State.floors (s : State) (l : Launch) : Nat :=
  natOfBits (fun g => match SMap.find l.seqs g with | some q => (s.region q.region).rfctl.getLsbD 16 | none => false) 256

/-- Fields 10 to 15 of a launch, from offset 304 on: 104 bytes. -/
def State.launchFields (s : State) (lid : Nat) : List Byte :=
  match s.runningLaunch lid with
  | none => List.replicate 104 0
  | some l =>
    bytesLE 4 lid ++ bytesLE 1 (bit01 l.pkt.keyed) ++ bytesLE 1 0 ++ bytesLE 2 0 ++ bytesLE 32 (s.floors l)
      ++ (match l.image with | some im => tagDigest im.cfgs ++ im.digest | none => List.replicate 64 0)

/-- Bytes 64 to 447 of the present manifest. -/
def State.manifestBody (s : State) (lid : Nat) : List Byte :=
  sm3 s.pkg.trust.fwRun ++ sm3 s.pkg.trust.keySet
    ++ ((rangeFrom 3 5).flatMap fun n => sm3 (Config.repairMap n s.pkg.trust.tests))
    ++ bytesLE 4 1050000 ++ bytesLE 4 12800 ++ bytesLE 8 s.pkg.time.disc.code ++ s.launchFields lid ++ List.replicate 40 0

/-- The present manifest of a launch, or of the package alone (R438). -/
def State.manifest (s : State) (lid : Nat) : List Byte :=
  let b := s.manifestBody lid
  bytesLE 4 0x464E414D ++ bytesLE 2 1 ++ bytesLE 2 0 ++ bytesLE 4 448 ++ bytesLE 4 0xFFFE ++ List.replicate 16 0 ++ sm3 b ++ b

/-- The fields of a manifest: number, offset, size (R437). -/
def maniFields : List (Nat × Nat × Nat) :=
  [(1, 64, 32), (2, 96, 32), (3, 128, 32), (4, 160, 32), (5, 192, 32), (6, 224, 32), (7, 256, 32), (8, 288, 8), (9, 296, 8), (10, 304, 4),
   (11, 308, 1), (12, 309, 1), (13, 312, 32), (14, 344, 32), (15, 376, 32)]

/-- A stored manifest passes its header checks (R437). -/
def maniSound (b : List Byte) : Bool :=
  leAt b 0 4 == 0x464E414D && leAt b 4 2 == 1 && leAt b 6 2 == 0 && leAt b 8 4 == 448
    && leAt b 12 4 % 2 == 0 && decide (leAt b 12 4 < 65536) && zeroAt b 16 16 && zeroAt b 310 2 && zeroAt b 408 40
    && sm3 ((b.take 448).drop 64) == sliceB b 32 32

/-- What MCMP gives for a stored manifest and a present one (R427). -/
def maniCompare (old new : List Byte) (lid : Nat) : Dword :=
  if !maniSound old then BitVec.allOnes 64
  else match maniFields.find? fun f => (lid ≠ 0 ∨ f.1 ≤ 9) && (leAt old 12 4).testBit f.1 && sliceB old f.2.1 f.2.2 != sliceB new f.2.1 f.2.2 with
    | some f => BitVec.ofNat 64 (f.1 + f.2.1 * 65536)
    | none => 0

/-! ### Quotes (R439) -/

/-- DEVID (R433). -/
def devId : List Byte := sm3 Config.identityKey

/-- The digests of the element records of a launch's resident configurations that have passed CFGSIG, in order. -/
def State.cfgDigest (s : State) (lid : Nat) : List Byte :=
  let ready (p : Resident) : Bool := match p.phase with
    | .loading _ => false | .running => true | .finished => true | .draining _ => true | .evicting => true
  sm3 (((s.residentsOf lid).filter fun e => lid ≠ 0 && ready e.2.2).flatMap fun e =>
    (sortBy (fun (a b : ElemRec) => decide (a.elem < b.elem)) e.2.2.cfg.elems).flatMap fun k => sm3 k.bytes)

/-- The SM2 identifier of a quote (R433). -/
def quoteIdent : List Byte := "AQ7716-QUOTE-V01".toList.map fun c => BitVec.ofNat 8 c.toNat

/-- A quote of 256 bytes for a nonce and a LID, and the count of quotes with it. -/
def State.quote (s : State) (nonce : List Byte) (named : Nat) : List Byte × State :=
  let lid := if (s.runningLaunch named).isSome then named else 0
  let n := s.pkg.trust.quotes + 1
  let b := bytesLE 4 0x544F5551 ++ bytesLE 2 1 ++ bytesLE 2 256 ++ bytesLE 4 lid ++ bytesLE 4 0 ++ bytesLE 8 s.now.toNat ++ bytesLE 8 n
    ++ sliceB nonce 0 32 ++ devId ++ sm3 s.pkg.trust.fwRun ++ sm3 (s.manifest lid) ++ s.cfgDigest lid
  (b ++ sliceB (Config.sm2Sign quoteIdent b) 0 64, s.updPkg fun p => { p with trust := { p.trust with quotes := n } })

/-! ### TRAP, TRET, CTXSW (R421 to R424) -/

/-- The context a target operand names, if it passes R421: every element of a context that holds a configuration can be one (R63). -/
def State.target (s : State) (w : Dword) : Option Nat :=
  let n := fld w 28 0
  let c := n % 2 ^ 18
  if n / 2 ^ 18 = s.pkg.pkgId ∧ regionOf c = regionOf s.cur.cid ∧ ctxOf c ≤ 3 ∧ elemOf c ≤ 95 ∧ (s.res c).isSome then some c else none

/-- TRAP: Fault(USER) (R422). -/
def execTrap (a : Src) (i : BitVec 8) (s : State) : Out := s.trap 0x02 none i.toNat (s.srcSca a).toNat

/-- TRET (R423). -/
def execTret (d : Dst) (a : Src) (c : BitVec 4) (s : State) : Out :=
  let w := s.srcSca a
  match s.target w with
  | none => s.trap 0x17
  | some t =>
    if c = 2 then
      (s.startKill (s.lidOf t) 0x85 (some (regionOf t)) (s.killRec t 0x85 0 none 0 (fld w 36 29))).finish 1 (s.write d (.sca 0) 0)
    else if (s.ctx t).ctl.trap.isNone then s.finish 1 (s.write d (.sca 1) 0)
    else (s.returnTrap t (c == 1)).finish 1 (s.write d (.sca 0) 0)

/-- The four ranks of a word, first to last. -/
def ranksOf (w : Nat) : List Nat := [w / 64 % 4, w / 16 % 4, w / 4 % 4, w % 4]
/-- They are a permutation of 0 to 3 (R94). -/
def rankPerm (l : List Nat) : Bool := (List.range 4).all l.contains

/-- RFCTL after a write of it all (R94): DLK is cleared by a 1, the ranks change only as a permutation, reserved bits stay zero. -/
def rfctlWrite (old w : Dword) : Dword :=
  let ranks := if rankPerm (ranksOf (fld w 15 8)) then fld w 15 8 else fld old 15 8
  BitVec.ofNat 64 (fld w 63 32 * 2 ^ 32 + fld w 31 31 * 2 ^ 31 + bit01 (old.getLsbD 30 && !w.getLsbD 30) * 2 ^ 30 + fld w 16 16 * 2 ^ 16
    + ranks * 2 ^ 8)

/-- The starvation counts of a region's contexts stand at 0, as they do while FLOOR is 1 (R82). -/
def State.noStarve (s : State) (r : Nat) : State :=
  { s with ctxs := s.ctxs.map fun k => (k.1, if regionOf k.1 = r then k.2.updCtl fun t => { t with starve := 0 } else k.2) }

/-- A write of CTXSW takes effect (R424): 0 .RANK, 1 .CTL, 2 .MC, 3 .FSCLR. -/
def State.ctlWrite (s : State) (r kind : Nat) (w : Dword) : State :=
  if kind = 0 then
    s.updRegion r fun g => if rankPerm (ranksOf (fld w 7 0)) then { g with rfctl := setRanks g.rfctl (ranksOf (fld w 7 0)) } else g
  else if kind = 1 then (if w.getLsbD 16 then s.noStarve r else s).updRegion r fun g => { g with rfctl := rfctlWrite g.rfctl w }
  else if kind = 2 then s.updRegion r fun g => { g with mcctl := BitVec.ofNat 64 (fld w 32 0) }
  else s.updCtx (fld w 28 0 % 2 ^ 18) fun k => k.updRegs fun x => { x with fstat := x.fstat &&& ~~~ BitVec.ofNat 32 (fld w 36 32) }

/-- CTXSW: the write takes effect from cycle c + 2. -/
def execCtxsw (a : Src) (c : BitVec 4) (s : State) : Out :=
  let w := s.srcSca a
  if c = 3 ∧ (s.target w).isNone then s.trap 0x17
  else (s.updRegion (regionOf s.cur.cid) fun g => { g with ctlLater := g.ctlLater ++ [(s.cycle + 2, c.toNat, w)] }).done

/-- The writes of CTXSW that are due in a region take effect, in order. -/
def State.applyCtl (s : State) (r : Nat) : State :=
  let due := (s.region r).ctlLater.filter fun e => decide (e.1 ≤ s.cycle)
  due.foldl (fun s e => s.ctlWrite r e.2.1 e.2.2)
    (s.updRegion r fun g => { g with ctlLater := g.ctlLater.filter fun e => !decide (e.1 ≤ s.cycle) })

/-! ### QSTOP (R425) -/

/-- The copy queue n of a region. -/
def State.copyQ (s : State) (r n : Nat) : CopyQ := SMap.get (s.region r).copyQ n {}
/-- Pool queue q of a region: q = 3 × sorus + queue. -/
def State.poolQ (s : State) (r q : Nat) : PoolQ := (s.node r (q / 3)).q (q % 3)

/-- Queue q of a region stands still. -/
def State.queueStopped (s : State) (r q : Nat) : Bool := if q < 12 then (s.poolQ r q).stopped (q % 3) else (s.copyQ r (q - 12)).stopped
/-- The stopping point of queue q. -/
def State.queueStat (s : State) (r q : Nat) : Dword := if q < 12 then (s.poolQ r q).stat (q % 3) else s.copyPoint r (q - 12)

/-- The stop code and the QSTOP mark of queue q changed. -/
def State.updStop (s : State) (r q : Nat) (f : Option Nat → Bool → Option Nat × Bool) : State :=
  if q < 12 then
    s.updNode r (q / 3) fun n => n.updQ (q % 3) fun z => { z with stop := (f z.stop z.qstop).1, qstop := (f z.stop z.qstop).2 }
  else
    s.updRegion r fun g => { g with copyQ := SMap.upd g.copyQ (q - 12) {} fun z =>
      { z with stop := (f z.stop z.qstop).1, qstop := (f z.stop z.qstop).2 } }

/-- The queues a mask names. -/
def namedQueues (w : Dword) : List Nat := (List.range 16).filter fun q => w.getLsbD q

/-- The named queues that nothing has stopped are to stop at their next boundary. -/
def State.stopQueues (s : State) (r : Nat) (w : Dword) : State :=
  (namedQueues w).foldl (fun s q => s.updStop r q fun k m => (k, m || k.isNone)) s

/-- Every named queue stands still. -/
def State.allStopped (s : State) (r : Nat) (w : Dword) : Bool := (namedQueues w).all (s.queueStopped r)

/-- The firing whose command queue q holds at its head: context, firing count, key; or that of the QSTOP. -/
def State.heldBy (s : State) (r q : Nat) : Nat × Nat × Dword :=
  let me := (s.cur.cid, s.firing.toNat, s.my.regs.kr)
  if q < 12 then (match (s.poolQ r q).cmds with | k :: _ => (k.cid, k.fcount, k.key) | [] => me)
  else match (s.copyQ r (q - 12)).cmds with | k :: _ => (k.cid, k.fcount, k.key) | [] => me

/-- A queue that QSTOP has stopped takes its code, and its stop is reported once (R407). -/
def State.tellStop (s : State) (r q : Nat) : State :=
  let new := if q < 12 then (s.poolQ r q).stop.isNone else (s.copyQ r (q - 12)).stop.isNone
  if new then
    let h := s.heldBy r q
    (s.updStop r q fun _ m => (some 0x86, m)).report h.1 0x86 2 (0x10 + q) h.2.1 none h.2.2 (s.queueStat r q).toNat
  else s

/-- The stopping points of the 16 queues, two lanes each. -/
def State.stopLanes (s : State) (r : Nat) : Vec :=
  Vec.ofList ((List.range 16).flatMap fun q => [(s.queueStat r q).setWidth 32, (s.queueStat r q >>> 32).setWidth 32])

/-- QSTOP: .STOP holds until every named queue has stopped; .GO restarts those that QSTOP stopped. -/
def execQstop (d : Dst) (a : Src) (c : BitVec 4) (s : State) : Out :=
  let r := regionOf s.cur.cid
  let w := s.srcSca a
  if c = 0 then
    let s1 := s.stopQueues r w
    if !s1.allStopped r w then .next s1
    else ((namedQueues w).foldl (fun s q => s.tellStop r q) s1).finish 1 ((vOf d).map fun k => .vec k (Mask.first 32) (s1.stopLanes r))
  else
    let go (k : Option Nat) (m : Bool) : Option Nat × Bool := if m then (if k = some 0x86 then none else k, false) else (k, m)
    ((namedQueues w).foldl (fun s q => s.updStop r q go) s).done

/-! ### ERRLOG (R426) -/

/-- Sixteen lanes from 64 bytes. -/
def recLanes (b : List Byte) : Vec := Vec.ofList ((List.range 16).map fun i => BitVec.ofNat 32 (leAt b (4 * i) 4))

/-- The granules of a range of the package's HBM, numbered by physical address. -/
def State.granules (s : State) (off n : Nat) : List Nat := rangeFrom (s.pkg.pkgId * 2 ^ 25 + off / 65536) (n / 65536)

/-- The declaration of a range is refused (R426). -/
def State.granBad (s : State) (off n : Nat) (dead : Bool) : Bool :=
  off % 65536 != 0 || n % 65536 != 0 || decide (2 ^ 41 < off + n)
    || (dead && (s.granules off n).any fun g => decide (0 < SMap.get s.pkg.xlat.tableGran g 0) || Config.inPatchStore (g % 2 ^ 25))

/-- A dead granule declared live: what it holds is open until written, since its refresh was elided (R270). -/
def State.wakeGran (s : State) (g : Nat) : State :=
  if s.pkg.dead.contains g then
    let s1 := s.revive 0 (65536 * g)
    { s1 with mem := memWrite s1.mem (65536 * g) ((List.range 65536).map fun i => Config.staleByte (65536 * g + i) s.free), free := s.free + 1 }
  else s

/-- ERRLOG. -/
def execErrlog (d : Dst) (a : Src) (c : BitVec 4) (s : State) : Out :=
  if c = 0 then
    match s.pkg.errLog.recs with
    | [] => s.finish 4 ((vOf d).map fun k => .vec k (Mask.first 16) ⟨[]⟩)
    | r :: t =>
      (s.updPkg fun p => { p with errLog := { p.errLog with recs := t } }).finish 4 ((vOf d).map fun k => .vec k (Mask.first 16) (recLanes r.bytes))
  else
    let off := (s.my.x (srcNo a)).toNat
    let n := (s.my.x (srcNo a + 1)).toNat
    if s.granBad off n (c == 2) then s.finish 200 (s.write d (.sca 5) 0)
    else
      let s1 := if c = 2 then s.updPkg fun p => { p with dead := p.dead ++ (s.granules off n).filter fun g => !p.dead.contains g }
        else (s.granules off n).foldl State.wakeGran s
      s1.finish 200 (s.write d (.sca 0) 0)

/-! ### MCMP, ATTEST (R427, R428) -/

/-- MCMP: a failure of its read is a precise trap, and the read waits for the migration of its page (R340). -/
def execMcmp (d : Dst) (a : Src) (s : State) : Out :=
  let c := s.cur.cid
  let va := (s.my.x (srcNo a)).toNat
  let lid := (s.my.x (srcNo a + 1)).toNat % 2 ^ 32
  match s.reach (s.asidOf c) false false va 448 with
  | .fail k v => s.trap k (some v)
  | .np v => s.trap 0x25 (some v)
  | .hold => .next s.waitTurn
  | .ok l =>
    match s.errIn false l with
    | some a => .next (s.findFor c s.firing.toNat a s.my.regs.kr).waitTurn
    | none =>
    match s.piecesCode c false l with
    | some k => (s.metCode k).trap k.1 (some (k.2 % 2 ^ 52))
    | none => (s.touch (s.asidOf c) false va 448).finish 141 (s.write d (.sca (maniCompare (s.readPieces l) (s.manifest lid) lid)) 0)

/-- ATTEST: the request enters the trust engine's queue of 16. -/
def execAttest (d : Dst) (a : Src) (s : State) : Out :=
  if 16 ≤ s.pkg.trust.attQ.length then .next s
  else
    let o := s.owe d
    let q : AttReq := { cid := s.cur.cid, va := (s.srcSca a).toNat, asid := s.asidOf s.cur.cid, due := s.cycle + 9999, pend := o.1,
                        out := s.outTag d, fcount := s.firing.toNat, key := s.my.regs.kr }
    (o.2.updPkg fun p => { p with trust := { p.trust with attQ := p.trust.attQ ++ [q] } }).done

/-- ATTEST_QUOTE_DONE (R428, R439): the request at the head of the queue: its nonce is read, and the quote stands in its buffer. -/
def execAttestQuoteDone (s : State) : Out :=
  match s.pkg.trust.attQ with
  | [] => .next s
  | q :: rest =>
    if s.cycle < q.due then .next s
    else
      let s1 := s.updPkg fun p => { p with trust := { p.trust with attQ := rest } }
      let fail (k v : Nat) : Out :=
        let p := s1.accPoison q.cid k q.fcount v q.key
        .next (p.2.deliverBad q.cid q.pend q.out 1 (s1.poison q.cid (BitVec.ofNat 48 q.fcount) k))
      let wait (v : Nat) : Out :=
        if q.reported then .next s
        else .next ((s.updPkg fun p => { p with trust := { p.trust with attQ := { q with reported := true } :: rest } }).report
          q.cid 0x25 2 0xFF q.fcount (some v) q.key)
      match s.reach q.asid false false q.va 64, s.reach q.asid false true (q.va + 64) 256 with
      | .fail k v, _ => fail k v
      | .ok _, .fail k v => fail k v
      | .np v, _ => wait v
      | .ok _, .np v => wait v
      | .hold, _ => .next s
      | .ok _, .hold => .next s
      | .ok l, .ok m =>
        match (s.errIn false l).orElse fun _ => s.errIn true m with
        | some a => .next (s.findFor q.cid q.fcount a q.key)
        | none =>
        match s.piecesCode q.cid false l, s.piecesCode q.cid true m with
        | some k, _ => fail k.1 (k.2 % 2 ^ 52)
        | none, some k => fail k.1 (k.2 % 2 ^ 52)
        | none, none =>
          let b := s.readPieces l
          let t := s1.quote (b.take 32) (leAt b 32 4)
          let s2 := ((t.2.touch q.asid false q.va 64).touch q.asid true (q.va + 64) 256).writePieces m t.1
          .next (match q.out with
            | some _ => s2.deliverWord q.cid q.pend q.out 1 true 1
            | none => s2.deliverWord q.cid q.pend none 1 false 256)

/-! ### CFGLD, CFGSIG, SYSRD (R429 to R431) -/

/-- The cycles to read an element record, and of CFGSIG over it (R432). -/
def cfgldCycles : Nat := 140 + 2 + 31

/-- CFGLD: the target's record is written again from its copy and checked; it is no candidate until then. A copy that cannot be read, or does not
match, kills the target's launch (R418). -/
def execCfgld (d : Dst) (a : Src) (s : State) : Out :=
  match s.target (s.srcSca a) with
  | none => s.trap 0x17
  | some t =>
    let s1 := (s.reloadRecord t).updCtx t fun k => k.updCtl fun x => { x with reload := s.cycle + cfgldCycles }
    if !s.copyLost t && s1.storedDigest t == s1.keptDigest t then s1.finish cfgldCycles (s.statusTo d 0)
    else
      let s2 := s1.killCtx t 0x83 0 none 0
      match d with
      | .out _ => s2.poisonTo d cfgldCycles (s.poisonNew d 0x83)
      | .x _ => s2.finish cfgldCycles (s.write d (.sca 1) 0)
      | .v _ => s2.done
      | .null => s2.done

/-- CFGSIG. -/
def execCfgsig (d : Dst) (a : Src) (c : BitVec 4) (s : State) : Out :=
  match s.target (s.srcSca a) with
  | none => s.trap 0x17
  | some t =>
    if c = 0 then s.finish 31 (s.write d (.sca (if s.storedDigest t = s.keptDigest t then 0 else 1)) 0)
    else s.finish 31 ((vOf d).map fun k => .vec k (Mask.first 8) (Vec.ofList (lanesOf (s.storedDigest t))))

/-- SYSRD: the sinks read as they stood as the cycle began (R7). -/
def execSysrd (d : Dst) (a : Src) (g : BitVec 4) (s : State) : Out :=
  let r := s.region (regionOf s.cur.cid)
  let w := s.srcSca a
  let give (x : Dword) : Out := s.finish 2 (s.write d (.sca x) 0)
  let k := match SMap.find r.sinksSeen (fld w 1 0) with | some k => k | none => SMap.get r.sinks (fld w 1 0) {}
  if g = 0 then (match s.target w with | none => s.trap 0x17 | some t => give ((s.ctx t).regs.fstat.setWidth 64))
  else if g = 1 then
    (if 383 < fld w 8 0 then s.trap 0x17
     else s.finish 4 ((vOf d).map fun v => .vec v (Mask.first 16) (recLanes (r.snap.getD (fld w 8 0) []))))
  else if g = 2 then give r.rfctl
  else if g = 3 then give r.mcctl
  else if g = 4 then give (BitVec.ofNat 64 (k.poison + k.stranded * 2 ^ 32))
  else if g = 5 then give (match k.origin with | some o => BitVec.ofNat 64 (o.1.toNat + o.2.1.toNat * 2 ^ 29) | none => 0)
  else give (BitVec.ofNat 64 (r.trapQ.length + r.lost % 65536 * 2 ^ 16))

end Sys2Proof.Machine
end

