-- ==== Sys2Proof/Machine/Links.lean ====
section
/-! DEFINITION. What happens to a context, a link and a region between firings: writebacks, timers, shared units, tokens on links, the
watchdog, multicast stalls and the trap queue (R80, R86 to R88, R95, R96, R100, R232 to R234, R404 to R406, R443). -/

namespace Sys2Proof.Machine

/-! ### Results and waits -/

/-- RESULT_WRITEBACK (R80): every result of a context that falls in this cycle, oldest firing first. -/
def execResultWriteback (c : Nat) (s : State) : Out := .next (s.updCtx c (Ctx.writeback · s.cycle))

/-- IDLE_EXPIRY (R100): the countdown has ended, and the context is a candidate again. -/
def execIdleExpiry (c : Nat) (s : State) : Out :=
  match (s.ctx c).ctl.wait with
  | .idle n => if n ≤ s.cycle then .next (s.updCtx c fun k => k.updCtl fun t => { t with wait := .none }) else .next s
  | .none => .next s
  | .resumed _ => .next s
  | .timew _ _ => .next s
  | .held _ _ => .next s

/-- A busy end that has passed. -/
def freeBy (now : Nat) (b : Option Nat) : Option Nat := match b with | some n => if n ≤ now then none else some n | none => none

/-- SHARED_UNIT_FREE (R128, R162, R379): the divider (0), the special-function unit (1) or the SM4 unit (2) of an element is free. -/
def execSharedUnitFree (e u : Nat) (s : State) : Out :=
  .next (s.updElem e fun x =>
    if u = 0 then { x with divBusy := freeBy s.cycle x.divBusy }
    else if u = 1 then { x with sfuBusy := freeBy s.cycle x.sfuBusy }
    else { x with sm4Busy := freeBy s.cycle x.sm4Busy })

/-! ### Links (R86 to R88, R232) -/

/-- A region stands frozen for a reload of its store (R417). -/
def Region.frozenAt (g : Region) (now : Nat) : Bool := match g.freeze with | some (_, t) => decide (t < now) | none => false

/-- No beat of a context moves: its region is frozen, or its configuration drains (R392, R417). -/
def State.beatsStop (s : State) (c : Nat) : Bool :=
  (s.region (regionOf c)).frozenAt s.cycle || (match s.res c with
    | some p => (match p.phase with | .draining _ => true | .loading _ => false | .running => false | .finished => false | .evicting => false)
    | none => false)

/-- The wires of an output. -/
def State.wiresOf (s : State) (c k : Nat) : List Wire :=
  match s.res c with | some p => p.cfg.wires.filter fun w => w.selem == elemOf c && w.sout == k | none => []

/-- The hops of a path between two elements of a region (R86). -/
def hops (a b : Nat) : Nat := if pinnaOf a = pinnaOf b then 1 else 3

/-- The context at the end of a wire of context c. -/
def wireEnd (c : Nat) (w : Wire) : Nat := mkCid (regionOf c) w.delem (ctxOf c)

/-- Tokens on their way to an input. -/
def State.inFlight (s : State) (dst inp : Nat) : Nat := (s.flight.filter fun f => f.dst == dst && f.inp == inp).length

/-- A receiver lets a token leave: its buffer has raised no stall, and what is in flight fits the buffer and the skid buffers. -/
def State.lets (s : State) (c : Nat) (w : Wire) : Bool :=
  let b := ((s.ctx (wireEnd c w)).buf w.din).length
  decide (b < 8 ∧ b + s.inFlight (wireEnd c w) w.din < 8 + hops (elemOf c) w.delem)

/-- A multicast channel's counts, by consumer in ascending source number. -/
def State.fan (s : State) (c k : Nat) : Fan :=
  match s.fans.find? fun f => f.src = c ∧ f.out = k with
  | some f => f
  | none => { src := c, out := k, taken := (s.wiresOf c k).foldl (fun m w => SMap.set m (wireEnd c w * 8 + w.din) 0) [], sent := 0 }

/-- Tokens the slowest consumer has taken. -/
def Fan.slowest (f : Fan) : Nat := (f.taken.map Prod.snd).foldl min f.sent

/-- The fan-out's store of 16 is full: the output register stays full (R232). -/
def Fan.full (f : Fan) : Bool := decide (f.slowest + 16 ≤ f.sent)

/-- The counts of a multicast channel replaced. -/
def State.setFan (s : State) (f : Fan) : State :=
  { s with fans := f :: s.fans.filter fun g => !(g.src = f.src ∧ g.out = f.out) }

/-- The output register of context c for link k holds a token that can leave. -/
def State.sendable (s : State) (c k : Nat) : Bool :=
  ((s.ctx c).outReg k).isSome && !s.beatsStop c
    && match s.wiresOf c k with
      | [] => false
      | w :: _ => if w.multi then !(s.fan c k).full else s.lets c w

/-- A token put on one wire: it becomes a head n + 1 or n + 3 cycles on (R87). -/
def State.fly (s : State) (c k : Nat) (t : Token) (w : Wire) : State :=
  let f : Flight := { id := s.pendNo, src := c, out := k, dst := wireEnd c w, inp := w.din,
                      at_ := s.cycle + t.beats + hops (elemOf c) w.delem, tok := t, multi := w.multi }
  { s with flight := s.flight ++ [f], pendNo := s.pendNo + 1 }

/-- The output register of a context empties onto its wires. Its space is seen from the next cycle on: until then it stays reserved (R78). -/
def State.sendTok (s : State) (c k : Nat) : State :=
  match (s.ctx c).outReg k with
  | none => s
  | some t =>
    let ws := s.wiresOf c k
    let s1 := match ws with
      | w :: _ => if w.multi then s.setFan { s.fan c k with sent := (s.fan c k).sent + 1 } else s
      | [] => s
    let s2 := ws.foldl (fun s w => s.fly c k t w) s1
    let gone : Pend := { id := s2.pendNo, due := some s.cycle, vs := [], xs := [], ps := [], os := [k], effs := [] }
    let s3 := (s2.pushPend c gone).updCtx c fun x => x.updCh fun h => { h with outr := SMap.del h.outr k, stall := SMap.del h.stall k }
    let s4 := s3.updElem (eidOf c) fun e => { e with rr := SMap.set e.rr k (ctxOf c), link := SMap.set e.link k (s.cycle + t.beats) }
    s4.updRegion (regionOf c) fun g => { g with moved := true }

/-- TOKEN_SEND (R86): a link that is free takes the token of the next context in rotation. -/
def execTokenSend (e k : Nat) (s : State) : Out :=
  let x := s.elem e
  if s.cycle < SMap.get x.link k 0 then .next s
  else
    let first := SMap.get x.rr k 4 + 1
    match ((List.range 5).map fun i => e * 8 + (first + i) % 5).find? fun c => s.sendable c k with
    | some c => .next (s.sendTok c k)
    | none => .next s

/-- A token as its receiver takes it: one of a reserved kind becomes POISON BADTOK (R83). Its origin is the producer and that one's present firing
count: DESIGN CHOICE, log entry 10. -/
def State.received (s : State) (f : Flight) : Token :=
  if 5 ≤ f.tok.kind.toNat then { s.poison f.src (s.ctx f.src).regs.fcount 0x40 with tag := f.tok.tag, emitter := f.src } else f.tok

/-- TOKEN_ARRIVAL (R87, R88): the last beat is in, and the buffer has room; tokens of one channel arrive in order. -/
def execTokenArrival (n : Nat) (s : State) : Out :=
  match s.flight.find? fun f => f.id = n with
  | none => .next s
  | some f =>
    let old := s.flight.any fun g => g.dst == f.dst && g.inp == f.inp && decide (g.id < n)
    if s.cycle + 1 < f.at_ || old || s.beatsStop f.dst || decide (8 ≤ ((s.ctx f.dst).buf f.inp).length) then .next s
    else
      let s1 : State := { s with flight := s.flight.filter fun g => g.id ≠ n }
      let s2 := s1.updCtx f.dst fun k => k.updCh fun h => { h with inb := SMap.upd h.inb f.inp [] (· ++ [s.received f]) }
      let s3 := if f.multi then
          s2.setFan { s2.fan f.src f.out with taken := SMap.upd (s2.fan f.src f.out).taken (f.dst * 8 + f.inp) 0 (· + 1) }
        else s2
      .next (s3.updRegion (regionOf f.dst) fun g => { g with moved := true })

/-! ### Watchdog (R95, R96) -/

/-- WDLIMIT as it acts (R94). -/
def wdLimit (w : Dword) : Nat := max 1024 (fld w 63 32)

/-- The contexts of a region's residents that hold a configuration. -/
def State.regionCtxs (s : State) (r : Nat) : List Nat := (s.region r).res.flatMap fun p => cidsOf r p.1 p.2.cfg

/-- The two conditions of R95 at the limit: a token is held, and a resident user context could go on. -/
def State.deadHolds (s : State) (r : Nat) : Bool :=
  let l := s.regionCtxs r
  (l.any fun c => !(s.ctx c).ch.outr.isEmpty || (s.ctx c).ch.inb.any fun b => !b.2.isEmpty)
    && (l.any fun c => decide (ctxOf c < 4) && !(s.ctx c).ctl.halted && (s.ctx c).ctl.trap.isNone)

/-- A context's record of the snapshot (R96). -/
def State.snapRec (s : State) (c : Nat) : List Byte :=
  let k := s.ctx c
  let occ := natOfBits (fun i => ((k.buf (i / 4)).length).testBit (i % 4)) 32
  let kinds := natOfBits (fun i => (match (k.buf (i / 3)).head? with | some t => t.kind.toNat | none => 7).testBit (i % 3)) 24
  let outs := natOfBits (fun i => (k.outReg i).isSome) 8
  let busy := natOfBits k.busyP 128
  bytesLE 16 k.regs.p.toNat ++ bytesLE 16 busy ++ bytesLE 4 occ ++ bytesLE 3 kinds ++ bytesLE 1 outs
    ++ bytesLE 1 (bit01 k.ctl.halted + 2 * bit01 k.ctl.trap.isSome + 4 * bit01 (s.res c).isSome) ++ bytesLE 6 k.regs.fcount.toNat
    ++ bytesLE 17 0

/-- The snapshot of a region: 384 records, element-major. -/
def State.snapshot (s : State) (r : Nat) : List (List Byte) :=
  (List.range 384).map fun i => s.snapRec (mkCid r (i / 4) (i % 4))

/-- DEADLOCK (R95, R96): the count has reached its limit. -/
def execDeadlock (r : Nat) (s : State) : Out :=
  let g := s.region r
  if !g.rfctl.getLsbD 31 || g.rfctl.getLsbD 30 || decide (g.wdCount < wdLimit g.rfctl) then .next s
  else if !s.deadHolds r then .next (s.updRegion r fun g => { g with wdCount := 0 })
  else
    let k := { s.recOf (mkCid r 0 0) 0x80 4 0xFF 0 none 0 (fld g.rfctl 63 32) 0 with lid := 0, asid := 0 }
    .next ((s.updRegion r fun g => { g with wdCount := 0, rfctl := putBit g.rfctl 30 true, snap := s.snapshot r }).raise r k)

/-! ### Multicast stalls (R233, R234) -/

/-- MCLIMIT as it acts (R233). -/
def mcLimit (w : Dword) : Nat := max 256 (fld w 31 0)
/-- A count that has raised its event stands here until the register empties. -/
def stallRaised : Nat := 2 ^ 40

/-- Output k of a context is held full by its multicast channel. -/
def State.heldFull (s : State) (c k : Nat) : Bool :=
  ((s.ctx c).outReg k).isSome && (match s.wiresOf c k with | w :: _ => w.multi | [] => false) && (s.fan c k).full

/-- The stall counts of a context at the end of a cycle. -/
def State.countStalls (s : State) (c : Nat) : State :=
  let next (m : SMap Nat) (k : Nat) : SMap Nat :=
    if s.heldFull c k then (if SMap.get m k 0 < stallRaised then SMap.upd m k 0 (· + 1) else m) else SMap.del m k
  let l := (List.range 8).foldl next (s.ctx c).ch.stall
  if l = (s.ctx c).ch.stall then s else s.updCtx c fun x => x.updCh fun h => { h with stall := l }

/-- MCAST_STALL (R234): the event names the producer, its output, and the slowest consumer. -/
def execMcastStall (c k : Nat) (s : State) : Out :=
  let w := (s.region (regionOf c)).mcctl
  let n := SMap.get (s.ctx c).ch.stall k 0
  if !w.getLsbD 32 || decide (n < mcLimit w) || decide (stallRaised ≤ n) then .next s
  else
    let f := s.fan c k
    match f.taken.find? fun e => e.2 = f.slowest with
    | none => .next s
    | some e =>
      let d := k + (s.source (e.1 / 8)).toNat * 2 ^ 32 + e.1 % 8 * 2 ^ 61
      .next ((s.updCtx c fun x => x.updCh fun h => { h with stall := SMap.set h.stall k stallRaised }).report c 0x81 4 0xFF 0 none 0 d)

/-! ### The trap queue (R404 to R406) -/

/-- What orders records (R419). -/
def Rec.order (k : Rec) : Nat × Nat × Nat := (k.time.toNat, k.source, k.seq)

/-- One record tries to enter a region's queue of 64, in its place there (R419); a record of kinds 0, 1 or 5 waits, another is lost (R405). -/
def Region.takeIn (g : Region) (k : RecIn) : Region :=
  if g.trapQ.length < 64 then { g with trapQ := placeBy Rec.order k.rec_ g.trapQ }
  else if k.rec_.kind ≤ 1 ∨ k.rec_.kind = 5 then { g with trapIn := g.trapIn ++ [k] }
  else { g with lost := g.lost + 1 }

/-- Context c waits at a page that is not present, with an access or a quote: what tells of it must not wait behind it (log entry 20). -/
def State.atAbsent (s : State) (c : Nat) : Bool :=
  (s.reqs.any fun q => q.cid == c && q.stopped) || s.pkg.trust.attQ.any fun q => q.cid == c && q.reported

/-- A record is not delivered yet: it tells of a precise trap, and writebacks of its context's earlier firings have still to happen (R92; log entry
20). -/
def State.recStays (s : State) (k : Rec) : Bool :=
  k.kind == 0 && s.writesDue (k.source % 2 ^ 18) && !s.atAbsent (k.source % 2 ^ 18)

/-- The records of earlier cycles enter the queue. -/
def State.takeInRecs (s : State) (r : Nat) : State :=
  let enters (k : RecIn) : Bool := decide (k.cycle < s.cycle)
  s.updRegion r fun g =>
    let l := sortBy (fun (a b : RecIn) => keyLess a.rec_.order b.rec_.order) (g.trapIn.filter enters)
    l.foldl Region.takeIn { g with trapIn := g.trapIn.filter fun k => !enters k }

/-- The tokens of the trap channel that arrive: in7 of context S of P0.C0, or the control port where that context has gone (R404, R406). -/
def State.landRecs (s : State) (r : Nat) : State :=
  let h := mkCid r 6 4
  let due := (s.region r).trapOut.filter fun e => decide (e.1 ≤ s.cycle)
  due.foldl (fun s e =>
      if (s.res h).isNone then s.toPort e.2.bytes
      else s.updCtx h fun k => k.updCh fun c => { c with inb := SMap.upd c.inb 7 [] (· ++ [{ e.2.token with sys := true, emitter := h }]) })
    (s.updRegion r fun g => { g with trapOut := g.trapOut.filter fun e => !decide (e.1 ≤ s.cycle) })

/-- The head of the queue leaves it, for the trap channel or for the control port, once it may be delivered. -/
def State.releaseRec (s : State) (r : Nat) : State :=
  let g := s.region r
  match g.trapQ with
  | [] => s
  | k :: t =>
    let s1 := s.updRegion r fun g => { g with trapQ := t }
    if s.recStays k then s
    else if s.viaPort r k then s1.toPort k.bytes
    else if ((s.ctx (mkCid r 6 4)).buf 7).length + g.trapOut.length < 8 then
      s1.updRegion r fun g => { g with trapOut := g.trapOut ++ [(s.cycle + 4, k)] }
    else s

/-- TRAP_QUEUE_DELIVERY (R405): records enter, the head leaves, and its token arrives 5 cycles later. -/
def execTrapQueueDelivery (r : Nat) (s : State) : Out :=
  let s1 := s.takeInRecs r
  if (s.region r).frozenAt s.cycle then .next s1 else .next ((s1.landRecs r).releaseRec r)

/-- TRAPREC (R443): the records that wait leave as unsolicited frames, with SEQ 0, on the primary port while its link is up. -/
def execTraprec (s : State) : Out :=
  let port := if s.pkg.port.linkUp then 0 else 1
  let frame (b : List Byte) : FrameOut := { port, cmd := 0x80, seq := 0, time := s.now, status := 0, payload := b }
  .next (s.updPkg fun p => { p with port := { p.port with sent := p.port.sent ++ p.port.pending.map frame, pending := [] } })

end Sys2Proof.Machine
end

