-- ==== Sys2Proof/Machine/Replay.lean ====
section
/-! DEFINITION. The end of a migration (R340 steps 3 and 4, R341, R342): what the nodes of the old frame refused goes again against the new one. -/

namespace Sys2Proof.Machine

/-- A refused access issued again, against the new frame (R341). -/
def State.reissue (s : State) (e : Xev) (r : Req) (a : Acc) : Acc :=
  let new := frameOf e.arg
  if a.st = .flight ∧ a.inFrame e.oldBase e.kind.moves then
    { a with pa := a.pa.map (fun p => new + (p - e.oldBase)), kslot := leafSlot e.arg, due := s.cycle + s.latency (regionOf r.cid) new }
  else a

/-- Every refused access of a port issued again. -/
def State.reissueAll (s : State) (e : Xev) : State :=
  { s with reqs := s.reqs.map fun r : Req => ({ r with accs := r.accs.map (s.reissue e r) } : Req) }

/-- The range of this package's memory that a message's access names. -/
def flitRange (m : FabMsg) : Nat × Nat :=
  match m with
  | .store pa _ b _ _ => (pa, b.length)
  | .load pa _ n _ _ _ => (pa, n)
  | _ => (0, 0)

/-- The range that a refused access of the control node or of another package names. -/
def Retry.range (r : Retry) : Nat × Nat :=
  match r with | .read _ pa n => (pa, n) | .write _ pa b => (pa, b.length) | .flit m => flitRange m | .sysload _ pa n _ _ _ => (pa, n)

/-- Some of a frame's bytes are among pieces. -/
def inFrame (base n : Nat) (l : List (Nat × Nat × Nat)) : Bool := l.any fun p => meets p.1 p.2.2 base n

/-- A copy at the head of a queue has a piece to move that touches the old frame. -/
def State.copyRefused (s : State) (r : Nat) (z : CopyQ) (base n : Nat) : Bool :=
  match z.cmds with
  | [] => false
  | k :: _ => decide (s.copyWants r z k = .move) && (s.pieceNames r k).any fun p =>
      decide (base ≤ p.1.1 ∧ p.1.1 < base + n) || decide (base ≤ p.2.1 ∧ p.2.1 < base + n)

/-- A drain's tile write that is due touches the new frame. -/
def State.writeRefused (s : State) (r so base n : Nat) : Bool :=
  let m := s.node r so
  match m.tileWrites, m.dq.cmds, (m.tileWrites.head?).bind fun w => s.tile r w.tile with
  | w :: _, k :: _, some t =>
    let pl := s.redirected [(s.vaultKey (vaultVa r t.offset), 0, w.bytes.length)]
    s.writeDue r so w k pl && inFrame base n pl
  | _, _, _ => false

/-- An engine's, the control node's or another package's access that a migration refused has still to perform on the new frame (R341). -/
def State.refusedLeft (s : State) (e : Xev) : Bool :=
  let n := e.kind.moves
  let new := frameOf e.arg
  (s.pkg.retries.any fun t => meets t.range.1 t.range.2 e.oldBase n)
    || s.regions.any fun g =>
      (g.2.copyQ.any fun z => s.copyRefused g.1 z.2 e.oldBase n)
        || (g.2.gather.any fun x => s.rowDue g.1 x && inFrame new n (s.rowPieces g.1 x))
        || g.2.nodes.any fun m => s.writeRefused g.1 m.1 new n

/-- MIGRATE_REPLAY (R340 steps 3 and 4, R341): the stale entries stand repatched to the new frame, and in the same cycle the refused accesses go
again against it, ahead of every later request of their ports; those of engines, of the control node and of other packages find the new frame as
well (State.redirect). Once every one has performed, the old frame is retired and the event is done. -/
def execMigrateReplay (n : Nat) (s : State) : Out :=
  match s.xev n with
  | none => .next s
  | some e =>
    match e.stage with
    | .replay at_ =>
      if s.cycle < at_ ∨ !e.acks.isEmpty then .next s
      else if e.mark = 0 then
        .next (((s.repatchWhat e.asid e.range.1 e.range.2 2).reissueAll e).updXev n fun x => { x with mark := s.reqNo + 1, stage := .replay (s.cycle + 2) })
      else if (s.reqs.any fun r => r.accs.any fun a => (a.st = .flight && a.inFrame e.oldBase e.kind.moves)
          || (decide (r.id < e.mark) && !a.atRest && a.inFrame (frameOf e.arg) e.kind.moves)) || s.refusedLeft e then .next (s.reissueAll e)
      else .next ((s.updXlat fun x => { x with retired := (e.oldBase, e.kind.moves) :: cutRange e.oldBase e.kind.moves x.retired }).updXev n
        fun x => { x with stage := .done (s.cycle + 1) })
    | .sent _ => .next s
    | .queued => .next s
    | .inval _ => .next s
    | .acked _ => .next s
    | .frozen _ => .next s
    | .copied _ => .next s
    | .settle _ => .next s
    | .done _ => .next s

end Sys2Proof.Machine
end

