-- ==== Sys2Proof/Machine/Port.lean ====
section
/-! DEFINITION. The control port and its commands (R434 to R436, R439, R440, R442 to R445), the bring-up steps (R451), the fabric (R448), the
time discipline (R449) and the power event (R450). -/

namespace Sys2Proof.Machine

/-! ### Frames (R442, R443, R451) -/

/-- One bit of CRC-32C, least significant bit first. -/
def crcStep (c : BitVec 32) : BitVec 32 := if c.getLsbD 0 then (c >>> 1) ^^^ 0x82F63B78#32 else c >>> 1
/-- CRC-32C of a byte string. -/
def crc32c (l : List Byte) : BitVec 32 :=
  ~~~ l.foldl (fun c b => (List.range 8).foldl (fun c _ => crcStep c) (c ^^^ b.setWidth 32)) (BitVec.allOnes 32)

/-- The zeros that fill a payload up to a multiple of 32 bytes. -/
def framePad (n : Nat) : List Byte := List.replicate ((n + 31) / 32 * 32 - n) 0

/-- The header of a frame with its CRC field as given. -/
def frameHead (cmd flags : Nat) (seq : BitVec 32) (len : Nat) (time : Dword) (status crc : Nat) : List Byte :=
  bytesLE 4 0x4E4F4C44 ++ bytesLE 2 cmd ++ bytesLE 2 flags ++ bytesLE 4 seq.toNat ++ bytesLE 4 len ++ bytesLE 8 time.toNat ++ bytesLE 4 status
    ++ bytesLE 4 crc

/-- A frame the device sends, byte by byte; the CRC is that of the header and the payload's LEN bytes. -/
def FrameOut.bytes (f : FrameOut) : List Byte :=
  let head (crc : Nat) : List Byte := frameHead f.cmd 1 f.seq f.payload.length f.time f.status crc
  head (crc32c (head 0 ++ f.payload)).toNat ++ f.payload ++ framePad f.payload.length

/-- The commands a bring-up step allows. -/
def cmdAllowed (step cmd : Nat) : Bool :=
  if step = 1 then false
  else if step = 2 then [1, 2, 3].contains cmd
  else if step ≤ 5 then [1, 2, 3, 0x36].contains cmd
  else if step = 6 then [1, 2, 3, 0x36, 4].contains cmd
  else if step = 7 then !([0x10, 7, 4].contains cmd)
  else cmd != 4

/-- A command executes: not again if its SEQ is held or under way, and only where the bring-up state allows it. -/
def State.command (s : State) (fr : Frame) (cmd : Nat) (run : State → State) : Out :=
  if (s.heldResp fr.seq).isSome then .next (s.answer fr cmd 0 [])
  else match s.pkg.port.sysloads.find? fun e => e.1.seq = fr.seq with
    | some e => .next (s.updPkg fun p => { p with port := { p.port with sysloads := p.port.sysloads ++ [(fr, e.2)] } })
    | none => .next (if cmdAllowed s.pkg.bring.step cmd then run s else s.respond fr cmd 2 [])

/-- STATUS OK, BADARG and REJECTED with no payload. -/
def State.ok (s : State) (fr : Frame) (cmd : Nat) : State := s.respond fr cmd 0 []
/-- BADARG. -/
def State.badArg (s : State) (fr : Frame) (cmd : Nat) : State := s.respond fr cmd 3 []
/-- REJECTED. -/
def State.rejected (s : State) (fr : Frame) (cmd : Nat) : State := s.respond fr cmd 4 []

/-- The trust engine changed. -/
def State.updTrust (s : State) (f : Trust → Trust) : State := s.updPkg fun p => { p with trust := f p.trust }
/-- The time discipline changed. -/
def State.updTime (s : State) (f : Time → Time) : State := s.updPkg fun p => { p with time := f p.time }
/-- The bring-up state changed. -/
def State.setBring (s : State) (b : Bring) : State := s.updPkg fun p => { p with bring := b }

/-- The name of a bring-up step as IDENT gives it: 0 none, 1 FW, 2 TRAIN, 3 ID, 4 NET, 5 RUN. -/
def stepName (n : Nat) : Nat := if n = 1 then 0 else if n = 2 then 1 else if n ≤ 5 then 2 else if n = 6 then 3 else if n = 7 then 4 else 5

/-- IDENT: DEVID, form letter, package id, bring-up state and discipline state, in this order (log entry 15). -/
def execIdent (fr : Frame) (s : State) : Out :=
  s.command fr 1 fun s => s.respond fr 1 0 (devId ++ [Config.form] ++ bytesLE 2 s.pkg.pkgId ++ bytesLE 1 (stepName s.pkg.bring.step)
    ++ bytesLE 1 s.pkg.time.disc.code)

/-- A firmware image verifies under the firmware root with the identifier of images (R433, R435). -/
def firmwareValid (img : List Byte) : Bool :=
  let p := Config.firmwareParts img
  Config.sm2Verify Config.krabetricKey imageIdent (sm3 p.1) p.2.1 p.2.2

/-- FWLOAD: the image is verified at once, and stands for the next reset (R435). One longer than a payload has no frame (R442). -/
def execFwload (fr : Frame) (img : List Byte) (s : State) : Out :=
  s.command fr 2 fun s =>
    if 1048576 < img.length then s.respond fr 2 1 []
    else if firmwareValid img then (s.updTrust fun t => { t with fwNext := img }).ok fr 2 else s.rejected fr 2

/-- The machine after a full reset (R443): that of State.reset at bring-up step 2, but for the firmware loaded, the count of resets, what the
control port and the fabric have sent, the regions withdrawn until the next repair window (R440), and the model's own fields (log entry 15). -/
def State.fullReset (s : State) : State :=
  let p := s.pkg
  { State.reset with
    pkg := { bring := { step := 2 }, trust := { fwNext := p.trust.fwNext, resets := p.trust.resets + 1, draws := p.trust.draws, tests := p.trust.tests },
             port := { linkUp := p.port.linkUp, resp := p.port.resp, sent := p.port.sent }, fabric := { sent := p.fabric.sent } },
    regions := (s.regions.filter fun g => g.2.withdrawn).map fun g => (g.1, { withdrawn := true }),
    env := s.env, vaultErrs := s.vaultErrs, hbmErrs := s.hbmErrs, badCopies := s.badCopies, cycle := s.cycle, free := s.free, pendNo := s.pendNo, reqNo := s.reqNo }

/-- RESET. -/
def execReset (fr : Frame) (s : State) : Out := s.command fr 3 fun s => (s.ok fr 3).fullReset

/-- SETPKG: the package id, and fabric training follows (R451). -/
def execSetpkg (fr : Frame) (id : Nat) (s : State) : Out :=
  s.command fr 4 fun s =>
    if 2048 ≤ id then s.badArg fr 4
    else ((s.updPkg fun p => { p with pkgId := id }).setBring { step := 7 }).ok fr 4

/-- ROUTE: a table of 2,048 masks of 48 ports (R448). -/
def execRoute (fr : Frame) (ents : List Nat) (s : State) : Out :=
  s.command fr 5 fun s =>
    if ents.length ≠ 2048 ∨ ents.any (fun e => decide (2 ^ 48 ≤ e)) then s.respond fr 5 1 []
    else if Config.fabricFar ents then s.badArg fr 5
    else (s.updPkg fun p => { p with fabric := { p.fabric with route := ents } }).ok fr 5

/-- TMASTER (R449). -/
def execTmaster (fr : Frame) (id : Nat) (s : State) : Out :=
  s.command fr 6 fun s => if 2048 ≤ id then s.badArg fr 6 else (s.updTime fun t => { t with tmaster := some id }).ok fr 6

/-! ### Host-visible memory (R436, R443) -/

/-- Where an access of the control node goes: a page that is being moved has its new frame once the leaf is remapped (R340, R341). -/
def State.hostAt (s : State) (a : Nat) : Nat := (s.redirect (a, 0)).1

/-- A byte of HBM as the control node sees it: ciphertext where its block was stored under a key; what a granule that is not live holds is
open. -/
def State.rawByte (s : State) (pa : Nat) : Byte :=
  let a := s.hostAt pa
  let b := a / 64
  if !s.granLive a then Config.staleByte a s.free
  else if s.blockTag b = 0 then memGet s.mem a
  else (cipherBlock (s.blockTag b) b (memRead s.mem (64 * b) 64)).getD (a % 64) 0

/-- The bytes of a 64-byte block as the control node sees them. -/
def State.rawBlock (s : State) (b : Nat) : List Byte := (rangeFrom (64 * b) 64).map s.rawByte

/-- An address is out of the control node's reach: a table granule, the patch store, a vault frame (R443); a retired frame, whose accesses
are not applied (R342, log entry 15). -/
def State.hostBars (s : State) (pa : Nat) : Bool :=
  let a := s.hostAt pa
  !isHbm pa || !isHbm a || s.isTable a || s.isRetired a || Config.inPatchStore (a % 2 ^ 41 / 65536)

/-- A range is out of reach at some byte, granule by granule. -/
def State.hostBarred (s : State) (a n : Nat) : Bool :=
  (rangeFrom (a / 65536) ((a + n - 1) / 65536 + 1 - a / 65536)).any fun g => s.hostBars (65536 * g)

/-- A migration has frozen a byte of a range: an access waits for the replay (R340, R341). -/
def State.rangeFrozen (s : State) (a n : Nat) : Bool :=
  (rangeFrom (a / 65536) ((a + n - 1) / 65536 + 1 - a / 65536)).any fun g => s.isFrozen (65536 * g)

/-- An access that a freeze has refused is tried again in the next cycle. -/
def State.again (s : State) (i : Retry) : State := s.updPkg fun p => { p with retries := p.retries ++ [i] }

/-- The errors that a read of some bytes by an agent of no launch finds: their blocks are marked (R415). -/
def State.findAll (s : State) (pa n : Nat) : State :=
  if s.hbmErrs.isEmpty then s
  else ((blocksOf (s.redirected [(pa, 0, n)])).filter s.latentErr).foldl (fun s a => s.findErr 0 none 0 a 0) s

/-- Bytes of one block written by the control node: its block holds what that node sees from then on. A write of part of a block reads the rest,
and one of a marked block is discarded (R415). -/
def State.rawPut (s : State) (pa : Nat) (l : List Byte) : State :=
  let a := s.hostAt pa
  if l.length < 64 ∧ s.latentErr a then s.findErr 0 none 0 a 0
  else if s.isMarked a ∧ l.length < 64 then s
  else
    let s0 := (s.revive 0 a).updPkg fun p => { p with marked := p.marked.filter (· ≠ a / 64) }
    let b := a / 64
    if s0.blockTag b = 0 then { s0 with mem := memWrite s0.mem a l }
    else { s0 with mem := memWrite (memWrite s0.mem (64 * b) (s0.rawBlock b)) a l, pkg := { s0.pkg with encTag := SMap.del s0.pkg.encTag b } }

/-- A long write of the control node, block by block. -/
def State.rawWrite (s : State) : Nat → Nat → List Byte → State
  | 0, _, _ => s
  | f + 1, a, l => if l.isEmpty then s else
    let k := min l.length (64 - a % 64)
    (s.rawPut a (l.take k)).rawWrite f (a + k) (l.drop k)

/-- MEMRD: it waits while a migration has frozen some of its bytes. -/
def execMemrd (fr : Frame) (pa len : Nat) (s : State) : Out :=
  if len ≠ 0 ∧ len ≤ 2 ^ 20 ∧ s.rangeFrozen pa len then .next (s.again (.read fr pa len))
  else s.command fr 0x20 fun s =>
    if 2 ^ 20 < len then s.badArg fr 0x20
    else if len ≠ 0 ∧ s.hostBarred pa len then s.rejected fr 0x20
    else { (s.findAll pa len).respond fr 0x20 0 ((rangeFrom pa len).map s.rawByte) with free := s.free + 1 }

/-- MEMWR: acknowledged once performed. With its address it is no longer than a payload (R442). -/
def execMemwr (fr : Frame) (pa : Nat) (bytes : List Byte) (s : State) : Out :=
  if bytes.length ≠ 0 ∧ s.rangeFrozen pa bytes.length then .next (s.again (.write fr pa bytes))
  else s.command fr 0x21 fun s =>
    if 1048568 < bytes.length then s.respond fr 0x21 1 []
    else if bytes.length ≠ 0 ∧ s.hostBarred pa bytes.length then s.rejected fr 0x21
    else (s.rawWrite (bytes.length / 64 + 2) pa bytes).ok fr 0x21

/-! ### Images, launches, contexts -/

/-- A context S emptied for a new system image (R445). -/
def State.emptySys (s : State) (r : Nat) : State :=
  let s1 := (s.dropWork r fun c => regionOf c == r && ctxOf c == 4).dropTiles r 4 |>.emptyCtx r 4
  s1.updPkg fun p => { p with allocs := p.allocs.filter fun a => !(a.lid == 0 && a.region == r) }

/-- Context S of a region is halted, and its configuration runs no further step. -/
def State.haltSys (s : State) (r : Nat) : State :=
  let mine := s.ctxs.filter fun k => regionOf k.1 == r && ctxOf k.1 == 4
  let s1 := mine.foldl (fun s k => s.updCtx k.1 fun x => x.updCtl fun t => { t with halted := true }) s
  s1.updSched fun d => { d with sys := SMap.del d.sys r }

/-- A writeback or an issued access of context S of a region is still to come (R445). -/
def State.sysPending (s : State) (r : Nat) : Bool :=
  (s.ctxs.any fun k => regionOf k.1 == r && ctxOf k.1 == 4 && s.writesDue k.1)
    || s.reqs.any fun q => regionOf q.cid == r && ctxOf q.cid == 4 && q.issued && !q.over

/-- The regions of a mask of 32 bytes, ascending. -/
def maskRegions (m : Nat) : List Nat := (List.range 256).filter fun r => m.testBit r

/-- A system image that passed takes its regions (R445). -/
def State.placeSys (s : State) (fr : Frame) (asid : Nat) (im : Image) (rs : List Nat) : State :=
  let vault (g : Nat) : Nat := rs.getD g 0
  let s1 := rs.foldl State.emptySys s
  let s2 := im.data.foldl (fun s d => s.writeData 0 asid [] vault d) s1
  let pairs := (List.range rs.length).map fun g => (g, vault g)
  let run (e : Nat × Nat) : SysRun :=
    let q : RegSeq := { region := e.2, x := 4, pos := none, phase := none, queues := [], since := [] }
    { seq := q.at im e.1 (im.start e.1), asid := asid, g := e.1, image := im }
  let s3 := s2.updSched fun d => { d with sys := pairs.foldl (fun m e => SMap.set m e.2 (run e)) d.sys }
  let s4 := (s3.patchImage 0 asid [] im (pairs.map fun e => (e.1, e.2, (run e).seq))).shareAsid asid
  let wait := (pairs.filter fun e => (im.start e.1).isSome).map Prod.snd
  if wait.isEmpty then s4.ok fr 7
  else s4.updPkg fun p => { p with port := { p.port with sysloads := p.port.sysloads ++ [(fr, wait)] } }

/-- SYSLOAD (R445): the contexts it replaces are halted first, and their pending writebacks complete. An image that cannot be read is refused as a
launch's is (log entry 11). -/
def execSysload (fr : Frame) (pa len asid flags regs : Nat) (s : State) : Out :=
  if len ≠ 0 ∧ len ≤ 2 ^ 32 ∧ s.rangeFrozen pa len then .next (s.again (.sysload fr pa len asid flags regs))
  else s.command fr 7 fun s =>
    if 2 ≤ flags ∨ 4096 ≤ asid ∨ 2 ^ 32 < len ∨ 2 ^ 256 ≤ regs then s.badArg fr 7
    else if len ≠ 0 ∧ s.hostBarred pa len then s.rejected fr 7
    else
      let rs := maskRegions regs
      let l := s.redirected [(pa, 0, len)]
      let wait (s : State) : State := s.again (.sysload fr pa len asid flags regs)
      if let some a := s.errIn false l then wait (s.findErr 0 none 0 a 0)
      else if (s.piecesCode 4 false l).isSome then s.respond fr 7 4 (({ code := 1 } : LoadErr).bytes 0 s.now)
      else
      let b := s.readPieces l
      match imageErr ⟨true, false, rs.length, s.pkg.trust.keys, fun _ => false⟩ b with
      | some e => s.respond fr 7 4 (e.bytes (BitVec.ofNat 64 (leAt b 8 8)) s.now)
      | none =>
        if flags = 0 ∧ rs.any (fun r => SMap.has (s.region r).res 4) then s.respond fr 7 2 []
        else if rs.any s.sysPending then wait (rs.foldl State.haltSys s)
        else if (imageOf b).data.any (s.dataWaits asid [] fun g => rs.getD g 0) then wait s
        else s.placeSys fr asid (imageOf b) rs

/-- SUBMIT (R384, R444). -/
def execSubmit (fr : Frame) (pkgs : List Nat) (asid : Nat) (pkt : List Byte) (s : State) : Out :=
  s.command fr 0x10 fun s =>
    let own := s.pkg.pkgId
    if pkgs.isEmpty ∨ 2048 < pkgs.length ∨ pkgs.any (fun q => decide (2048 ≤ q)) ∨ pkgs.eraseDups.length ≠ pkgs.length ∨ pkgs.head? ≠ some own
        ∨ pkt.length ≠ 128 ∨ 4096 ≤ asid then s.badArg fr 0x10
    else if 1024 ≤ s.queued true ∨ (pkgs.filter (· ≠ own)).any (fun q => Config.remoteFull q s.free) then
      { s.rejected fr 0x10 with free := s.free + 1 }
    else
      let d : Delivery := { source := 0, asid := asid, bytes := pkt, pkgs := pkgs, parent := none, host := true }
      let s1 := s.updSched fun k => { k with deliveries := k.deliveries ++ [d] }
      let s2 := (pkgs.filter (· ≠ own)).foldl (fun s q => s.forward q (.packet asid pkt pkgs)) s1
      { s2.ok fr 0x10 with free := s.free + 1 }

/-- The context RESUME names, context S among them (R406, R443). -/
def State.portTarget (s : State) (src : Nat) : Option Nat :=
  let c := src % 2 ^ 18
  if src / 2 ^ 18 = s.pkg.pkgId ∧ src < 2 ^ 29 ∧ elemOf c < 96 ∧ ctxOf c ≤ 4 ∧ (s.res c).isSome then some c else none

/-- RESUME: 0 resume, 1 skip, 2 kill; the payload is R423's result. -/
def execResume (fr : Frame) (src act : Nat) (s : State) : Out :=
  s.command fr 0x11 fun s =>
    match s.portTarget src with
    | none => s.badArg fr 0x11
    | some c =>
      if 2 < act then s.badArg fr 0x11
      else if act = 2 then
        (if s.lidOf c = 0 then s.badArg fr 0x11 else (s.killCtx c 0x85 0 none 0).respond fr 0x11 0 [0])
      else if (s.ctx c).ctl.trap.isNone then s.respond fr 0x11 0 [1]
      else (s.returnTrap c (act == 1)).respond fr 0x11 0 [0]

/-- KILL (R414): the record stands in the launch's first region, or in the error log alone. -/
def execKill (fr : Frame) (lid : Nat) (s : State) : Out :=
  s.command fr 0x12 fun s =>
    match s.launch lid with
    | none => s.badArg fr 0x12
    | some l =>
      let r := (SMap.find l.seqs 0).map RegSeq.region
      let k : Rec := { s.recOf (mkCid (r.getD 0) 0 0) 0x85 5 0xFF 0 none 0 0 0 with lid := lid, asid := l.asid }
      (s.startKill lid 0x85 r k).ok fr 0x12

/-! ### The trust engine (R434 to R440) -/

/-- KEYADD: a 17th key is rejected. -/
def execKeyadd (fr : Frame) (key : List Byte) (s : State) : Out :=
  s.command fr 0x30 fun s =>
    if s.pkg.trust.keys.contains key then s.ok fr 0x30
    else if 16 ≤ s.pkg.trust.keys.length then s.rejected fr 0x30
    else (s.updTrust fun t => { t with keys := t.keys ++ [key] }).ok fr 0x30

/-- KEYDEL: a key that is not enrolled is rejected. -/
def execKeydel (fr : Frame) (keyid : List Byte) (s : State) : Out :=
  s.command fr 0x31 fun s =>
    if s.pkg.trust.keys.any fun k => sm3 k == keyid then
      (s.updTrust fun t => { t with keys := t.keys.filter fun k => sm3 k != keyid }).ok fr 0x31
    else s.rejected fr 0x31

/-- KSNEW: the lowest slot that does not exist, with a fresh key (R436). -/
def execKsnew (fr : Frame) (asid : Nat) (s : State) : Out :=
  s.command fr 0x32 fun s =>
    if 4096 ≤ asid then s.badArg fr 0x32
    else match (rangeFrom 1 4095).find? fun k => !SMap.has s.pkg.trust.kslots k with
      | none => s.rejected fr 0x32
      | some k =>
        (s.updTrust fun t => { t with kslots := SMap.set t.kslots k { asid := asid, serial := t.draws + 1, refs := 0 },
                                      draws := t.draws + 1 }).respond fr 0x32 0 (bytesLE 2 k)

/-- A MAP or a MIGRATE has checked a slot for the leaf it is to write. -/
def State.slotAwaited (s : State) (slot asid : Nat) : Bool :=
  s.pkg.xlat.evs.any fun e => e.asid == asid && leafSlot e.arg == slot
    && (match e.kind with
      | .map k _ => k == 0
      | .migrate _ => true
      | .unmap _ _ => false | .protect _ _ _ _ => false | .xinval _ => false | .adread _ _ _ => false | .xprobe => false | .xsync => false)
    && (match e.stage with
      | .sent _ => false | .queued => false | .done _ => false
      | .inval _ => true | .acked _ => true | .frozen _ => true | .copied _ => true | .replay _ => true | .settle _ => true)

/-- KSDEL: rejected while any leaf names the slot, or is about to (R436). -/
def execKsdel (fr : Frame) (slot : Nat) (s : State) : Out :=
  s.command fr 0x33 fun s =>
    match SMap.find s.pkg.trust.kslots slot with
    | none => s.rejected fr 0x33
    | some k =>
      if 0 < k.refs ∨ s.slotAwaited slot k.asid then s.rejected fr 0x33
      else (s.updTrust fun t => { t with kslots := SMap.del t.kslots slot }).ok fr 0x33

/-- QUOTE (R439). -/
def execQuote (fr : Frame) (nonce : List Byte) (lid : Nat) (s : State) : Out :=
  s.command fr 0x34 fun s => (s.quote nonce lid).2.respond fr 0x34 0 (s.quote nonce lid).1

/-- MANIF (R438). -/
def execManif (fr : Frame) (lid : Nat) (s : State) : Out := s.command fr 0x35 fun s => s.respond fr 0x35 0 (s.manifest lid)

/-- RMAP. -/
def execRmap (fr : Frame) (n : Nat) (s : State) : Out :=
  s.command fr 0x36 fun s =>
    if n < 3 ∨ 7 < n then s.badArg fr 0x36 else s.respond fr 0x36 0 (Config.repairMap n s.pkg.trust.tests)

/-- REPAIR: from now on the scheduler grants no region of the frond (R440). -/
def execRepair (fr : Frame) (f : Nat) (evict : Bool) (s : State) : Out :=
  s.command fr 0x37 fun s =>
    if 16 ≤ f then s.badArg fr 0x37 else (s.updTrust fun t => { t with windows := SMap.set t.windows f (evict, false) }).ok fr 0x37

/-- A launch holds a region of a frond. -/
def State.frondHeld (s : State) (f : Nat) : Bool :=
  (s.pkg.sched.launches.any fun l => !l.2.evicted && l.2.seqs.any fun q => frondOf q.2.region == f)
    || s.regions.any fun g => frondOf g.1 == f && g.2.res.any fun p => decide (p.1 < 4)

/-- REPAIR_WINDOW_START (R440): once no launch holds a region of the frond, its units are tested and mapped; a region that finds no spare is
withdrawn until the next window. -/
def execRepairWindowStart (f : Nat) (s : State) : Out :=
  if !SMap.has s.pkg.trust.windows f || s.frondHeld f then .next s
  else
    let n := s.pkg.trust.tests + 1
    let s1 := s.updTrust fun t => { t with tests := n, windows := SMap.del t.windows f }
    .next ((rangeFrom (16 * f) 16).foldl (fun s r => s.updRegion r fun g => { g with withdrawn := !Config.regionSound r n }) s1)

/-! ### Other frames -/

/-- CONTROL_PORT_LINK_CHANGE (R443). -/
def execControlPortLinkChange (up : Bool) (s : State) : Out := .next (s.updPkg fun p => { p with port := { p.port with linkUp := up } })

/-! ### Bring-up (R451) -/

/-- A step that succeeds leads to the next; one that fails leaves the device there. -/
def State.bringStep (s : State) (n : Nat) (ok : Bool) : State :=
  if s.pkg.bring.step ≠ n ∨ s.pkg.bring.failed then s
  else if ok then s.setBring { step := n + 1 } else s.setBring { step := n, failed := true }

/-- POWER_ON: the rails are up. -/
def execPowerOn (s : State) : Out := .next (s.bringStep 1 true)

/-- FIRMWARE_VERIFY (R435): the image loaded for this reset, else the device's own. -/
def execFirmwareVerify (s : State) : Out :=
  if s.pkg.bring.step ≠ 2 ∨ s.pkg.bring.failed then .next s
  else
    let img := if s.pkg.trust.fwNext.isEmpty then Config.firmware else s.pkg.trust.fwNext
    let ok := firmwareValid img
    .next ((s.updTrust fun t => { t with fwOk := ok, fwRun := if ok then img else [] }).bringStep 2 ok)

/-- Training and tests may map failed units to spares (R446, R447, R451). -/
def State.tested (s : State) (n : Nat) (ok : Bool) : State :=
  if s.pkg.bring.step ≠ n ∨ s.pkg.bring.failed then s else (s.updTrust fun t => { t with tests := t.tests + 1 }).bringStep n ok

/-- HBM_TRAINING. -/
def execHbmTraining (ok : Bool) (s : State) : Out := .next (s.tested 3 ok)
/-- VAULT_ROW_TEST. -/
def execVaultRowTest (ok : Bool) (s : State) : Out := .next (s.tested 4 ok)
/-- UCIE_TRAINING: an edge with no trained module stops it (R446). -/
def execUcieTraining (ok : Bool) (s : State) : Out := .next (s.tested 5 ok)

/-- FABRIC_TRAINING: the ports that have trained. -/
def execFabricTraining (ports : BitVec 48) (s : State) : Out :=
  if s.pkg.bring.step ≠ 7 ∨ s.pkg.bring.trained then .next s
  else .next ((s.setBring { step := 7, trained := true }).updPkg fun p => { p with fabric := { p.fabric with up := ports } })

/-- REGION_RELEASE: the device enters RUN. -/
def execRegionRelease (s : State) : Out :=
  if s.pkg.bring.step = 7 ∧ s.pkg.bring.trained then .next (s.setBring { step := 8 }) else .next s

/-! ### Time (R374, R375, R449) -/

/-- A Sync interval: 128 per second. -/
def syncNs : Nat := 7812500

/-- A measured offset is taken in; in LOCKED the counter slews against it (R374). The run of intervals within bound grows by one an interval,
whatever number of ports a Sync comes in on: not before half an interval has passed since it last grew (log entry 15). -/
def Time.measure (t : Time) (off : Int) : Time :=
  let run := if 2 * syncNs ≤ t.sinceSync then 0 else t.inBound
  let within := decide (-8 ≤ off ∧ off ≤ 8)
  let counts := within && (run == 0 || decide (syncNs ≤ 2 * t.sinceIn))
  { t with disc := (match t.disc with | .free => .acquiring | .acquiring => .acquiring | .locked => .locked | .holdover => .holdover),
           off := off, inBound := if counts then run + 1 else if within then run else 0, sinceSync := 0,
           sinceIn := if counts then 0 else t.sinceIn,
           slew := if t.disc = .locked then -off else t.slew }

/-- A Sync message received: not before step 7, and the master measures nothing. -/
def State.syncIn (s : State) (off : Int) : State :=
  if s.pkg.bring.step < 7 ∨ s.isMaster ∨ s.pkg.time.tmaster.isNone then s else s.updTime (Time.measure · off)

/-- PTP_SYNC (R449). -/
def execPtpSync (off : Int) (s : State) : Out := .next (s.syncIn off)

/-- Entry into LOCKED: the first time the counter steps by the offset it last measured; after that it only slews (R374, log entry 15). -/
def Time.lock (t : Time) : Time :=
  if t.locks = 0 then { t with disc := .locked, locks := 1, tsc := t.tsc - BitVec.ofInt 64 t.off, slew := 0 }
  else { t with disc := .locked, locks := t.locks + 1, slew := -t.off }

/-- LOCKED_ENTRY (R449): the offset has stayed within 8 ns for 64 consecutive intervals. -/
def execLockedEntry (s : State) : Out :=
  let t := s.pkg.time
  if t.disc = .locked ∨ t.disc = .free ∨ t.inBound < 64 then .next s else .next (s.updTime Time.lock)

/-- HOLDOVER_ENTRY (R449): 16 intervals with no Sync. -/
def execHoldoverEntry (s : State) : Out :=
  let t := s.pkg.time
  if t.disc = .locked ∧ !s.isMaster ∧ 16 * syncNs ≤ t.sinceSync then .next (s.updTime fun t => { t with disc := .holdover, inBound := 0 })
  else .next s

/-- SYNC_TRANSMIT (R449): at each interval a Sync leaves on every trained port, to its peer (written 2,048); the master, whose own
counter is the reference, stays within bound; without fabric peers a package stays FREE (R374). -/
def execSyncTransmit (s : State) : Out :=
  if s.pkg.bring.step < 7 ∨ s.pkg.time.tmaster.isNone ∨ s.pkg.time.sinceTx < syncNs then .next s
  else
    let s1 := s.updPkg fun p => { p with fabric := { p.fabric with sent := p.fabric.sent ++ p.fabric.trained.map fun q => (q, 2048, .sync 0) } }
    let s2 := s1.updTime fun t => { t with sinceTx := 0 }
    .next (if s.isMaster ∧ !s.pkg.fabric.trained.isEmpty then s2.updTime (Time.measure · 0) else s2)

/-! ### The fabric (R448) -/

/-- The bytes of another package's access, where they stand now (R340, R341). -/
def State.flitPieces (s : State) (pa k n : Nat) : List (Nat × Nat × Nat) := s.redirected [(pa, k, n)]

/-- What another package's access meets at its nodes (R270, R329, R342, R415): the poison code, or the bytes a load gives. A read that finds an
error marks its block and returns that error's code. -/
def State.serveFlit (s : State) (write sys : Bool) (l : List (Nat × Nat × Nat)) (go : State → State) (bad : Nat → State → State) : State :=
  match s.errIn write l with
  | some a => bad 0x2C (s.findErr 0 none 0 a 0)
  | none =>
    match s.piecesCode (if sys then 4 else 0) write l with
    | some k => bad k.1 (s.metCode k)
    | none => go s

/-- A message for this package takes effect. -/
def State.receive (s : State) (m : FabMsg) : State :=
  match m with
  | .store pa k b src tag =>
    let l := s.flitPieces pa k b.length
    s.serveFlit true false l (·.writePieces l b) fun c s => s.forward src (.fail tag c)
  | .load pa k n src tag sys =>
    let l := s.flitPieces pa k n
    s.serveFlit false sys l (fun s => s.forward src (.data tag (s.readPieces l))) fun c s => s.forward src (.fail tag c)
  | .data _ _ => s
  | .fail _ _ => s
  | .packet asid pkt pkgs =>
    let d : Delivery := { source := 0, asid := asid, bytes := pkt, pkgs := pkgs, parent := none, host := true }
    s.updSched fun k => { k with deliveries := k.deliveries ++ [d] }
  | .kill lid code => s.killAll lid code false
  | .report lid src code flags poison stranded =>
    s.updLaunch lid fun l => { l with reports := l.reports ++ [(src, code, flags, poison, stranded)] }
  | .arrive b cnt lid => s.updBarrier (8200 + b) fun t => t.arrive lid cnt (barLimit (8200 + b)) s.cycle (barDepart (8200 + b)) none
  | .sync off => s.syncIn off
  | .xevent k asid va arg src c tag =>
    let e : Xev := { id := s.reqNo, cid := 2 ^ 18 + c, asid, kind := XKind.ofCode k, va, arg, pend := none, out := none, stage := .sent s.cycle,
                     origin := some (src, c, tag) }
    { s.updXlat (fun x => { x with evs := x.evs ++ [e] }) with reqNo := s.reqNo + 1 }
  | .xanswer tag w => s.updXev tag fun e => if e.away then { e with stage := .done s.cycle, answer := some w } else e
  | .xroot asid root _ =>
    (s.updXlat fun x => { x with xroot := match root with | some a => SMap.set x.xroot asid a | none => SMap.del x.xroot asid }).reshare asid
  | .xshare asid src => s.updXlat fun x => { x with sharers := SMap.upd x.sharers asid [] fun l => if l.contains src then l else l ++ [src] }
  | .xmark what asid lo n ev src =>
    if 6 ≤ what then
      (if what = 6 then s.markEntries asid lo n false else s.repatchWhat asid lo n 2).updXlat fun x =>
        { x with owed := x.owed ++ [{ event := ev, src := src, asid := asid, lo := lo, len := n, mark := s.reqNo, writes := what == 6 }] }
    else (if what ≤ 1 then s.markEntries asid lo n (what == 1) else if what = 5 then s.leaveStale asid lo n else s.repatchWhat asid lo n what).forward
      src (.xack ev s.pkg.pkgId)
  | .xack ev src => s.updXev ev fun e => { e with acks := e.acks.filter (· ≠ src) }
  | .launched lid seed clo ccount pkgs prio preds =>
    if pkgs.contains s.pkg.pkgId ∨ s.inPod lid then s
    else s.updSched fun k => { k with away := SMap.set k.away lid { seed := BitVec.ofNat 64 seed, clo, ccount, prio, preds } }
  | .reprio lid prio =>
    (s.updLaunch lid fun l => { l with basePrio := prio }).updSched fun k =>
      { k with away := k.away.map fun e => (e.1, if e.1 = lid then { e.2 with prio := prio } else e.2) }
  | .accepted lid => s.updSched fun k => { k with away := k.away.map fun e => (e.1, if e.1 = lid then { e.2 with accepted := true } else e.2) }
  | .ended lid => match s.launch lid with | some l => s.freeLaunch lid l | none => s.endWaits lid

/-- The scheduler takes a message's packet only once it accepts SUBMIT (R451). -/
def State.early (s : State) (m : FabMsg) : Bool :=
  match m with
  | .packet _ _ _ => s.pkg.bring.step != 8
  | _ => false

/-- FABRIC_FLIT: routed by its destination package; an access that a freeze refuses comes again (R341), as a packet does before step 8 of
bring-up (R451). -/
def execFabricFlit (dst : Nat) (m : FabMsg) (s : State) : Out :=
  if s.pkg.bring.step < 7 then .next s
  else if dst = s.pkg.pkgId then
    .next (if s.early m || ((flitRange m).2 != 0 && s.rangeFrozen (flitRange m).1 (flitRange m).2) then s.again (.flit m) else s.receive m)
  else .next (s.forward dst m)

/-- One refused access is tried again; a frozen one stays refused. -/
def State.retry (s : State) (r : Retry) : State :=
  let after (o : Out) : State := match o with | .next t => t | .fault _ => s | .refused _ => s
  match r with
  | .read f pa n => after (execMemrd f pa n s)
  | .write f pa b => after (execMemwr f pa b s)
  | .flit m => after (execFabricFlit s.pkg.pkgId m s)
  | .sysload f pa len asid flags regs => after (execSysload f pa len asid flags regs s)

/-- The accesses that a freeze refused are tried again, in their order. -/
def State.retryAll (s : State) : State := s.pkg.retries.foldl State.retry (s.updPkg fun p => { p with retries := [] })

/-- The command of a SUBMIT's payload: Q, Q package ids, the packet, and the ASID after it (log entry 15). -/
def submitOf (b : List Byte) : Option (List Nat × Nat × List Byte) :=
  let q := leAt b 0 2
  if b.length = 132 + 2 * q then some ((List.range q).map fun i => leAt b (2 + 2 * i) 2, leAt b (130 + 2 * q) 2, sliceB b (2 + 2 * q) 128) else none

/-- A command runs from its payload, laid out as R443 lists it with the widths of log entry 15; a payload of another length, or a command outside
the table, is a bad field. -/
def runCommand (fr : Frame) (cmd : Nat) (b : List Byte) (s : State) : Out :=
  let n := b.length
  let le (o k : Nat) : Nat := leAt b o k
  if cmd = 1 ∧ n = 0 then execIdent fr s
  else if cmd = 2 then execFwload fr b s
  else if cmd = 3 ∧ n = 0 then execReset fr s
  else if cmd = 4 ∧ n = 2 then execSetpkg fr (le 0 2) s
  else if cmd = 5 ∧ n = 12288 then execRoute fr ((List.range 2048).map fun i => le (6 * i) 6) s
  else if cmd = 6 ∧ n = 2 then execTmaster fr (le 0 2) s
  else if cmd = 7 ∧ n = 51 then execSysload fr (le 0 8) (le 8 8) (le 16 2) (le 18 1) (le 19 32) s
  else if cmd = 0x10 ∧ (submitOf b).isSome then
    (match submitOf b with | some q => execSubmit fr q.1 q.2.1 q.2.2 s | none => .next s)
  else if cmd = 0x11 ∧ n = 5 then execResume fr (le 0 4) (le 4 1) s
  else if cmd = 0x12 ∧ n = 4 then execKill fr (le 0 4) s
  else if cmd = 0x20 ∧ n = 16 then execMemrd fr (le 0 8) (le 8 8) s
  else if cmd = 0x21 ∧ 8 ≤ n then execMemwr fr (le 0 8) (b.drop 8) s
  else if cmd = 0x30 ∧ n = 64 then execKeyadd fr b s
  else if cmd = 0x31 ∧ n = 32 then execKeydel fr b s
  else if cmd = 0x32 ∧ n = 2 then execKsnew fr (le 0 2) s
  else if cmd = 0x33 ∧ n = 2 then execKsdel fr (le 0 2) s
  else if cmd = 0x34 ∧ n = 36 then execQuote fr (b.take 32) (le 32 4) s
  else if cmd = 0x35 ∧ n = 4 then execManif fr (le 0 4) s
  else if cmd = 0x36 ∧ n = 1 then execRmap fr (le 0 1) s
  else if cmd = 0x37 ∧ n = 2 ∧ le 1 1 < 2 then execRepair fr (le 0 1) (le 1 1 == 1) s
  else .next (s.answer fr cmd 1 [])

/-- A frame's MAGIC and CRC are right (R442); a transfer too short for its header or its payload has no right CRC. -/
def frameSound (b : List Byte) : Bool :=
  let n := leAt b 12 4
  decide (32 + n ≤ b.length) && leAt b 0 4 == 0x4E4F4C44
    && crc32c (b.take 28 ++ [0, 0, 0, 0] ++ sliceB b 32 n) == BitVec.ofNat 32 (leAt b 28 4)

/-- The other fields of a frame's header, and its padding, are those of a command. -/
def frameFair (b : List Byte) : Bool :=
  let n := leAt b 12 4
  decide (n ≤ 1048576) && zeroAt b 6 2 && zeroAt b 16 12 && b.length == 32 + (n + 31) / 32 * 32 && zeroAt b (32 + n) ((n + 31) / 32 * 32 - n)

/-- BADFRAME (R442): the bytes of a transfer as they come in. One with a wrong MAGIC or CRC is dropped; one with another bad field is answered
with BADFRAME and has no effect; a good frame's command runs, and answers BADSTATE where bring-up does not allow it. -/
def execBadframe (port : Nat) (b : List Byte) (s : State) : Out :=
  let fr : Frame := { port := port, seq := BitVec.ofNat 32 (leAt b 8 4) }
  if !frameSound b then .next s
  else if frameFair b then runCommand fr (leAt b 4 2) (sliceB b 32 (leAt b 12 4)) s
  else .next (s.answer fr (leAt b 4 2) 1 [])

/-! ### Power (R450) -/

/-- CORE_CURRENT_PEAK: arithmetic-clock cycles stretch, or no longer do. -/
def execCoreCurrentPeak (on : Bool) (s : State) : Out := .next (s.updPkg fun p => { p with stretch := on })

end Sys2Proof.Machine
end

