-- ==== Sys2Proof/Machine/Dispatch.lean ====
section
/-! DEFINITION. The dispatcher: one arm per constructor of Instr, each a direct call of that instruction's meaning. -/

namespace Sys2Proof.Machine

def exec (i : Instr) (s : State) : Host.Outcome State Fault Refusal :=
  match i with
  | .nop => Sys2Proof.Machine.execNop s
  | .idle n => Sys2Proof.Machine.execIdle n s
  | .halt => Sys2Proof.Machine.execHalt s
  | .pset k d v => Sys2Proof.Machine.execPset k d v s
  | .plog k d a b v => Sys2Proof.Machine.execPlog k d a b v s
  | .pany k d a b v => Sys2Proof.Machine.execPany k d a b v s
  | .pall k d a b v => Sys2Proof.Machine.execPall k d a b v s
  | .mov d a m => Sys2Proof.Machine.execMov d a m s
  | .movi d n => Sys2Proof.Machine.execMovi d n s
  | .lit d zx hi lo => Sys2Proof.Machine.execLit d zx hi lo s
  | .sel d a b m => Sys2Proof.Machine.execSel d a b m s
  | .deq a => Sys2Proof.Machine.execDeq a s
  | .emit d a g c => Sys2Proof.Machine.execEmit d a g c s
  | .tagset d a g c => Sys2Proof.Machine.execTagset d a g c s
  | .hdread d a c => Sys2Proof.Machine.execHdread d a c s
  | .fcount d => Sys2Proof.Machine.execFcount d s
  | .maskset a m => Sys2Proof.Machine.execMaskset a m s
  | .brk n => Sys2Proof.Machine.execBrk n s
  | .iadd d a b m => Sys2Proof.Machine.execIadd d a b m s
  | .isub d a b m => Sys2Proof.Machine.execIsub d a b m s
  | .imul d a b m => Sys2Proof.Machine.execImul d a b m s
  | .imulh d a b m => Sys2Proof.Machine.execImulh d a b m s
  | .imad d a b m => Sys2Proof.Machine.execImad d a b m s
  | .iaddi d a n => Sys2Proof.Machine.execIaddi d a n s
  | .imin d a b m => Sys2Proof.Machine.execImin d a b m s
  | .imax d a b m => Sys2Proof.Machine.execImax d a b m s
  | .and d a b m => Sys2Proof.Machine.execAnd d a b m s
  | .or d a b m => Sys2Proof.Machine.execOr d a b m s
  | .xor d a b m => Sys2Proof.Machine.execXor d a b m s
  | .shl d a b => Sys2Proof.Machine.execShl d a b s
  | .shr d a b m => Sys2Proof.Machine.execShr d a b m s
  | .rot d a b m => Sys2Proof.Machine.execRot d a b m s
  | .icmp d a b m => Sys2Proof.Machine.execIcmp d a b m s
  | .isat d a y2 w => Sys2Proof.Machine.execIsat d a y2 w s
  | .bitc d a m => Sys2Proof.Machine.execBitc d a m s
  | .bfx d a b m => Sys2Proof.Machine.execBfx d a b m s
  | .bfi d a b => Sys2Proof.Machine.execBfi d a b s
  | .addr d a b h n => Sys2Proof.Machine.execAddr d a b h n s
  | .cchain a g p => Sys2Proof.Machine.execCchain a g p s
  | .cstep d w m => Sys2Proof.Machine.execCstep d w m s
  | .lscan d a b m => Sys2Proof.Machine.execLscan d a b m s
  | .idiv d a b m => Sys2Proof.Machine.execIdiv d a b m s
  | .fadd d a b m => Sys2Proof.Machine.execFadd d a b m s
  | .fsub d a b m => Sys2Proof.Machine.execFsub d a b m s
  | .fmul d a b m => Sys2Proof.Machine.execFmul d a b m s
  | .ffma d a b m => Sys2Proof.Machine.execFfma d a b m s
  | .fmin d a b => Sys2Proof.Machine.execFmin d a b s
  | .fmax d a b => Sys2Proof.Machine.execFmax d a b s
  | .fminn d a b => Sys2Proof.Machine.execFminn d a b s
  | .fmaxn d a b => Sys2Proof.Machine.execFmaxn d a b s
  | .fcmp d a b m => Sys2Proof.Machine.execFcmp d a b m s
  | .fsgn d a b m => Sys2Proof.Machine.execFsgn d a b m s
  | .frcp d a m => Sys2Proof.Machine.execFrcp d a m s
  | .frsq d a m => Sys2Proof.Machine.execFrsq d a m s
  | .fsqrt d a m => Sys2Proof.Machine.execFsqrt d a m s
  | .fdiv d a b m => Sys2Proof.Machine.execFdiv d a b m s
  | .fexp2 d a m => Sys2Proof.Machine.execFexp2 d a m s
  | .flog2 d a m => Sys2Proof.Machine.execFlog2 d a m s
  | .fred d a => Sys2Proof.Machine.execFred d a s
  | .frmax d a m => Sys2Proof.Machine.execFrmax d a m s
  | .frmin d a m => Sys2Proof.Machine.execFrmin d a m s
  | .cvtf d a r f p n => Sys2Proof.Machine.execCvtf d a r f p n s
  | .cvti d a y2 p n => Sys2Proof.Machine.execCvti d a y2 p n s
  | .cvtif d a y2 u p n => Sys2Proof.Machine.execCvtif d a y2 u p n s
  | .cvt4 d a k y3 h => Sys2Proof.Machine.execCvt4 d a k y3 h s
  | .mxpack d a p x => Sys2Proof.Machine.execMxpack d a p x s
  | .mxunpk d a p x => Sys2Proof.Machine.execMxunpk d a p x s
  | .scpack d a k f y4 p n => Sys2Proof.Machine.execScpack d a k f y4 p n s
  | .scunpk d a b f p => Sys2Proof.Machine.execScunpk d a b f p s
  | .fclass d a => Sys2Proof.Machine.execFclass d a s
  | .fround d a b m => Sys2Proof.Machine.execFround d a b m s
  | .fscale d a b m => Sys2Proof.Machine.execFscale d a b m s
  | .pcarve a => Sys2Proof.Machine.execPcarve a s
  | .pcommit d l y2 => Sys2Proof.Machine.execPcommit d l y2 s
  | .pmap a => Sys2Proof.Machine.execPmap a s
  | .pstat d a g y3 => Sys2Proof.Machine.execPstat d a g y3 s
  | .pgather d a l y3 tile col wid => Sys2Proof.Machine.execPgather d a l y3 tile col wid s
  | .pissue d y1 all load n => Sys2Proof.Machine.execPissue d y1 all load n s
  | .pissuex d y1 all b n => Sys2Proof.Machine.execPissuex d y1 all b n s
  | .pdrain d a clr to_ y4 gid => Sys2Proof.Machine.execPdrain d a clr to_ y4 gid s
  | .pclear d a y2 gid => Sys2Proof.Machine.execPclear d a y2 gid s
  | .psort d a y2 gid => Sys2Proof.Machine.execPsort d a y2 gid s
  | .psortk d idx desc y3 gid => Sys2Proof.Machine.execPsortk d idx desc y3 gid s
  | .psave d a y2 => Sys2Proof.Machine.execPsave d a y2 s
  | .prestore d a c y3 => Sys2Proof.Machine.execPrestore d a c y3 s
  | .pqstat d g y2 => Sys2Proof.Machine.execPqstat d g y2 s
  | .steer d a b m => Sys2Proof.Machine.execSteer d a b m s
  | .merge d a b m => Sys2Proof.Machine.execMerge d a b m s
  | .lexit d a b => Sys2Proof.Machine.execLexit d a b s
  | .gate d a b => Sys2Proof.Machine.execGate d a b s
  | .dup d a n => Sys2Proof.Machine.execDup d a n s
  | .zipt d a b => Sys2Proof.Machine.execZipt d a b s
  | .talloc d g y2 => Sys2Proof.Machine.execTalloc d g y2 s
  | .tfree a g => Sys2Proof.Machine.execTfree a g s
  | .troute d a g v => Sys2Proof.Machine.execTroute d a g v s
  | .isect d a b q p => Sys2Proof.Machine.execIsect d a b q p s
  | .union d a b q p => Sys2Proof.Machine.execUnion d a b q p s
  | .fibre d a b m => Sys2Proof.Machine.execFibre d a b m s
  | .packv d a => Sys2Proof.Machine.execPackv d a s
  | .splitv d a w => Sys2Proof.Machine.execSplitv d a w s
  | .compact d a => Sys2Proof.Machine.execCompact d a s
  | .order d a c => Sys2Proof.Machine.execOrder d a c s
  | .switch d a b m => Sys2Proof.Machine.execSwitch d a b m s
  | .poison d n => Sys2Proof.Machine.execPoison d n s
  | .ends d a y2 => Sys2Proof.Machine.execEnds d a y2 s
  | .chocc d c => Sys2Proof.Machine.execChocc d c s
  | .vld d a => Sys2Proof.Machine.execVld d a s
  | .vst d a b => Sys2Proof.Machine.execVst d a b s
  | .vldx d a b n => Sys2Proof.Machine.execVldx d a b n s
  | .vstx d a b n => Sys2Proof.Machine.execVstx d a b n s
  | .gld d a h p => Sys2Proof.Machine.execGld d a h p s
  | .gst d a b h p => Sys2Proof.Machine.execGst d a b h p s
  | .sport a p u m => Sys2Proof.Machine.execSport a p u m s
  | .sreq d a p w => Sys2Proof.Machine.execSreq d a p w s
  | .sgath d a p => Sys2Proof.Machine.execSgath d a p s
  | .tilest d a b m tile => Sys2Proof.Machine.execTilest d a b m tile s
  | .tileq d o tile => Sys2Proof.Machine.execTileq d o tile s
  | .valloc d a v f at_ off => Sys2Proof.Machine.execValloc d a v f at_ off s
  | .vfree a => Sys2Proof.Machine.execVfree a s
  | .pref a p n => Sys2Proof.Machine.execPref a p n s
  | .glda d a g w v p => Sys2Proof.Machine.execGlda d a g w v p s
  | .gstr d a g w v p => Sys2Proof.Machine.execGstr d a g w v p s
  | .fence g k => Sys2Proof.Machine.execFence g k s
  | .fencex d => Sys2Proof.Machine.execFencex d s
  | .fencep d => Sys2Proof.Machine.execFencep d s
  | .seqkey d a k => Sys2Proof.Machine.execSeqkey d a k s
  | .perfw c => Sys2Proof.Machine.execPerfw c s
  | .mcsync a => Sys2Proof.Machine.execMcsync a s
  | .aadd d a h w v n p => Sys2Proof.Machine.execAadd d a h w v n p s
  | .aand d a h w v n p => Sys2Proof.Machine.execAand d a h w v n p s
  | .aor d a h w v n p => Sys2Proof.Machine.execAor d a h w v n p s
  | .axor d a h w v n p => Sys2Proof.Machine.execAxor d a h w v n p s
  | .amin d a h w v n p y7 => Sys2Proof.Machine.execAmin d a h w v n p y7 s
  | .amax d a h w v n p y7 => Sys2Proof.Machine.execAmax d a h w v n p y7 s
  | .axchg d a h w v n p => Sys2Proof.Machine.execAxchg d a h w v n p s
  | .acas d a h w v n p => Sys2Proof.Machine.execAcas d a h w v n p s
  | .afadd d a h v n p => Sys2Proof.Machine.execAfadd d a h v n p s
  | .afmin d a h v n p => Sys2Proof.Machine.execAfmin d a h v n p s
  | .afmax d a h v n p => Sys2Proof.Machine.execAfmax d a h v n p s
  | .awadd d a v n p => Sys2Proof.Machine.execAwadd d a v n p s
  | .ainc d a h w v n p y7 => Sys2Proof.Machine.execAinc d a h w v n p y7 s
  | .abit d a h w v n p y7 => Sys2Proof.Machine.execAbit d a h w v n p y7 s
  | .map d a kind level asid => Sys2Proof.Machine.execMap d a kind level asid s
  | .unmap d a kind level asid => Sys2Proof.Machine.execUnmap d a kind level asid s
  | .protect d a level usr wr rd asid => Sys2Proof.Machine.execProtect d a level usr wr rd asid s
  | .migrate d a level asid => Sys2Proof.Machine.execMigrate d a level asid s
  | .xinval d a o asid => Sys2Proof.Machine.execXinval d a o asid s
  | .adread d a level clrd clra asid => Sys2Proof.Machine.execAdread d a level clrd clra asid s
  | .xprobe d a asid => Sys2Proof.Machine.execXprobe d a asid s
  | .xsync d asid => Sys2Proof.Machine.execXsync d asid s
  | .copy d a q tben tbid bulk dep2 dep1 dep0 => Sys2Proof.Machine.execCopy d a q tben tbid bulk dep2 dep1 dep0 s
  | .dtoken d a b m => Sys2Proof.Machine.execDtoken d a b m s
  | .tbarr d a b k => Sys2Proof.Machine.execTbarr d a b k s
  | .tbwait d a b => Sys2Proof.Machine.execTbwait d a b s
  | .tbany d a => Sys2Proof.Machine.execTbany d a s
  | .nbar d a n k => Sys2Proof.Machine.execNbar d a n k s
  | .gbar d a n o k => Sys2Proof.Machine.execGbar d a n o k s
  | .timew d a r => Sys2Proof.Machine.execTimew d a r s
  | .timer d k => Sys2Proof.Machine.execTimer d k s
  | .rand d a b => Sys2Proof.Machine.execRand d a b s
  | .launch d a v => Sys2Proof.Machine.execLaunch d a v s
  | .joinc d a => Sys2Proof.Machine.execJoinc d a s
  | .cfgnextStep k => Sys2Proof.Machine.execCfgnextStep k s
  | .cfgnextPost a cfg => Sys2Proof.Machine.execCfgnextPost a cfg s
  | .strand d a g c => Sys2Proof.Machine.execStrand d a g c s
  | .retire d a l => Sys2Proof.Machine.execRetire d a l s
  | .prio d a g c => Sys2Proof.Machine.execPrio d a g c s
  | .trap a n => Sys2Proof.Machine.execTrap a n s
  | .tret d a c => Sys2Proof.Machine.execTret d a c s
  | .ctxsw a c => Sys2Proof.Machine.execCtxsw a c s
  | .qstop d a c => Sys2Proof.Machine.execQstop d a c s
  | .errlog d a c => Sys2Proof.Machine.execErrlog d a c s
  | .mcmp d a => Sys2Proof.Machine.execMcmp d a s
  | .attest d a => Sys2Proof.Machine.execAttest d a s
  | .cfgld d a => Sys2Proof.Machine.execCfgld d a s
  | .cfgsig d a c => Sys2Proof.Machine.execCfgsig d a c s
  | .sysrd d a g => Sys2Proof.Machine.execSysrd d a g s
  | .resultWriteback c => Sys2Proof.Machine.execResultWriteback c s
  | .idleExpiry c => Sys2Proof.Machine.execIdleExpiry c s
  | .timewWake c => Sys2Proof.Machine.execTimewWake c s
  | .sharedUnitFree e u => Sys2Proof.Machine.execSharedUnitFree e u s
  | .tokenSend e k => Sys2Proof.Machine.execTokenSend e k s
  | .tokenArrival n => Sys2Proof.Machine.execTokenArrival n s
  | .deadlock r => Sys2Proof.Machine.execDeadlock r s
  | .mcastStall c k => Sys2Proof.Machine.execMcastStall c k s
  | .trapQueueDelivery r => Sys2Proof.Machine.execTrapQueueDelivery r s
  | .packetAcceptance lid => Sys2Proof.Machine.execPacketAcceptance lid s
  | .regionGrant lid => Sys2Proof.Machine.execRegionGrant lid s
  | .priorityRankUpdate r => Sys2Proof.Machine.execPriorityRankUpdate r s
  | .imageLoad lid => Sys2Proof.Machine.execImageLoad lid s
  | .configurationLoad r x => Sys2Proof.Machine.execConfigurationLoad r x s
  | .stepPlacement r x => Sys2Proof.Machine.execStepPlacement r x s
  | .stepDrain r x => Sys2Proof.Machine.execStepDrain r x s
  | .launchCompletion lid => Sys2Proof.Machine.execLaunchCompletion lid s
  | .completionReport lid => Sys2Proof.Machine.execCompletionReport lid s
  | .eviction r x => Sys2Proof.Machine.execEviction r x s
  | .evictionSave r x => Sys2Proof.Machine.execEvictionSave r x s
  | .restore lid => Sys2Proof.Machine.execRestore lid s
  | .quiescentPoint r => Sys2Proof.Machine.execQuiescentPoint r s
  | .accessPerform n lane => Sys2Proof.Machine.execAccessPerform n lane s
  | .keyedApply n lane => Sys2Proof.Machine.execKeyedApply n lane s
  | .portReturn c p => Sys2Proof.Machine.execPortReturn c p s
  | .streamRequest c p => Sys2Proof.Machine.execStreamRequest c p s
  | .sgathRowEmit c p => Sys2Proof.Machine.execSgathRowEmit c p s
  | .mergeWindowClose ch row => Sys2Proof.Machine.execMergeWindowClose ch row s
  | .bulkAgeing n => Sys2Proof.Machine.execBulkAgeing n s
  | .tileCloseDone r t => Sys2Proof.Machine.execTileCloseDone r t s
  | .tileFreeDone r t => Sys2Proof.Machine.execTileFreeDone r t s
  | .poolQueueEntry r => Sys2Proof.Machine.execPoolQueueEntry r s
  | .carveStage r so => Sys2Proof.Machine.execCarveStage r so s
  | .commitCheck r so => Sys2Proof.Machine.execCommitCheck r so s
  | .groupRelease r so gid => Sys2Proof.Machine.execGroupRelease r so gid s
  | .leafJoin r so gid => Sys2Proof.Machine.execLeafJoin r so gid s
  | .gatherRowFetch r so l => Sys2Proof.Machine.execGatherRowFetch r so l s
  | .passStart r so => Sys2Proof.Machine.execPassStart r so s
  | .passRootApply r so gid => Sys2Proof.Machine.execPassRootApply r so gid s
  | .drainStart r so => Sys2Proof.Machine.execDrainStart r so s
  | .drainPacketEmit r so => Sys2Proof.Machine.execDrainPacketEmit r so s
  | .drainTileWriteDone r so => Sys2Proof.Machine.execDrainTileWriteDone r so s
  | .clearStart r so => Sys2Proof.Machine.execClearStart r so s
  | .sortAppend r so => Sys2Proof.Machine.execSortAppend r so s
  | .sortEmit r so => Sys2Proof.Machine.execSortEmit r so s
  | .copyQueueEntry r => Sys2Proof.Machine.execCopyQueueEntry r s
  | .copyRun r q => Sys2Proof.Machine.execCopyRun r q s
  | .copyCompletion r q => Sys2Proof.Machine.execCopyCompletion r q s
  | .generationClose r b => Sys2Proof.Machine.execGenerationClose r b s
  | .barrierInstanceComplete b => Sys2Proof.Machine.execBarrierInstanceComplete b s
  | .translationEventEntry n => Sys2Proof.Machine.execTranslationEventEntry n s
  | .invalidationAck n => Sys2Proof.Machine.execInvalidationAck n s
  | .repatch n => Sys2Proof.Machine.execRepatch n s
  | .patchFetch r x p => Sys2Proof.Machine.execPatchFetch r x p s
  | .dirtyUpdate r x p => Sys2Proof.Machine.execDirtyUpdate r x p s
  | .migrateFreeze n => Sys2Proof.Machine.execMigrateFreeze n s
  | .migrateCopy n => Sys2Proof.Machine.execMigrateCopy n s
  | .migrateRemap n => Sys2Proof.Machine.execMigrateRemap n s
  | .migrateReplay n => Sys2Proof.Machine.execMigrateReplay n s
  | .translationCompletion n => Sys2Proof.Machine.execTranslationCompletion n s
  | .cfgeccThaw r readable => Sys2Proof.Machine.execCfgeccThaw r readable s
  | .repairWindowStart f => Sys2Proof.Machine.execRepairWindowStart f s
  | .traprec => Sys2Proof.Machine.execTraprec s
  | .packetDelivery => Sys2Proof.Machine.execPacketDelivery s
  | .dlmiss n => Sys2Proof.Machine.execDlmiss n s
  | .hbmue n lane => Sys2Proof.Machine.execHbmue n lane s
  | .poolecc r so q gid => Sys2Proof.Machine.execPoolecc r so q gid s
  | .killPropagation lid code => Sys2Proof.Machine.execKillPropagation lid code s
  | .cfgecc c => Sys2Proof.Machine.execCfgecc c s
  | .stateecc c => Sys2Proof.Machine.execStateecc c s
  | .attestQuoteDone => Sys2Proof.Machine.execAttestQuoteDone s
  | .ptpSync off => Sys2Proof.Machine.execPtpSync off s
  | .lockedEntry => Sys2Proof.Machine.execLockedEntry s
  | .holdoverEntry => Sys2Proof.Machine.execHoldoverEntry s
  | .fabricFlit dst m => Sys2Proof.Machine.execFabricFlit dst m s
  | .powerOn => Sys2Proof.Machine.execPowerOn s
  | .firmwareVerify => Sys2Proof.Machine.execFirmwareVerify s
  | .hbmTraining ok => Sys2Proof.Machine.execHbmTraining ok s
  | .vaultRowTest ok => Sys2Proof.Machine.execVaultRowTest ok s
  | .ucieTraining ok => Sys2Proof.Machine.execUcieTraining ok s
  | .fabricTraining ports => Sys2Proof.Machine.execFabricTraining ports s
  | .regionRelease => Sys2Proof.Machine.execRegionRelease s
  | .ident fr => Sys2Proof.Machine.execIdent fr s
  | .fwload fr img => Sys2Proof.Machine.execFwload fr img s
  | .reset fr => Sys2Proof.Machine.execReset fr s
  | .setpkg fr id => Sys2Proof.Machine.execSetpkg fr id s
  | .route fr ents => Sys2Proof.Machine.execRoute fr ents s
  | .tmaster fr id => Sys2Proof.Machine.execTmaster fr id s
  | .sysload fr pa len asid flags regs => Sys2Proof.Machine.execSysload fr pa len asid flags regs s
  | .submit fr pkgs asid pkt => Sys2Proof.Machine.execSubmit fr pkgs asid pkt s
  | .resume fr src act => Sys2Proof.Machine.execResume fr src act s
  | .kill fr lid => Sys2Proof.Machine.execKill fr lid s
  | .memrd fr pa len => Sys2Proof.Machine.execMemrd fr pa len s
  | .memwr fr pa bytes => Sys2Proof.Machine.execMemwr fr pa bytes s
  | .keyadd fr key => Sys2Proof.Machine.execKeyadd fr key s
  | .keydel fr keyid => Sys2Proof.Machine.execKeydel fr keyid s
  | .ksnew fr asid => Sys2Proof.Machine.execKsnew fr asid s
  | .ksdel fr slot => Sys2Proof.Machine.execKsdel fr slot s
  | .quote fr nonce lid => Sys2Proof.Machine.execQuote fr nonce lid s
  | .manif fr lid => Sys2Proof.Machine.execManif fr lid s
  | .rmap fr n => Sys2Proof.Machine.execRmap fr n s
  | .repair fr f evict => Sys2Proof.Machine.execRepair fr f evict s
  | .badframe p b => Sys2Proof.Machine.execBadframe p b s
  | .controlPortLinkChange up => Sys2Proof.Machine.execControlPortLinkChange up s
  | .coreCurrentPeak on => Sys2Proof.Machine.execCoreCurrentPeak on s
  | .syncTransmit => Sys2Proof.Machine.execSyncTransmit s

end Sys2Proof.Machine
end

