-- ==== Sys2Proof/Machine/Holds.lean ====
section
/-! DEFINITION. When the rule of a slot holds (R76, R77): candidates, the terms of a rule, busy marks, awaited registers, outputs, and the
further condition of every instruction. -/

namespace Sys2Proof.Machine

/-! ### Rules (R42 to R46, R77 conditions 1 to 4) -/

/-- A predicate term matches its polarity, or is not enabled (R42). -/
def Ctx.matches_ (k : Ctx) (t : Bool × Bool × Nat) : Bool := !t.1 || k.p t.2.2 == t.2.1

/-- The oldest token of an input passes a test. -/
def Ctx.oldest (k : Ctx) (i : Nat) (f : Token → Bool) : Bool := match (k.buf i).head? with | some t => f t | none => false

/-- An enabled channel term is true (R43, R91). -/
def Ctx.channel (k : Ctx) (route : Bool) (t : Bool × Nat × Nat × Nat) : Bool :=
  let kind := t.2.1
  let ch := t.2.2.1
  let tag := t.2.2.2
  !t.1
    || (if kind = 0 then k.oldest ch fun _ => true
      else if kind = 1 then (if route then (taggedPos tag (k.buf ch)).isSome else k.oldest ch fun h => h.tag.toNat == tag)
      else if kind = 2 then k.oldest ch fun h => h.kind == kMARK && h.tag.toNat == tag
      else if kind = 3 then k.oldest ch fun h => h.kind == kPOISON
      else if kind = 4 then k.accepts (ch - 8)
      else if kind = 5 then k.oldest ch fun h => h.tag.toNat != tag
      else if kind = 6 then k.oldest ch fun h => h.kind == kEOS
      else false)

/-- No predicate of an enabled term or update is busy (R77 condition 4). -/
def Ctx.calm (k : Ctx) (t : Bool × Bool × Nat) : Bool := !t.1 || !k.busyP t.2.2

/-- The rule of the slot in hand holds as far as it goes itself. -/
def State.ruleHolds (s : State) : Bool :=
  let r := s.cur.rule
  let k := s.my
  ((List.range 4).all fun i => k.matches_ (ruleP r i) && k.calm (ruleP r i))
    && (k.channel (s.routeMode s.cur.cid) (ruleC r 0) && k.channel (s.routeMode s.cur.cid) (ruleC r 1))
    && ((List.range 8).all fun i => !ruleDq r i || (s.headOpt i).isSome)
    && (k.calm (ruleU r 0) && k.calm (ruleU r 1))

/-! ### What the instruction asks of its context (R77 conditions 4 to 6, R81, R116) -/

/-- The vector register of a source. -/
def srcV (a : Src) : List Nat := match a with | .v k => [k.toNat] | .x _ => [] | .inp _ => [] | .lane => [] | .zero => [] | .lit _ => []
/-- The scalar register of a source. -/
def srcX (a : Src) : List Nat := match a with | .x k => [k.toNat] | .v _ => [] | .inp _ => [] | .lane => [] | .zero => [] | .lit _ => []
/-- The destination of an instruction, as a list. -/
def Use.dst (u : Use) : List Dst := match u.d with | some d => [d] | none => []

/-- Vector registers an instruction reads or writes. -/
def usedV (i : Instr) : List Nat := (useOf i).dst.flatMap vOf ++ i.srcs.flatMap srcV ++ (useOf i).vr
/-- Scalar registers an instruction reads or writes. -/
def usedX (i : Instr) : List Nat := (useOf i).dst.flatMap xOf ++ i.srcs.flatMap srcX ++ (useOf i).xr ++ (useOf i).xw

/-- An output's tag awaits the writeback of TALLOC.SET (R244; log entry 10). -/
def Ctx.tagAwaited (k : Ctx) (o : Nat) : Bool :=
  k.pend.any fun p => p.effs.any fun e => match e with
    | .otag i _ => i == o
    | .vec _ _ _ => false
    | .sreg _ _ => false
    | .pred _ _ => false
    | .emit _ _ => false
    | .mask _ => false
    | .flags _ => false

/-- An output can take a token of the firing. -/
def Ctx.takes (k : Ctx) (o : Nat) : Bool := k.accepts o && !k.tagAwaited o

/-- Registers, predicates and, unless the instruction manages its outputs, the outputs of an instruction are free. -/
def State.regsFree (s : State) (i : Instr) : Bool :=
  let k := s.my
  let u := useOf i
  ((usedV i).all fun n => !k.busyV n) && ((usedX i).all fun n => !k.busyX n) && (u.preds.all fun n => !k.busyP n)
    && (u.man || ((u.dst.flatMap outOf ++ u.outs).all k.takes))

/-- A plan stands, and every output it emits on can take its token (R226). -/
def State.planReady (s : State) (p : Option Plan) : Bool := match p with | some p => p.outs.all s.my.takes | none => false

/-! ### Further conditions (R77 condition 7) -/

/-- The element of the firing in hand. -/
def State.myElem (s : State) : Elem := s.elem (eidOf s.cur.cid)
/-- A shared unit is free in a cycle (R128, R162, R379). -/
def freeAt (now : Nat) (b : Option Nat) : Bool := match b with | some n => decide (n ≤ now) | none => true

/-- The context is being evicted: its sources stand frozen (R412). -/
def State.leaving (s : State) : Bool :=
  match s.res s.cur.cid with
  | some p => (match p.phase with | .evicting => true | .loading _ => false | .running => false | .finished => false | .draining _ => false)
  | none => false

/-- The tag window has a free tag (R90, R244). -/
def State.tagRoom (s : State) : Bool := match s.res s.cur.cid with | some r => decide (r.outstanding s.cycle < r.cfg.window) | none => true

/-- A pool command's queues have room (R185), unless poison on a source keeps it from entering one. -/
def State.poolAccepts (s : State) (q : Nat) (srcs : List Src) (l : List Nat) : Bool :=
  (s.poisoned srcs).isSome || s.poolRoom (regionOf s.cur.cid) q l

/-- The entry queue of a configuration has room (R399); a post to another configuration traps. -/
def State.postRoom (s : State) (cfg : Nat) : Bool := match s.myRun with | some v => v.seq.postRoom cfg | none => true

/-- The port is idle for a new SPORT (R275). -/
def SPort.idleNow (t : SPort) : Bool :=
  match t.mode with | .idle => true | .gath => t.gath.isNone | .read => false | .write => false

/-- A port set up by SPORT makes its first request now or has made it: no request comes before the SPORT's latency has passed (R286). -/
def SPort.begun (t : SPort) (now : Nat) : Bool := decide (t.start ≤ now)

/-- The port's buffer holds a token that is complete at its head (R276, R277). -/
def SPort.headHere (t : SPort) : Bool := match t.buf with | b :: _ => b.whole | [] => false

/-- A write stream runs and the head is one it takes (R278). -/
def State.writeTakes (s : State) (a : Src) (p : Nat) : Bool :=
  decide ((s.sport p).mode = .write) && (s.sport p).begun s.cycle
    && (match s.headOpt (inNo a) with | some t => t.kind == kDATA || t.kind == kMARK || t.kind == kPOISON | none => false)

/-- TILEQ's operation holds in the tile's state (R281): 0 STAT, 1 OPEN, 2 CLOSE, 3 FREE. -/
def State.tileTakes (s : State) (o t : Nat) : Bool :=
  match s.tile (regionOf s.cur.cid) t with
  | none => true
  | some x =>
    if o = 1 then decide (x.st = .empty ∨ x.st = .ready)
    else if o = 2 then decide (x.st = .opened)
    else if o = 3 then decide (x.st = .ready)
    else true

/-- Fewer than 16 translation events of the context have not completed (R345). -/
def State.eventRoom (s : State) : Bool := decide ((s.pkg.xlat.evs.filter fun e => e.cid = s.cur.cid).length < 16)

/-- No acquire load of the context is outstanding in open mode: later engine issues and emissions are ordered after it (R285, R290; log
entry 10). -/
def State.engineFree (s : State) : Bool :=
  s.reqs.all fun r => r.cid != s.cur.cid || !r.acquire || r.keyed || r.accs.all Acc.performed

/-- The dependence heads of a COPY are there and are ones it consumes, and a tile it fills is ready (R262, R358, R362). -/
def State.copyReady (s : State) (a : Src) (deps : List Nat) : Bool :=
  let ds : BitVec 384 := BitVec.ofNat 384 (portDesc (s.srcVec a))
  s.engineFree
    && (deps.all fun k => match s.headOpt k with | some t => t.kind != kEOS && t.kind != kDRAIN | none => false)
    && (!cpDten ds || s.copyBad s.cur.cid ds || s.tileReady (regionOf s.cur.cid) (cpTile ds))

/-- The tile a drain names is ready (R213). -/
def State.drainTakes (s : State) (a : Src) : Bool :=
  (s.poisoned [a]).isSome || s.tileReady (regionOf s.cur.cid) (dsTile (s.srcSca a))

/-- Every earlier access of the context is committed at a scope, as a release asks (R289, R368, R372). -/
def State.released (s : State) (scope : Nat) : Bool := s.allCommitted s.cur.cid scope && !s.streaming s.cur.cid false

/-- TBWAIT's generation has closed (R369); poison and another launch's barrier are dealt with at once. -/
def State.tbwaitHolds (s : State) (a : Src) (b : Nat) : Bool :=
  let r := regionOf s.cur.cid
  (s.poisoned [a]).isSome || s.tbForeign r b (s.lidOf s.cur.cid) || (s.tb r b).closed (s.srcSca a).toNat

/-- A barrier that TBANY names is ready (R370); another launch's is dealt with at once. -/
def State.tbanyHolds (s : State) (a : Src) : Bool :=
  let m := s.srcSca a
  ((List.range 64).any fun b => m.getLsbD b && s.tbForeign (regionOf s.cur.cid) b (s.lidOf s.cur.cid)) || (s.tbFirst s.cur.cid m).isSome

/-- The child JOINC names has completed, or there is none (R397). -/
def State.joinHolds (s : State) (a : Src) : Bool := match s.child s.cur.cid (fld (s.srcSca a) 31 0) with | .live => false | .none => true | .done _ _ => true

/-- The conditions that an earlier firing of the same cycle can take away: a free entry of a queue, or a free tag (R185, R244, R359, R396,
R399, R428). Firings claim in ascending source number. None for an instruction without one. -/
def State.room (s : State) (i : Instr) : Option Bool :=
  match i with
  | .nop => none
  | .idle _ => none
  | .halt => none
  | .pset _ _ _ => none
  | .plog _ _ _ _ _ => none
  | .pany _ _ _ _ _ => none
  | .pall _ _ _ _ _ => none
  | .mov _ _ _ => none
  | .movi _ _ => none
  | .lit _ _ _ _ => none
  | .sel _ _ _ _ => none
  | .deq _ => none
  | .emit _ _ _ _ => none
  | .tagset _ _ _ _ => none
  | .hdread _ _ _ => none
  | .fcount _ => none
  | .maskset _ _ => none
  | .brk _ => none
  | .iadd _ _ _ _ => none
  | .isub _ _ _ _ => none
  | .imul _ _ _ _ => none
  | .imulh _ _ _ _ => none
  | .imad _ _ _ _ => none
  | .iaddi _ _ _ => none
  | .imin _ _ _ _ => none
  | .imax _ _ _ _ => none
  | .and _ _ _ _ => none
  | .or _ _ _ _ => none
  | .xor _ _ _ _ => none
  | .shl _ _ _ => none
  | .shr _ _ _ _ => none
  | .rot _ _ _ _ => none
  | .icmp _ _ _ _ => none
  | .isat _ _ _ _ => none
  | .bitc _ _ _ => none
  | .bfx _ _ _ _ => none
  | .bfi _ _ _ => none
  | .addr _ _ _ _ _ => none
  | .cchain _ _ _ => none
  | .cstep _ _ _ => none
  | .lscan _ _ _ _ => none
  | .idiv _ _ _ _ => none
  | .fadd _ _ _ _ => none
  | .fsub _ _ _ _ => none
  | .fmul _ _ _ _ => none
  | .ffma _ _ _ _ => none
  | .fmin _ _ _ => none
  | .fmax _ _ _ => none
  | .fminn _ _ _ => none
  | .fmaxn _ _ _ => none
  | .fcmp _ _ _ _ => none
  | .fsgn _ _ _ _ => none
  | .frcp _ _ _ => none
  | .frsq _ _ _ => none
  | .fsqrt _ _ _ => none
  | .fdiv _ _ _ _ => none
  | .fexp2 _ _ _ => none
  | .flog2 _ _ _ => none
  | .fred _ _ => none
  | .frmax _ _ _ => none
  | .frmin _ _ _ => none
  | .cvtf _ _ _ _ _ _ => none
  | .cvti _ _ _ _ _ => none
  | .cvtif _ _ _ _ _ _ => none
  | .cvt4 _ _ _ _ _ => none
  | .mxpack _ _ _ _ => none
  | .mxunpk _ _ _ _ => none
  | .scpack _ _ _ _ _ _ _ => none
  | .scunpk _ _ _ _ _ => none
  | .fclass _ _ => none
  | .fround _ _ _ _ => none
  | .fscale _ _ _ _ => none
  | .pcarve a => some (s.poolAccepts 0 [a] [fld (s.srcSca a) 29 28])
  | .pcommit _ l z => some (s.poolAccepts 0 [] (soriOf l z))
  | .pmap a => some (s.poolAccepts 0 [a] (mwSori (s.srcSca a)))
  | .pstat _ _ _ _ => none
  | .pgather _ a _ z _ _ _ => some (s.poolAccepts 1 [a] [z.toNat])
  | .pissue _ z all _ _ => some (s.poolAccepts 1 [] (soriOf all z))
  | .pissuex _ z all _ _ => some (s.poolAccepts 1 [] (soriOf all z))
  | .pdrain _ a _ _ z _ => some (s.poolAccepts 2 [a] [z.toNat])
  | .pclear _ a z _ => some (s.poolAccepts 2 [a] [z.toNat])
  | .psort _ a z _ => some (s.poolAccepts 2 [a] [z.toNat])
  | .psortk _ _ _ z _ => some (s.poolAccepts 2 [] [z.toNat])
  | .psave _ _ _ => none
  | .prestore _ _ _ _ => none
  | .pqstat _ _ _ => none
  | .steer _ _ _ _ => none
  | .merge _ _ _ _ => none
  | .lexit _ _ _ => none
  | .gate _ _ _ => none
  | .dup _ _ _ => none
  | .zipt _ _ _ => none
  | .talloc _ _ _ => some s.tagRoom
  | .tfree _ _ => none
  | .troute _ _ _ _ => none
  | .isect _ _ _ _ _ => none
  | .union _ _ _ _ _ => none
  | .fibre _ _ _ _ => none
  | .packv _ _ => none
  | .splitv _ _ _ => none
  | .compact _ _ => none
  | .order _ _ _ => none
  | .switch _ _ _ _ => none
  | .poison _ _ => none
  | .ends _ _ _ => none
  | .chocc _ _ => none
  | .vld _ _ => none
  | .vst _ _ _ => none
  | .vldx _ _ _ _ => none
  | .vstx _ _ _ _ => none
  | .gld _ _ _ _ => none
  | .gst _ _ _ _ _ => none
  | .sport _ _ _ _ => none
  | .sreq _ _ _ _ => none
  | .sgath _ _ _ => none
  | .tilest _ _ _ _ _ => none
  | .tileq _ _ _ => none
  | .valloc _ _ _ _ _ _ => none
  | .vfree _ => none
  | .pref _ _ _ => none
  | .glda _ _ _ _ _ _ => none
  | .gstr _ _ _ _ _ _ => none
  | .fence _ _ => none
  | .fencex _ => none
  | .fencep _ => none
  | .seqkey _ _ _ => none
  | .perfw _ => none
  | .mcsync _ => none
  | .aadd _ _ _ _ _ _ _ => none
  | .aand _ _ _ _ _ _ _ => none
  | .aor _ _ _ _ _ _ _ => none
  | .axor _ _ _ _ _ _ _ => none
  | .amin _ _ _ _ _ _ _ _ => none
  | .amax _ _ _ _ _ _ _ _ => none
  | .axchg _ _ _ _ _ _ _ => none
  | .acas _ _ _ _ _ _ _ => none
  | .afadd _ _ _ _ _ _ => none
  | .afmin _ _ _ _ _ _ => none
  | .afmax _ _ _ _ _ _ => none
  | .awadd _ _ _ _ _ => none
  | .ainc _ _ _ _ _ _ _ _ => none
  | .abit _ _ _ _ _ _ _ _ => none
  | .map _ _ _ _ _ => none
  | .unmap _ _ _ _ _ => none
  | .protect _ _ _ _ _ _ _ => none
  | .migrate _ _ _ _ => none
  | .xinval _ _ _ _ => none
  | .adread _ _ _ _ _ _ => none
  | .xprobe _ _ _ => none
  | .xsync _ _ => none
  | .copy _ _ q _ _ _ _ _ _ => some (decide (s.copyTaken (regionOf s.cur.cid) q.toNat < 16))
  | .dtoken _ _ _ _ => none
  | .tbarr _ _ _ _ => none
  | .tbwait _ _ _ => none
  | .tbany _ _ => none
  | .nbar _ _ _ _ => none
  | .gbar _ _ _ _ _ => none
  | .timew _ _ _ => none
  | .timer _ _ => none
  | .rand _ _ _ => none
  | .launch _ _ _ => some (decide (s.queued false + s.reading < 256))
  | .joinc _ _ => none
  | .cfgnextStep _ => none
  | .cfgnextPost _ cfg => some (s.postRoom cfg.toNat)
  | .strand _ _ _ _ => none
  | .retire _ _ _ => none
  | .prio _ _ _ _ => none
  | .trap _ _ => none
  | .tret _ _ _ => none
  | .ctxsw _ _ => none
  | .qstop _ _ _ => none
  | .errlog _ _ _ => none
  | .mcmp _ _ => none
  | .attest _ _ => some (decide (s.pkg.trust.attQ.length < 16))
  | .cfgld _ _ => none
  | .cfgsig _ _ _ => none
  | .sysrd _ _ _ => none
  | .resultWriteback _ => none
  | .idleExpiry _ => none
  | .timewWake _ => none
  | .sharedUnitFree _ _ => none
  | .tokenSend _ _ => none
  | .tokenArrival _ => none
  | .deadlock _ => none
  | .mcastStall _ _ => none
  | .trapQueueDelivery _ => none
  | .traprec => none
  | .packetDelivery => none
  | .packetAcceptance _ => none
  | .regionGrant _ => none
  | .priorityRankUpdate _ => none
  | .imageLoad _ => none
  | .configurationLoad _ _ => none
  | .stepPlacement _ _ => none
  | .stepDrain _ _ => none
  | .launchCompletion _ => none
  | .completionReport _ => none
  | .eviction _ _ => none
  | .evictionSave _ _ => none
  | .restore _ => none
  | .quiescentPoint _ => none
  | .accessPerform _ _ => none
  | .keyedApply _ _ => none
  | .portReturn _ _ => none
  | .streamRequest _ _ => none
  | .sgathRowEmit _ _ => none
  | .mergeWindowClose _ _ => none
  | .bulkAgeing _ => none
  | .dlmiss _ => none
  | .hbmue _ _ => none
  | .tileCloseDone _ _ => none
  | .tileFreeDone _ _ => none
  | .poolQueueEntry _ => none
  | .carveStage _ _ => none
  | .commitCheck _ _ => none
  | .groupRelease _ _ _ => none
  | .leafJoin _ _ _ => none
  | .gatherRowFetch _ _ _ => none
  | .passStart _ _ => none
  | .passRootApply _ _ _ => none
  | .drainStart _ _ => none
  | .drainPacketEmit _ _ => none
  | .drainTileWriteDone _ _ => none
  | .clearStart _ _ => none
  | .sortAppend _ _ => none
  | .sortEmit _ _ => none
  | .poolecc _ _ _ _ => none
  | .copyQueueEntry _ => none
  | .copyRun _ _ => none
  | .copyCompletion _ _ => none
  | .generationClose _ _ => none
  | .barrierInstanceComplete _ => none
  | .translationEventEntry _ => none
  | .invalidationAck _ => none
  | .repatch _ => none
  | .patchFetch _ _ _ => none
  | .dirtyUpdate _ _ _ => none
  | .migrateFreeze _ => none
  | .migrateCopy _ => none
  | .migrateRemap _ => none
  | .migrateReplay _ => none
  | .translationCompletion _ => none
  | .killPropagation _ _ => none
  | .cfgecc _ => none
  | .cfgeccThaw _ _ => none
  | .stateecc _ => none
  | .attestQuoteDone => none
  | .ptpSync _ => none
  | .lockedEntry => none
  | .holdoverEntry => none
  | .fabricFlit _ _ => none
  | .powerOn => none
  | .firmwareVerify => none
  | .hbmTraining _ => none
  | .vaultRowTest _ => none
  | .ucieTraining _ => none
  | .fabricTraining _ => none
  | .regionRelease => none
  | .repairWindowStart _ => none
  | .ident _ => none
  | .fwload _ _ => none
  | .reset _ => none
  | .setpkg _ _ => none
  | .route _ _ => none
  | .tmaster _ _ => none
  | .sysload _ _ _ _ _ _ => none
  | .submit _ _ _ _ => none
  | .resume _ _ _ => none
  | .kill _ _ => none
  | .memrd _ _ _ => none
  | .memwr _ _ _ => none
  | .keyadd _ _ => none
  | .keydel _ _ => none
  | .ksnew _ _ => none
  | .ksdel _ _ => none
  | .quote _ _ _ => none
  | .manif _ _ => none
  | .rmap _ _ => none
  | .repair _ _ _ => none
  | .badframe _ _ => none
  | .controlPortLinkChange _ => none
  | .coreCurrentPeak _ => none
  | .syncTransmit => none

/-- The further condition of an instruction's entry (R77 condition 7), beside `room`. -/
def State.extra (s : State) (i : Instr) : Bool :=
  match i with
  | .nop => true
  | .idle _ => true
  | .halt => true
  | .pset _ _ _ => true
  | .plog _ _ _ _ _ => true
  | .pany _ _ _ _ _ => true
  | .pall _ _ _ _ _ => true
  | .mov _ _ _ => true
  | .movi _ _ => true
  | .lit _ _ _ _ => true
  | .sel _ _ _ _ => true
  | .deq _ => true
  | .emit _ _ _ _ => true
  | .tagset _ _ _ _ => true
  | .hdread _ _ _ => true
  | .fcount _ => true
  | .maskset _ _ => true
  | .brk _ => true
  | .iadd _ _ _ _ => true
  | .isub _ _ _ _ => true
  | .imul _ _ _ _ => true
  | .imulh _ _ _ _ => true
  | .imad _ _ _ _ => true
  | .iaddi _ _ _ => true
  | .imin _ _ _ _ => true
  | .imax _ _ _ _ => true
  | .and _ _ _ _ => true
  | .or _ _ _ _ => true
  | .xor _ _ _ _ => true
  | .shl _ _ _ => true
  | .shr _ _ _ _ => true
  | .rot _ _ _ _ => true
  | .icmp _ _ _ _ => true
  | .isat _ _ _ _ => true
  | .bitc _ _ _ => true
  | .bfx _ _ _ _ => true
  | .bfi _ _ _ => true
  | .addr _ _ _ _ _ => true
  | .cchain _ _ _ => true
  | .cstep _ _ _ => s.my.chain.armed && !s.my.chain.spent && !s.leaving
  | .lscan _ _ _ _ => true
  | .idiv _ _ _ _ => freeAt s.cycle s.myElem.divBusy
  | .fadd _ _ _ _ => true
  | .fsub _ _ _ _ => true
  | .fmul _ _ _ _ => true
  | .ffma _ _ _ _ => true
  | .fmin _ _ _ => true
  | .fmax _ _ _ => true
  | .fminn _ _ _ => true
  | .fmaxn _ _ _ => true
  | .fcmp _ _ _ _ => true
  | .fsgn _ _ _ _ => true
  | .frcp _ _ _ => freeAt s.cycle s.myElem.sfuBusy
  | .frsq _ _ _ => freeAt s.cycle s.myElem.sfuBusy
  | .fsqrt _ _ _ => freeAt s.cycle s.myElem.sfuBusy
  | .fdiv _ _ _ _ => freeAt s.cycle s.myElem.sfuBusy
  | .fexp2 _ _ _ => freeAt s.cycle s.myElem.sfuBusy
  | .flog2 _ _ _ => freeAt s.cycle s.myElem.sfuBusy
  | .fred _ _ => true
  | .frmax _ _ _ => true
  | .frmin _ _ _ => true
  | .cvtf _ _ _ _ _ _ => true
  | .cvti _ _ _ _ _ => true
  | .cvtif _ _ _ _ _ _ => true
  | .cvt4 _ _ _ _ _ => true
  | .mxpack _ _ _ _ => true
  | .mxunpk _ _ _ _ => true
  | .scpack _ _ _ _ _ _ _ => true
  | .scunpk _ _ _ _ _ => true
  | .fclass _ _ => true
  | .fround _ _ _ _ => true
  | .fscale _ _ _ _ => true
  | .pcarve _ => true
  | .pcommit _ _ _ => true
  | .pmap _ => true
  | .pstat _ _ _ _ => true
  | .pgather _ _ _ _ tile _ _ => s.engineFree && s.tileReady (regionOf s.cur.cid) tile.toNat
  | .pissue _ _ _ _ _ => true
  | .pissuex _ _ _ _ _ => true
  | .pdrain _ a _ to_ _ _ => to_ == 0 || (s.engineFree && s.drainTakes a)
  | .pclear _ _ _ _ => true
  | .psort _ _ _ _ => true
  | .psortk _ _ _ _ _ => true
  | .psave _ _ z => s.engineFree && s.nodeIdle (regionOf s.cur.cid) z.toNat
  | .prestore _ _ _ _ => s.engineFree
  | .pqstat _ _ _ => true
  | .steer d a b m => s.planReady (s.planSteer d a b (m == 1))
  | .merge d a b m => s.planReady (s.planMerge d a b m.toNat)
  | .lexit d a b => s.planReady (s.planLexit d a b)
  | .gate d a b => s.planReady (s.planGate d a b)
  | .dup d a n => s.planReady (s.planDup d a (n.toNat + 2))
  | .zipt d a b => s.planReady (s.planZipt d a b)
  | .talloc _ _ _ => true
  | .tfree _ _ => true
  | .troute d a g v => s.planReady (s.planTroute d a g (v == 1))
  | .isect d a b q p => s.planReady (s.planFibres false d a b (q == 1) (p == 1))
  | .union d a b q p => s.planReady (s.planFibres true d a b (q == 1) (p == 1))
  | .fibre d a b m => s.planReady (s.planFibre d a b m.toNat)
  | .packv d a => s.planReady (s.planPackv d a)
  | .splitv d a w => s.planReady (s.planSplitv d a (if w = 0 then 96 else if w = 1 then 64 else if w = 2 then 32 else 16))
  | .compact _ _ => true
  | .order _ _ _ => true
  | .switch d a b m => s.planReady (s.planSwitch d a b (m.toNat + 1))
  | .poison _ _ => true
  | .ends _ a _ => s.endsReady a
  | .chocc _ _ => true
  | .vld _ _ => true
  | .vst _ _ _ => true
  | .vldx _ _ _ _ => true
  | .vstx _ _ _ _ => true
  | .gld _ _ _ _ => true
  | .gst _ _ _ _ _ => true
  | .sport _ p _ _ => (s.sport p.toNat).idleNow
  | .sreq _ a p w => if w = 0 then (s.sport p.toNat).headHere else s.writeTakes a p.toNat
  | .sgath _ _ p => decide ((s.sport p.toNat).mode = .gath) && (s.sport p.toNat).gath.isNone && (s.sport p.toNat).begun s.cycle
  | .tilest _ _ _ _ tile => s.tileReady (regionOf s.cur.cid) tile.toNat
  | .tileq _ o tile => s.tileTakes o.toNat tile.toNat
  | .valloc _ _ _ _ _ _ => true
  | .vfree _ => true
  | .pref _ _ _ => true
  | .glda _ _ _ _ _ _ => true
  | .gstr _ _ _ _ _ _ => true
  | .fence g k => s.fenceHolds s.cur.cid g.toNat k.toNat
  | .fencex _ => s.fencexHolds s.cur.cid
  | .fencep _ => s.fencepHolds s.cur.cid
  | .seqkey _ _ _ => true
  | .perfw c => s.perfwHolds s.cur.cid (c == 1)
  | .mcsync a => (s.headOpt (inNo a)).isSome && s.mcsyncHolds (s.head (inNo a))
  | .aadd _ _ _ _ _ _ _ => true
  | .aand _ _ _ _ _ _ _ => true
  | .aor _ _ _ _ _ _ _ => true
  | .axor _ _ _ _ _ _ _ => true
  | .amin _ _ _ _ _ _ _ _ => true
  | .amax _ _ _ _ _ _ _ _ => true
  | .axchg _ _ _ _ _ _ _ => true
  | .acas _ _ _ _ _ _ _ => true
  | .afadd _ _ _ _ _ _ => true
  | .afmin _ _ _ _ _ _ => true
  | .afmax _ _ _ _ _ _ => true
  | .awadd _ _ _ _ _ => true
  | .ainc _ _ _ _ _ _ _ _ => true
  | .abit _ _ _ _ _ _ _ _ => true
  | .map _ _ _ _ _ => s.eventRoom
  | .unmap _ _ _ _ _ => s.eventRoom
  | .protect _ _ _ _ _ _ _ => s.eventRoom
  | .migrate _ _ _ _ => s.eventRoom
  | .xinval _ _ _ _ => s.eventRoom
  | .adread _ _ _ _ _ _ => s.eventRoom
  | .xprobe _ _ _ => s.eventRoom
  | .xsync _ _ => s.eventRoom
  | .copy _ a _ _ _ _ dep2 dep1 dep0 => s.copyReady a (depInputs dep2 dep1 dep0)
  | .dtoken d a b m => s.planReady (s.planDtoken d a b) && (m == 0 || s.fencepHolds s.cur.cid)
  | .tbarr _ _ _ k => k != 1 || s.released 3
  | .tbwait _ a b => s.tbwaitHolds a b.toNat
  | .tbany _ a => s.tbanyHolds a
  | .nbar _ _ _ _ => s.released 3
  | .gbar _ _ _ o _ => s.released (if o = 1 then 6 else 5)
  | .timew _ _ _ => true
  | .timer _ _ => true
  | .rand _ _ _ => freeAt s.cycle s.myElem.sm4Busy
  | .launch _ _ _ => s.engineFree && s.fencepHolds s.cur.cid
  | .joinc _ a => s.joinHolds a
  | .cfgnextStep _ => true
  | .cfgnextPost _ _ => true
  | .strand _ _ _ c => c.toNat < 4 || !s.leaving
  | .retire _ _ _ => true
  | .prio _ _ _ _ => true
  | .trap _ _ => true
  | .tret _ _ _ => true
  | .ctxsw _ _ => true
  | .qstop _ a c => c != 0 || s.allStopped (regionOf s.cur.cid) (s.srcSca a)
  | .errlog _ _ _ => true
  | .mcmp _ _ => true
  | .attest _ _ => true
  | .cfgld _ _ => true
  | .cfgsig _ _ _ => true
  | .sysrd _ _ _ => true
  | .resultWriteback _ => true
  | .idleExpiry _ => true
  | .timewWake _ => true
  | .sharedUnitFree _ _ => true
  | .tokenSend _ _ => true
  | .tokenArrival _ => true
  | .deadlock _ => true
  | .mcastStall _ _ => true
  | .trapQueueDelivery _ => true
  | .traprec => true
  | .packetDelivery => true
  | .packetAcceptance _ => true
  | .regionGrant _ => true
  | .priorityRankUpdate _ => true
  | .imageLoad _ => true
  | .configurationLoad _ _ => true
  | .stepPlacement _ _ => true
  | .stepDrain _ _ => true
  | .launchCompletion _ => true
  | .completionReport _ => true
  | .eviction _ _ => true
  | .evictionSave _ _ => true
  | .restore _ => true
  | .quiescentPoint _ => true
  | .accessPerform _ _ => true
  | .keyedApply _ _ => true
  | .portReturn _ _ => true
  | .streamRequest _ _ => true
  | .sgathRowEmit _ _ => true
  | .mergeWindowClose _ _ => true
  | .bulkAgeing _ => true
  | .dlmiss _ => true
  | .hbmue _ _ => true
  | .tileCloseDone _ _ => true
  | .tileFreeDone _ _ => true
  | .poolQueueEntry _ => true
  | .carveStage _ _ => true
  | .commitCheck _ _ => true
  | .groupRelease _ _ _ => true
  | .leafJoin _ _ _ => true
  | .gatherRowFetch _ _ _ => true
  | .passStart _ _ => true
  | .passRootApply _ _ _ => true
  | .drainStart _ _ => true
  | .drainPacketEmit _ _ => true
  | .drainTileWriteDone _ _ => true
  | .clearStart _ _ => true
  | .sortAppend _ _ => true
  | .sortEmit _ _ => true
  | .poolecc _ _ _ _ => true
  | .copyQueueEntry _ => true
  | .copyRun _ _ => true
  | .copyCompletion _ _ => true
  | .generationClose _ _ => true
  | .barrierInstanceComplete _ => true
  | .translationEventEntry _ => true
  | .invalidationAck _ => true
  | .repatch _ => true
  | .patchFetch _ _ _ => true
  | .dirtyUpdate _ _ _ => true
  | .migrateFreeze _ => true
  | .migrateCopy _ => true
  | .migrateRemap _ => true
  | .migrateReplay _ => true
  | .translationCompletion _ => true
  | .killPropagation _ _ => true
  | .cfgecc _ => true
  | .cfgeccThaw _ _ => true
  | .stateecc _ => true
  | .attestQuoteDone => true
  | .ptpSync _ => true
  | .lockedEntry => true
  | .holdoverEntry => true
  | .fabricFlit _ _ => true
  | .powerOn => true
  | .firmwareVerify => true
  | .hbmTraining _ => true
  | .vaultRowTest _ => true
  | .ucieTraining _ => true
  | .fabricTraining _ => true
  | .regionRelease => true
  | .repairWindowStart _ => true
  | .ident _ => true
  | .fwload _ _ => true
  | .reset _ => true
  | .setpkg _ _ => true
  | .route _ _ => true
  | .tmaster _ _ => true
  | .sysload _ _ _ _ _ _ => true
  | .submit _ _ _ _ => true
  | .resume _ _ _ => true
  | .kill _ _ => true
  | .memrd _ _ _ => true
  | .memwr _ _ _ => true
  | .keyadd _ _ => true
  | .keydel _ _ => true
  | .ksnew _ _ => true
  | .ksdel _ _ => true
  | .quote _ _ _ => true
  | .manif _ _ => true
  | .rmap _ _ => true
  | .repair _ _ _ => true
  | .badframe _ _ => true
  | .controlPortLinkChange _ => true
  | .coreCurrentPeak _ => true
  | .syncTransmit => true

/-- An instruction of the slot in hand may fire, its claims apart. -/
def State.instrHolds (s : State) (i : Instr) : Bool :=
  s.regsFree i && s.extra i && ((useOf i).outs.isEmpty || s.engineFree)

/-! ### Slots and contexts (R76, R77) -/

/-- The word of a slot; an absent one is a literal slot. -/
def Ctx.word (k : Ctx) (j : Nat) : Word := k.slots.getD j 0xFC000000#32
/-- What a slot decodes to, with the slot after it as its literal. -/
def Ctx.decodeAt (k : Ctx) (j : Nat) : Except DecErr Instr := decode (k.word j) (if j = 31 then none else some (k.word (j + 1)))
/-- The TRIG field of a slot. -/
def Ctx.trig (k : Ctx) (j : Nat) : Nat := fld (k.word j) 31 26

/-- The state with a slot in hand. -/
def State.at_ (s : State) (c j : Nat) : State :=
  { s with cur := { cid := c, slot := j, rule := (s.ctx c).rules.getD ((s.ctx c).trig j) 0 } }

/-- A slot of a context may fire, its claims apart; a word that is no instruction asks only for its rule (R417). -/
def State.slotHolds (s : State) (c j : Nat) : Bool :=
  (s.ctx c).trig j != 63 && (s.at_ c j).ruleHolds
    && (match (s.ctx c).decodeAt j with | .ok i => (s.at_ c j).instrHolds i | .error _ => true)

/-- The claim of a slot stands: nothing it needs was taken by an earlier firing. -/
def State.slotRoom (s : State) (c j : Nat) : Option Bool :=
  match (s.ctx c).decodeAt j with | .ok i => (s.at_ c j).room i | .error _ => none

/-- A context is not suspended (R76, R100, R377, R423). -/
def Wait.passed (w : Wait) (now : Nat) : Bool :=
  match w with
  | .none => true
  | .idle n => decide (n ≤ now)
  | .resumed n => decide (n ≤ now)
  | .timew _ _ => false
  | .held _ _ => false

/-- A context's resident lets it fire: it is released and runs, or is frozen at its sources alone (R74, R392, R412). -/
def ResPhase.fires (p : ResPhase) : Bool :=
  match p with
  | .running => true
  | .evicting => true
  | .loading _ => false
  | .finished => false
  | .draining _ => false

/-- A context is a candidate (R76, R417, R429). -/
def State.candidate (s : State) (c : Nat) : Bool :=
  let t := (s.ctx c).ctl
  (match s.res c with | some p => p.phase.fires | none => false)
    && t.released && !t.halted && t.trap.isNone && t.wait.passed s.cycle && decide (t.reload ≤ s.cycle)
    && !(s.region (regionOf c)).frozenAt s.cycle

/-- A firing that stopped before its decision point goes on: its page is there, or it waits for its turn alone (R93). -/
def State.goesOn (s : State) (c : Nat) : Option Nat :=
  match (s.ctx c).ctl.wait with
  | .held j none => some j
  | .held j (some va) =>
    (match s.reach (s.asidOf c) (decide (ctxOf c < 4)) false va 1 with
    | .np _ => none
    | .hold => none
    | .fail _ _ => some j
    | .ok _ => some j)
  | .none => none
  | .idle _ => none
  | .resumed _ => none
  | .timew _ _ => none

end Sys2Proof.Machine
end

