-- ==== Sys2Proof/Machine/Cycle.lean ====
section
/-! DEFINITION. One cycle of the package (log entry 2): what is due as it starts, which slots fire, what is due by its end, and what is
counted once it is over (R76 to R82, R95, R234, R338). -/

namespace Sys2Proof.Machine

/-! ### The start of a cycle -/

/-- A nanosecond of the correction is due: at most one in 5,000, which is 200 parts per million, and none that would turn the counter back. -/
def Time.slews (t : Time) (n : Nat) : Bool := decide (5000 ≤ t.slewAcc + n) && (decide (0 < t.slew) || (decide (t.slew < 0) && decide (0 < n)))

/-- The clock after one arithmetic-clock cycle of 20/21 ns, longer while the package stretches its cycles, with its discipline's slew (R374,
R450). -/
def Time.advance (t : Time) (extra : Nat) : Time :=
  let f := t.frac + 20
  let n := f / 21 + extra
  let u : Time := { t with frac := f % 21, sinceSync := t.sinceSync + n, sinceTx := t.sinceTx + n, sinceIn := t.sinceIn + n }
  if t.slews n then
    (if 0 < t.slew then { u with tsc := t.tsc + BitVec.ofNat 64 (n + 1), slew := t.slew - 1, slewAcc := 0 }
     else { u with tsc := t.tsc + BitVec.ofNat 64 (n - 1), slew := t.slew + 1, slewAcc := 0 })
  else { u with tsc := t.tsc + BitVec.ofNat 64 n, slewAcc := min 5000 (t.slewAcc + n) }

/-- The next cycle, in which the nodes are free again that are not busy longer and deadline requests have ended (R257, R269, R324), and with it
the clock once the part has passed the first step of its bring-up (R451). -/
def State.clock (s : State) : State :=
  let s1 := { s with cycle := s.cycle + 1, pkg := { s.pkg with served := s.pkg.served.filter (fun v => decide (s.cycle < v.2.until_)),
                                                               deadlines := s.pkg.deadlines.filter fun d => decide (s.cycle < d.until_) } }
  if s.pkg.bring.step < 2 then s1
  else s1.updPkg fun p => { p with time := p.time.advance (if p.stretch then Config.stretchNs s.cycle else 0) }

/-- The regions that hold anything. -/
def State.regionNos (s : State) : List Nat := s.regions.map Prod.fst

/-- One request of each port that has not issued tries to, the oldest first; those that wait for a tile wait at its table (R262, R263). -/
def State.pump (s : State) : State :=
  ((s.reqs.filter fun r => !r.issued).foldl (fun (m : State × List (Nat × Nat)) r =>
    if r.tile.isNone && m.2.contains (r.cid, r.port) then m
    else (match m.1.req r.id with | some q => m.1.tryReq q | none => m.1, if r.tile.isNone then (r.cid, r.port) :: m.2 else m.2)) (s, [])).1

/-- What needs no event of its own: commands that a frozen page held are tried again, answers owed to other packages leave, reads of pool state are
answered, writes of CTXSW land, rows that PREF asked for open, requests that waited go on, freed bytes are released, priorities are brought up to
date. -/
def State.upkeep (s : State) : State :=
  let s0 := s.retryAll.payOwed
  let s1 := s0.regionNos.foldl (fun s r => (if (s.region r).probes.isEmpty then s else s.answerProbes r)) s0
  let s2 := s1.regionNos.foldl (fun s r => (if (s.region r).ctlLater.isEmpty then s else s.applyCtl r)) s1
  s2.servePrefs.pump.sweepAllocs.landPrios.refreshPrios

/-- The port a control-port frame comes in on; none for another event. -/
def framePort (i : Instr) : Option Nat :=
  match i with
  | .ident f => f.port | .fwload f _ => f.port | .reset f => f.port | .setpkg f _ => f.port | .route f _ => f.port
  | .tmaster f _ => f.port | .sysload f _ _ _ _ _ => f.port | .submit f _ _ _ => f.port | .resume f _ _ => f.port
  | .kill f _ => f.port | .memrd f _ _ => f.port | .memwr f _ _ => f.port | .keyadd f _ => f.port | .keydel f _ => f.port
  | .ksnew f _ => f.port | .ksdel f _ => f.port | .quote f _ _ => f.port | .manif f _ => f.port | .rmap f _ => f.port
  | .repair f _ _ => f.port | .badframe p _ => p
  | _ => none

/-- The command in hand waits for a migration, or for what it replaces: no later one begins (R442). -/
def State.commandHeld (s : State) : Bool :=
  s.pkg.retries.any fun r => match r with | .read _ _ _ => true | .write _ _ _ => true | .sysload _ _ _ _ _ _ => true | .flit _ => false

/-- The next frame at the merge point (R442): in the order of arrival, of one cycle the primary port's first. One executes in a cycle. -/
def State.nextFrame (s : State) : Option (Nat × Instr) :=
  if s.commandHeld then none
  else (sortBy (fun a b => decide (a.1 < b.1) || (a.1 == b.1 && decide ((framePort a.2).getD 0 < (framePort b.2).getD 0)))
    (s.env.filter fun e => decide (e.1 ≤ s.cycle) && (framePort e.2).isSome)).head?

/-- The events of the outside world that land now. -/
def State.landing (s : State) : List Instr :=
  ((s.env.filter fun e => decide (e.1 ≤ s.cycle) && (framePort e.2).isNone).map Prod.snd) ++ s.nextFrame.toList.map Prod.snd

/-- The events that have still to land. -/
def State.envLeft (s : State) : List (Nat × Instr) :=
  let l := s.env.filter fun e => !decide (e.1 ≤ s.cycle) || (framePort e.2).isSome
  match s.nextFrame with | some e => l.erase e | none => l

/-- The sinks and the tile tables as they stand when the cycle begins, for what reads them in it (R7). -/
def Region.seen (g : Region) : Region :=
  { g with sinksSeen := (List.range 4).map (fun x => (x, SMap.get g.sinks x {})), tilesSeen := g.tiles }

/-- The waits that end as the cycle starts (R100, R377), but in a frozen region (R417). -/
def State.wakes (s : State) : List Instr :=
  s.ctxs.filterMap fun k =>
    if (s.region (regionOf k.1)).frozenAt s.cycle then none
    else match k.2.ctl.wait with
      | .idle n => if n ≤ s.cycle then some (.idleExpiry k.1) else none
      | .timew t _ => if t.toNat ≤ s.now.toNat then some (.timewWake k.1) else none
      | .none => none
      | .resumed _ => none
      | .held _ _ => none

/-- The shared units whose busy time has ended. -/
def State.unitsFree (s : State) : List Instr :=
  s.elems.flatMap fun e =>
    let over_ (b : Option Nat) (u : Nat) : List Instr := match b with | some n => if n ≤ s.cycle then [.sharedUnitFree e.1 u] else [] | none => []
    over_ e.2.divBusy 0 ++ over_ e.2.sfuBusy 1 ++ over_ e.2.sm4Busy 2

/-- The links that can take a token of the state as the cycle starts (R86). -/
def State.sends (s : State) : List Instr :=
  ((s.ctxs.flatMap fun k => (k.2.ch.outr.map Prod.fst).filterMap fun o =>
    if s.sendable k.1 o then some (eidOf k.1, o) else none).eraseDups).map fun p => .tokenSend p.1 p.2

/-- The transaction barriers whose generation closes at the end of this cycle, judged as it starts (R367). -/
def State.closing (s : State) : List Instr :=
  s.regions.flatMap fun g => g.2.tbs.filterMap fun b =>
    if b.2.nseal ≠ 0 ∧ b.2.seals = 0 ∧ b.2.owed = 0 then some (.generationClose g.1 b.1) else none

/-- A new cycle begins: its agenda stands. -/
def State.tick (s : State) : State :=
  let s0 := s.clock.upkeep
  let s1 : State := { s0 with regions := s0.regions.map fun g => (g.1, g.2.seen) }
  let start := s1.landing ++ s1.wakes ++ s1.unitsFree ++ s1.sends
  { s1 with env := s1.envLeft,
            agenda := start.map Act.ev ++ [.choose] ++ s1.closing.map Act.ev ++ [.close, .tally] }

/-! ### Which slots fire (R78, R79, R82) -/

/-- The user contexts of a region in rank order (R94). -/
def Region.ranks (g : Region) : List Nat := [fld g.rfctl 15 14, fld g.rfctl 13 12, fld g.rfctl 11 10, fld g.rfctl 9 8]

/-- The contexts of an element in the order of R79. -/
def State.order (s : State) (e : Nat) : List Nat :=
  let g := s.region (regionOf (8 * e))
  let boosted := if g.rfctl.getLsbD 16 then [] else g.ranks.filter fun x => decide (61 ≤ (s.ctx (8 * e + x)).ctl.starve)
  (boosted ++ 4 :: g.ranks.filter fun x => !boosted.contains x).map fun x => 8 * e + x

/-- The slots of a context whose rules hold, lowest first: the room that an entry asks for is there as the cycle starts (R77, R78). -/
def State.holding (s : State) (c : Nat) : List Nat :=
  if s.candidate c then (List.range (s.ctx c).slots.length).filter fun j => s.slotHolds c j && (s.slotRoom c j).getD true else []

/-- A word of the context reads as uncorrectable in this cycle: the firing it belongs to does not happen (R417). -/
def State.unreadable (s : State) (c : Nat) : Bool := (s.region (regionOf c)).freeze == some (c, s.cycle)

/-- What an element does in a cycle: firings that go on past a wait, and the one it chooses, unless its word cannot be read. -/
def State.elementActs (s : State) (e : Nat) : List Act :=
  let o := s.order e
  let again := o.filterMap fun c => (s.goesOn c).map fun j => Act.fire [(c, j)] []
  let held := o.filter fun c => !(s.holding c).isEmpty
  let l := (held.flatMap fun c => (s.holding c).map fun j => (c, j)).takeWhile fun p => !s.unreadable p.1
  again ++ (if l.isEmpty then [] else [.fire l held])

/-- A slot that waits for its further condition alone (R388, R425). -/
def State.waitsAt (s : State) (c j : Nat) : Option Instr :=
  match (s.ctx c).decodeAt j with
  | .ok i => if (s.ctx c).trig j ≠ 63 ∧ (s.at_ c j).ruleHolds ∧ (s.at_ c j).regsFree i then some i else none
  | .error _ => none

/-- The slots of candidates that wait, with their instructions. -/
def State.waiting (s : State) : List (Nat × Nat × Instr) :=
  (s.ctxs.map Prod.fst).flatMap fun c =>
    if s.candidate c then (List.range (s.ctx c).slots.length).filterMap fun j => (s.waitsAt c j).map fun i => (c, j, i) else []

/-- The child a JOINC waits for (R388, R397). -/
def State.joining (s : State) (w : Nat × Nat × Instr) : Option (Nat × Nat) :=
  match w.2.2 with
  | .joinc _ a =>
    let lid := fld ((s.at_ w.1 w.2.1).srcSca a) 31 0
    match s.child w.1 lid with | .live => some (w.1, lid) | .none => none | .done _ _ => none
  | _ => none

/-- The region and queues of a QSTOP.STOP that waits for them to stop (R425). -/
def State.stopping (s : State) (w : Nat × Nat × Instr) : Option (Nat × Dword) :=
  match w.2.2 with
  | .qstop _ a 0 => some (regionOf w.1, (s.at_ w.1 w.2.1).srcSca a)
  | _ => none

/-- The contexts that wait in JOINC are entered with their children, and the queues QSTOP waits for are told to stop. -/
def State.note (s : State) : State :=
  let ws := s.waiting
  let js := ws.filterMap s.joining
  let s1 := s.updSched fun k => { k with launches := k.launches.map fun (l : Nat × Launch) =>
    (l.1, { l.2 with joiners := (js.filter fun p => p.2 = l.1).map Prod.fst }) }
  (ws.filterMap s.stopping).foldl (fun s p => s.stopQueues p.1 p.2) s1

/-- The elements that hold a context, ascending. -/
def State.elemNos (s : State) : List Nat := (s.ctxs.map fun k => eidOf k.1).eraseDups

/-- Every element chooses, all on the same state; the firings follow in ascending source number. -/
def State.chooseFirings (s : State) : State :=
  { s.note with agenda := (s.elemNos.flatMap s.elementActs) ++ s.agenda }

/-- The starvation counts of an element once a context of it fires (R82). -/
def State.starved (s : State) (c : Nat) (held : List Nat) : State :=
  if (s.region (regionOf c)).rfctl.getLsbD 16 then s
  else (c :: held).foldl (fun s k =>
    if ctxOf k = 4 then s
    else s.updCtx k fun x => x.updCtl fun t => { t with starve := if k = c then 0 else min 63 (t.starve + 1) }) s

/-- A context takes up the firing of a slot: it waits for nothing any more, and its region has moved (R95). A firing that goes on past a wait
has been counted. -/
def State.begin_ (s : State) (c j : Nat) (held : List Nat) : State :=
  let again := match (s.ctx c).ctl.wait with | .held _ _ => true | .none => false | .idle _ => false | .resumed _ => false | .timew _ _ => false
  let s1 := (s.starved c held).updCtx c fun k => k.updCtl fun t => { t with wait := .none }
  (if again then s1 else s1.updRegion (regionOf c) fun g => { g with moved := true }).at_ c j

/-- The slot in hand holds a word that is no instruction: an unassigned operation traps with BADOP and its region freezes for a reload (R51,
R417); to another word the manual gives no effect. -/
def State.badSlot (s : State) (e : DecErr) : Out :=
  if e.code = 3 ∧ e.lsb = 18 then
    .next ((s.takeTrap 0x03).updRegion (regionOf s.cur.cid) fun g => { g with freeze := some (s.cur.cid, s.cycle) })
  else .refused (.illFormed (s.my.word s.cur.slot))

/-- The slot in hand is decoded and its instruction runs. -/
def State.runSlot (s : State) : Out :=
  match s.my.decodeAt s.cur.slot with
  | .ok i => if i.wf then exec i s else .refused (.illFormed (s.my.word s.cur.slot))
  | .error e => s.badSlot e

/-- The first slot of the list that still has what it needs: its context still holds its configuration, and no firing of the cycle has taken the
room it claims. -/
def State.takes (s : State) (l : List (Nat × Nat)) : Option (Nat × Nat) :=
  l.find? fun p => (s.res p.1).isSome && (s.ctx p.1).ctl.released && (s.slotRoom p.1 p.2).getD true

/-- The firing of an element. -/
def State.fire (s : State) (l : List (Nat × Nat)) (held : List Nat) : Out :=
  match s.takes l with
  | some p => (s.begin_ p.1 p.2 held).runSlot
  | none => .next s

/-! ### The end of a cycle -/

/-- Every (region, sorus) that has a node. -/
def State.sori (s : State) : List (Nat × Nat) := s.regions.flatMap fun g => g.2.nodes.map fun n => (g.1, n.1)

/-- Writebacks of the cycle, and tokens whose last beat has come in. -/
def State.linkEnds (s : State) : List Instr :=
  ((s.ctxs.filter fun k => k.2.pend.any fun p => match p.due with | some d => decide (d ≤ s.cycle) | none => false).map fun k => .resultWriteback k.1)
    ++ (s.flight.filter fun f => decide (f.at_ ≤ s.cycle + 1)).map fun f => .tokenArrival f.id

/-- Requests in ascending source number, a context's oldest first. -/
def State.reqsBySource (s : State) : List Req := sortBy (fun a b => decide (a.cid < b.cid)) s.reqs

/-- What memory, its ports and the tile table do. A vault bank serves its requests in ascending source number (R257); what is placed in keyed mode
is applied there in its turn, and then all of it in the order of the extended keys (R301). -/
def State.memEnds (s : State) : List Instr :=
  let lanes (r : Req) (f : Acc → Bool) : List Nat := (r.accs.filter f).map Acc.lane
  let comes (a : Acc) : Bool := a.st = .placed || (a.st = .flight && decide (a.due ≤ s.cycle))
  let vault (a : Acc) : Bool := match a.pa with | some p => !isHbm p | none => false
  (s.ctxs.flatMap fun k => k.2.ports.filterMap fun p =>
      if p.2.mode = .read ∨ p.2.mode = .gath then some (.streamRequest k.1 p.1) else none)
    ++ (s.reqsBySource.flatMap fun r =>
      ((lanes r fun a => (a.st = .flight && decide (a.due ≤ s.cycle)) || (r.tile.isSome && r.settled)).map fun l => .accessPerform r.id l)
        ++ if r.keyed then (lanes r fun a => comes a && vault a).map fun l => .keyedApply r.id l else [])
    ++ ((sortBy (fun (a b : Req) => decide (a.ext < b.ext)) (s.reqs.filter fun r => r.keyed)).flatMap fun r =>
      (lanes r comes).map fun l => .keyedApply r.id l)
    ++ (((s.reqs.filter fun r => decide (r.port < 4)).map fun r => (r.cid, r.port)).eraseDups.map fun p => .portReturn p.1 p.2)
    ++ (s.ctxs.flatMap fun k => k.2.ports.filterMap fun p => if p.2.gath.isSome then some (.sgathRowEmit k.1 p.1) else none)
    ++ (((s.pkg.merge.filter fun e => decide (e.opened + 32 ≤ s.cycle ∨ 64 ≤ e.cols)).map fun e => (e.ch, e.row)).eraseDups.map fun p =>
      .mergeWindowClose p.1 p.2)
    ++ ((s.reqs.filter fun r => r.cls = 1 ∧ r.cycle + 4096 ≤ s.cycle).map fun r => .bulkAgeing r.id)
    ++ s.regions.flatMap fun g => g.2.tiles.flatMap fun t => [.tileCloseDone g.1 t.1, .tileFreeDone g.1 t.1]

/-- What the pool does: passes and drains before new carvings, and commands enter last. -/
def State.poolEnds (s : State) : List Instr :=
  let each (f : Nat → Nat → Instr) : List Instr := s.sori.map fun p => f p.1 p.2
  let groups (f : Nat → Nat → Nat → Instr) : List Instr :=
    s.sori.flatMap fun p => ((s.node p.1 p.2).groups.map fun g => cwGid g.word).eraseDups.map fun g => f p.1 p.2 g
  each .passStart ++ each .clearStart ++ groups .passRootApply ++ each .drainStart ++ each .sortAppend ++ each .sortEmit
    ++ each .drainPacketEmit ++ each .drainTileWriteDone ++ each .carveStage ++ each .commitCheck ++ groups .groupRelease ++ groups .leafJoin
    ++ (s.regions.flatMap fun g => ((g.2.gather.map fun k => (k.so, k.lane)).eraseDups).map fun k => .gatherRowFetch g.1 k.1 k.2)
    ++ (s.regions.filter fun g => !g.2.poolIn.isEmpty).map fun g => .poolQueueEntry g.1

/-- A copy queue's head would move a piece now. -/
def State.copyMoves (s : State) (r q : Nat) : Bool :=
  let z := SMap.get (s.region r).copyQ q {}
  match z.cmds with
  | [] => false
  | k :: _ => decide (s.copyDoes r z k = .move)

/-- The copy queues of a region that hold a command. -/
def Region.copying (g : Region) : List Nat := (g.copyQ.filter fun z => !z.2.cmds.isEmpty).map Prod.fst

/-- The copy queue of a region whose piece moves now: its node moves 256 bytes a cycle, for its queues in turn (R359). -/
def State.copyTurn (s : State) (r : Nat) : Option Nat :=
  let mv := (s.region r).copying.filter fun q => s.copyMoves r q
  ((List.range 4).map fun i => (s.cycle + i) % 4).find? fun q => mv.contains q

/-- The vault banks that engines have lines to move at by the end of this cycle, each with the source of the command: the piece of a copy, the rows
of gathers that come in, and the writes of drains (R257). -/
def State.engineAsks (s : State) : List (Nat × Nat) :=
  let asks (c : Nat) (l : List Nat) : List (Nat × Nat) := (vaultLines l).map fun a => (bankOf a, c)
  (s.regions.flatMap fun g =>
      ((match s.copyTurn g.1 with
        | some q => ((SMap.get g.2.copyQ q {}).cmds.take 1).flatMap fun k => asks k.cid (pieceBytes (s.piecePlaces g.1 k))
        | none => [])
      ++ ((g.2.gather.filter fun x => s.rowDue g.1 x).flatMap fun x => asks x.cid (blocksOf (s.rowPieces g.1 x)))
      ++ (g.2.nodes.flatMap fun n =>
        match n.2.tileWrites, n.2.dq.cmds, (n.2.tileWrites.head?).bind fun w => s.tile g.1 w.tile with
        | w :: _, k :: _, some t =>
          let pl := s.redirected [(s.vaultKey (vaultVa g.1 t.offset), 0, w.bytes.length)]
          if s.writeDue g.1 n.1 w k pl then asks w.cid (blocksOf pl) else []
        | _, _, _ => []))).eraseDups

/-- What the copy nodes and barriers do. -/
def State.copyEnds (s : State) : List Instr :=
  (s.regions.flatMap fun g =>
      let qs := g.2.copying
      let mv := qs.filter fun q => s.copyMoves g.1 q
      let next := s.copyTurn g.1
      let run := (qs.filter fun q => !mv.contains q) ++ (match next with | some q => [q] | none => [])
      run.map (Instr.copyRun g.1) ++ qs.map (Instr.copyCompletion g.1) ++ (if g.2.copyIn.isEmpty then [] else [.copyQueueEntry g.1]))
    ++ (s.regions.flatMap fun g => (g.2.nbar.filter fun b => !b.2.leaving.isEmpty).map fun b => .barrierInstanceComplete (32 * g.1 + b.1))
    ++ (s.pkg.gbar.filter fun b => !b.2.leaving.isEmpty).map fun b => .barrierInstanceComplete (8192 + b.1)

/-- The events that a translation event waits for at its stage. -/
def Xev.ends (e : Xev) : List Instr :=
  match e.stage with
  | .sent _ => [.translationEventEntry e.id]
  | .queued => [.translationEventEntry e.id]
  | .inval _ => [.invalidationAck e.id]
  | .acked _ => [.repatch e.id, .migrateFreeze e.id]
  | .frozen _ => [.migrateCopy e.id]
  | .copied _ => [.migrateRemap e.id]
  | .replay _ => [.migrateReplay e.id]
  | .settle _ => [.translationCompletion e.id]
  | .done _ => [.translationCompletion e.id]

/-- What translation and the address generators do. -/
def State.xlatEnds (s : State) : List Instr :=
  s.pkg.xlat.evs.flatMap Xev.ends
    ++ s.regions.flatMap fun g => g.2.res.flatMap fun x => (x.2.gens.filter fun p => (s.headReq (portCid g.1 x.1 p.1) (p.1 % 4)).isSome).flatMap
      fun p => [.patchFetch g.1 x.1 p.1, .dirtyUpdate g.1 x.1 p.1]

/-- The launches a test picks, in the order of the queue and then of acceptance. -/
def State.inOrder (s : State) (f : LState → Bool) : List (Nat × Launch) :=
  sortBy (fun (a b : Nat × Launch) => decide (a.2.order < b.2.order)) (s.pkg.sched.launches.filter fun l => f l.2.st)

/-- The contexts that a sequence may place a step in: region and context. Loads into one region follow the order of acceptance (R74). -/
def State.runs (s : State) : List (Nat × Nat) :=
  ((s.inOrder (· == .loaded)).flatMap fun l => l.2.seqs.map fun q => (q.2.region, q.2.x)) ++ s.pkg.sched.sys.map fun y => (y.1, 4)

/-- What the scheduler and the sequencers do. -/
def State.schedEnds (s : State) : List Instr :=
  let lids := s.pkg.sched.launches.map Prod.fst
  let at_ (f : LState → Bool) : List Nat := (s.inOrder f).map Prod.fst
  let res (f : Nat → Nat → Instr) : List Instr := s.regions.flatMap fun g => g.2.res.map fun p => f g.1 p.1
  (if s.pkg.sched.deliveries.isEmpty then [] else [.packetDelivery])
    ++ (at_ (· == .queued)).map .packetAcceptance
    ++ ((s.grantOrder.take 1).map fun l => .regionGrant l.1)
    ++ (at_ (· == .granted)).map .imageLoad
    ++ (at_ (· == .loaded)).map .restore
    ++ s.runs.map (fun p => .stepPlacement p.1 p.2)
    ++ res .configurationLoad ++ res .stepDrain
    ++ lids.map .launchCompletion ++ lids.map .completionReport
    ++ res .eviction ++ res .evictionSave
    ++ s.regionNos.map .priorityRankUpdate
    ++ (s.regions.filter fun g => decide (64 ≤ g.2.quiet)).map fun g => .quiescentPoint g.1

/-- What the trap queues, the loader's reloads, the trust engine, the clock and the port do. A quote is taken after the windows, the lock changes and
the loads of its cycle, so that it sees them (R438). -/
def State.otherEnds (s : State) : List Instr :=
  ((s.regions.filter fun g => !(g.2.trapIn.isEmpty && g.2.trapQ.isEmpty && g.2.trapOut.isEmpty)).map fun g => .trapQueueDelivery g.1)
    ++ (s.regions.filterMap fun g => match g.2.freeze with
      | some (c, t) => if t + s.repairCycles c ≤ s.cycle then some (.cfgeccThaw g.1 true) else none
      | none => none)
    ++ (s.pkg.trust.windows.map fun w => .repairWindowStart w.1)
    ++ (if s.pkg.bring.step < 7 then [] else [.lockedEntry, .holdoverEntry, .syncTransmit])
    ++ (if s.pkg.trust.attQ.isEmpty then [] else [.attestQuoteDone])
    ++ (if s.pkg.port.pending.isEmpty then [] else [.traprec])

/-- The events due by the end of the cycle come next. -/
def State.closeCycle (s : State) : State :=
  let u := (s.landPosts.updPkg fun p => { p with bankAsks := [] })
  let l := u.copyEnds ++ u.xlatEnds ++ u.schedEnds ++ u.otherEnds
  { u with pkg := { u.pkg with bankAsks := u.engineAsks }, agenda := (u.memEnds ++ u.poolEnds).map Act.ev ++ .back :: l.map Act.ev ++ u.agenda }

/-- The writebacks that are due come next, those of the cycle's accesses and pool commands among them, and the tokens that arrive. -/
def State.backCycle (s : State) : State := { s with agenda := s.linkEnds.map Act.ev ++ s.agenda }

/-! ### Once it is over -/

/-- A countdown of IDLE or TIMEW runs (R95, R377). -/
def Wait.counts (w : Wait) : Bool :=
  match w with | .idle _ => true | .timew _ _ => true | .none => false | .resumed _ => false | .held _ _ => false

/-- Pool commands, copies and barrier instances that a region has completed. -/
def Region.completions (g : Region) : Nat :=
  (g.nodes.map fun n => n.2.cq.done + n.2.oq.done + n.2.dq.done).foldl (· + ·) 0 + (g.copyQ.map fun z => z.2.done).foldl (· + ·) 0
    + (g.nbar.map fun b => b.2.inst).foldl (· + ·) 0

/-- A beat moves on a link of a region. -/
def State.beating (s : State) (r : Nat) : Bool := s.flight.any fun f => regionOf f.src == r && decide (s.cycle < f.at_)

/-- The region made progress in this cycle (R95). -/
def State.progressed (s : State) (r : Nat) : Bool :=
  let g := s.region r
  g.moved || g.progress || g.completions != g.dones || s.beating r || s.genStopped r
    || s.ctxs.any fun k => regionOf k.1 == r && k.2.ctl.wait.counts

/-- Every access of a region still in flight is held at a stopped or held generator (R338): a request there or behind one at its port; no copy
but one that stands, no row a gather unit has still to fetch, and no write of a drain to its tile. -/
def State.still (s : State) (r : Nat) : Bool :=
  let g := s.region r
  let stands (q : Req) : Bool := !q.issued && (q.stopped || s.needsHeld q)
  (s.reqs.all fun q => regionOf q.cid != r || q.over
      || (!q.issued && s.reqs.any fun h => h.cid == q.cid && h.port == q.port && stands h))
    && (g.copyQ.all fun z => z.2.cmds.isEmpty || z.2.stopped || s.copyHeld z.2) && g.copyIn.isEmpty && g.gather.isEmpty
    && g.nodes.all fun n => n.2.tileWrites.isEmpty || n.2.dq.stopped 2

/-- A region's counts at the end of a cycle: the watchdog's (R95), and the cycles of quiet (R338). -/
def State.count (s : State) (r : Nat) : State :=
  let run := (s.region r).rfctl.getLsbD 31 && !(s.region r).rfctl.getLsbD 30
  let wd := if !run then 0 else if (s.region r).frozenAt s.cycle then (s.region r).wdCount else if s.progressed r then 0 else (s.region r).wdCount + 1
  let q := if (s.region r).moved || s.beating r || !s.still r then 0 else (s.region r).quiet + 1
  s.updRegion r fun g => { g with wdCount := wd, quiet := q, moved := false, progress := false, dones := g.completions }

/-- The cycle ends: the kills of the errors found in it follow (R415), and what it counted may raise DEADLOCK or MCAST_STALL (R96, R234). -/
def State.tally (s : State) : State :=
  let s0 := s.killFound
  let s1 := s0.regionNos.foldl State.count s0
  let s2 := (s1.ctxs.map Prod.fst).foldl State.countStalls s1
  let dead := s2.regions.filter fun g => decide (wdLimit g.2.rfctl ≤ g.2.wdCount)
  let stall := s2.ctxs.flatMap fun k => k.2.ch.stall.map fun e => (k.1, e.1)
  { s2 with agenda := (dead.map fun g => Act.ev (.deadlock g.1)) ++ (stall.map fun p => Act.ev (.mcastStall p.1 p.2)) ++ s2.agenda }

end Sys2Proof.Machine
end

