-- ==== Sys2Proof/Machine/Step.lean ====
section
/-! DEFINITION. The step, and a word placed where the next step fetches it (log entry 16 says how a program comes to run). -/

namespace Sys2Proof.Machine

/-- One step: the next act of the cycle's agenda, or, with none left, the start of the next cycle. -/
def step (s : State) : Host.Outcome State Fault Refusal :=
  match s.agenda with
  | [] => .next s.tick
  | a :: rest =>
    let s1 := { s with agenda := rest }
    match a with
    | .fire l held => s1.fire l held
    | .ev i => exec i s1
    | .choose => .next s1.chooseFirings
    | .close => .next s1.closeCycle
    | .back => .next s1.backCycle
    | .tally => .next s1.tally

/-- The context that runs a placed word: of an element of a kind that fires its class, context S for a system instruction (R15, R49). -/
def fetchCid (op : Nat) : Nat :=
  let ks := kindsOf op
  mkCid 0 (if ks.contains .a then 0 else if ks.contains .f then 2 else if ks.contains .m then 5 else 6) (if systemOp op then 4 else 0)

/-- A word, with the word above it as its literal slot, in slots 0 and 1 of a loaded and released context of region 0 whose other slots are empty,
and the firing of slot 0 next on the agenda. -/
def State.withFetchWord (s : State) (_nbits w : Nat) : State :=
  let c := fetchCid (bitsN w 25 18)
  let res : Resident :=
    { lid := 0, asid := 0, keyed := false, g := 0, pos := 0, step := 0, pick := false, gens := [],
      cfg := { num := 0, route := false, window := 16, homectx := ctxOf c, elems := [], wires := [], tiles := [] } }
  let k : Ctx :=
    { slots := [BitVec.ofNat 32 w, BitVec.ofNat 32 (w / 2 ^ 32)] ++ List.replicate 30 0xFC000000#32, ctl := { released := true } }
  { (s.setCtx c k).updRegion 0 (fun g => { g with res := SMap.set g.res (ctxOf c) res }) with agenda := [.fire [(c, 0)] []] }

end Sys2Proof.Machine
end

