-- ==== Sys2Proof/Safety.lean ====
section
/-! DEFINITION. What counts as a safe run, and the words the statements are written in: what a firing changes and leaves alone,
what an event changes and leaves alone, and the canonical form of memory. -/

namespace Sys2Proof.Machine

/-! ### Runs -/

/-- A step that answers a next state: neither a fault nor a refusal. -/
def Out.safe (o : Out) : Prop := ∃ t, o = .next t

/-- n steps lead from s to t. -/
def State.leads : Nat → State → State → Prop
  | 0, s, t => s = t
  | n + 1, s, t => ∃ u, step s = .next u ∧ State.leads n u t

/-- A run of n steps from s is safe: none of them stops. -/
def State.runsSafely (s : State) (n : Nat) : Prop := ∃ t, State.leads n s t

/-- A property that every step keeps. -/
def Kept (p : State → Prop) : Prop := ∀ s t, p s → step s = .next t → p t

/-! ### What a firing changes (R80, R99) -/

/-- Nothing outside context c has changed: no other context, no register, tile, queue or sink of a region, no request, no link, no byte of
memory, nothing of the package. -/
structure SameBut (c : Nat) (s t : State) : Prop where
  ctxs : ∀ d, d ≠ c → t.ctx d = s.ctx d
  elems : t.elems = s.elems
  regions : t.regions = s.regions
  flight : t.flight = s.flight
  fans : t.fans = s.fans
  reqs : t.reqs = s.reqs
  bytes : ∀ a, memGet t.mem a = memGet s.mem a
  pkg : t.pkg = s.pkg
  cycle : t.cycle = s.cycle
  agenda : t.agenda = s.agenda
  cur : t.cur = s.cur

/-- A predicate after the two updates of a rule (R42, R80): the second one stands where both name it. -/
def ruledPred (r : RuleEntry) (old : Nat → Bool) (n : Nat) : Bool :=
  if (ruleU r 1).1 = true ∧ (ruleU r 1).2.2 = n then (ruleU r 1).2.1
  else if (ruleU r 0).1 = true ∧ (ruleU r 0).2.2 = n then (ruleU r 0).2.1
  else old n

/-- A buffer without the head that a slot under rule r reads. -/
def withoutHead (route : Bool) (r : RuleEntry) (k : Nat) (b : List Token) : List Token :=
  match headPos route r k b with
  | none => b
  | some n => listDrop b n

/-- What the end of a firing does to its own context: the rule's two predicate updates, one head fewer on each input that the rule's
dequeue mask or the instruction itself names, and the firing counter one higher. Every register, output register, output tag, flag, slot
state, counter chain, port and mark else is as it was. -/
structure Ruled (s t : State) (own : List Nat) : Prop where
  preds : ∀ n, n < 128 → t.my.p n = ruledPred s.cur.rule s.my.p n
  fcount : t.my.regs.fcount = s.my.regs.fcount + 1
  regs : { t.my.regs with p := s.my.regs.p, fcount := s.my.regs.fcount } = s.my.regs
  buf : ∀ k, t.my.buf k = if k < 8 ∧ (ruleDq s.cur.rule k = true ∨ k ∈ own) then
      withoutHead (s.routeMode s.cur.cid) s.cur.rule k (s.my.buf k) else s.my.buf k
  outr : t.my.ch.outr = s.my.ch.outr
  emtd : t.my.ch.emtd = s.my.ch.emtd
  stall : t.my.ch.stall = s.my.ch.stall
  rest : { t.my with regs := s.my.regs, ch := s.my.ch, pend := s.my.pend } = s.my

/-- t is s after a firing that retires (R80) with a result: its parts are written back `lat` cycles on, and until then the registers and
outputs they name are reserved. -/
def State.FiresWith (s t : State) (lat : Nat) (effs : List Eff) (own : List Nat := []) : Prop :=
  SameBut s.cur.cid s t ∧ Ruled s t own ∧
    t.my.pend = s.my.pend ++ [⟨s.pendNo, some (s.cycle + lat - 1), effs.flatMap Eff.vs, effs.flatMap Eff.xs, effs.flatMap Eff.ps,
      effs.flatMap Eff.os, effs⟩]

/-- t is s after a firing that retires (R80) with no result. -/
def State.FiresBare (s t : State) (own : List Nat := []) : Prop :=
  SameBut s.cur.cid s t ∧ Ruled s t own ∧ t.my.pend = s.my.pend

/-! ### What an instruction completes with -/

/-- From s the instruction answers a next state, which is that of a firing from u (s itself, or s with a change the statement names) that
retires with the given result. -/
def State.GivesFrom (s u : State) (i : Instr) (lat : Nat) (effs : List Eff) (own : List Nat := []) : Prop :=
  ∃ t, exec i s = .next t ∧ u.FiresWith t lat effs own

/-- From s the instruction answers a next state, which is that of a firing that retires with the given result. -/
def State.Gives (s : State) (i : Instr) (lat : Nat) (effs : List Eff) (own : List Nat := []) : Prop := s.GivesFrom s i lat effs own

/-- From s the instruction answers a next state, which is that of a firing from u that retires with no result. -/
def State.EndsFrom (s u : State) (i : Instr) (own : List Nat := []) : Prop := ∃ t, exec i s = .next t ∧ u.FiresBare t own

/-- From s the instruction answers a next state, which is that of a firing that retires with no result. -/
def State.Ends (s : State) (i : Instr) (own : List Nat := []) : Prop := s.EndsFrom s i own

/-- A lane-wise or scalar result of a two-source integer instruction, in the shape its destination selects (R114): `f` at 32 bits in every
lane, or at 64 bits on the scalars; lv and ls are the latencies of the two shapes. -/
def State.GivesInt2 (s : State) (i : Instr) (d : Dst) (a b : Src) (lv ls : Nat) (f : (w : Nat) → BitVec w → BitVec w → BitVec w) : Prop :=
  if isScalar d then s.Gives i ls (s.write d (.sca (f 64 (s.srcSca a) (s.srcSca b))) s.my.regs.mask)
  else s.Gives i lv (s.write d (.vec (Vec.gen fun k => f 32 ((s.srcVec a).get k) ((s.srcVec b).get k))) s.my.regs.mask)

/-- The same for one source. -/
def State.GivesInt1 (s : State) (i : Instr) (d : Dst) (a : Src) (lv ls : Nat) (f : (w : Nat) → BitVec w → BitVec w) : Prop :=
  if isScalar d then s.Gives i ls (s.write d (.sca (f 64 (s.srcSca a))) s.my.regs.mask)
  else s.Gives i lv (s.write d (.vec (Vec.gen fun k => f 32 ((s.srcVec a).get k))) s.my.regs.mask)

/-- The same where D's own value before the firing is read first. -/
def State.GivesInt3 (s : State) (i : Instr) (d : Dst) (a b : Src) (lv ls : Nat)
    (f : (w : Nat) → BitVec w → BitVec w → BitVec w → BitVec w) : Prop :=
  if isScalar d then s.Gives i ls (s.write d (.sca (f 64 (s.dstSca d) (s.srcSca a) (s.srcSca b))) s.my.regs.mask)
  else s.Gives i lv (s.write d (.vec (Vec.gen fun k => f 32 ((s.dstVec d).get k) ((s.srcVec a).get k) ((s.srcVec b).get k))) s.my.regs.mask)

/-- The flags of a result: FSTAT gains them, and a result with none of them has no such part. -/
def flagPart (fl : BitVec 32) : List Eff := if fl = 0 then [] else [.flags fl]

/-- Exactly the flags that some lane under the mask raises. -/
def FlagsOf (mask : Mask) (f : Nat → Fl) (fl : BitVec 32) : Prop :=
  ∀ j, j < 32 → (fl.getLsbD j = true ↔ ∃ k, k < 192 ∧ mask.getLsbD k = true ∧ (f k).bits.getLsbD j = true)

/-- A float result (R155): lane k of the vector written is `f k` for every lane under the mask, and FSTAT gains exactly the flags that some
such lane raised; u is s, or s with a shared unit taken. -/
def State.GivesFloat (s u : State) (i : Instr) (lat : Nat) (d : Dst) (f : Nat → Fr) : Prop :=
  ∃ (v : Vec) (fl : BitVec 32),
    (∀ k, k < 192 → s.my.regs.mask.getLsbD k = true → v.get k = (f k).1) ∧
    FlagsOf s.my.regs.mask (fun k => (f k).2) fl ∧ s.GivesFrom u i lat (s.write d (.vec v) s.my.regs.mask ++ flagPart fl)

/-- A narrowing result (R169): element i of part p of D is `f i` under the mask and unchanged elsewhere, every lane outside the part is
unchanged, and FSTAT gains the flags of the elements converted. -/
def State.GivesNarrow (s : State) (i : Instr) (lat : Nat) (k : BitVec 4) (w p : Nat) (f : Nat → Nat × Fl) : Prop :=
  ∃ (v : Vec) (fl : BitVec 32),
    (∀ n, n < 192 → elemAt w p v n = if s.my.regs.mask.getLsbD n then (f n).1 % 2 ^ w else elemAt w p (s.my.v k.toNat) n) ∧
    (∀ j, j < 192 → (j < p * (6 * w) ∨ (p + 1) * (6 * w) ≤ j) → v.get j = (s.my.v k.toNat).get j) ∧
    FlagsOf s.my.regs.mask (fun n => (f n).2) fl ∧ s.Gives i lat (.vec k.toNat Mask.full v :: flagPart fl)

/-- From s the managed instruction fires as the plan says (R226): the slot has the plan's state, stranded heads are counted, the plan's tokens
are emitted `lat` cycles on, and the heads it takes or strands are removed with the rule's own. -/
def State.Acts (s : State) (i : Instr) (lat : Nat) (p : Plan) : Prop :=
  s.GivesFrom ((s.updCtx s.cur.cid fun k => k.setSlot s.cur.slot p.slot).countStranded s.cur.cid p.strands.length) i lat
    (p.emits.map (fun e => .emit e.1 (s.planTok e.1 e.2)) ++ match p.otag with | some (k, t) => [.otag k t] | none => [])
    (p.takes ++ p.strands)

/-! ### What a float format stands for (R136, R144 to R147) -/

/-- The number that a finite value is; 0 of a NaN or an infinity. -/
def Fv.rat : Fv → Rat
  | .nan _ => 0
  | .inf _ => 0
  | .fin s n e => if s then -((n : Rat) * 2 ^ e) else (n : Rat) * 2 ^ e

/-- The number of an S24 scale word that is not the NaN scale (R142). -/
def s24Rat (w : Nat) : Rat := if w / 65536 = 0 then (w : Rat) * 2 ^ (-142 : Int) else ((65536 + w % 65536 : Nat) : Rat) * 2 ^ ((w / 65536 : Int) - 143)

/-- One value lies below another as a number (R163, R164); no NaN lies below anything. -/
def Fv.below : Fv → Fv → Prop
  | .nan _, _ => False
  | _, .nan _ => False
  | .inf p, .inf q => p = true ∧ q = false
  | .inf p, .fin _ _ _ => p = true
  | .fin _ _ _, .inf q => q = false
  | .fin p n e, .fin q k d => (Fv.fin p n e).rat < (Fv.fin q k d).rat

/-- R144 to R147: r is the encoding and the flags of the positive number x, with sign neg, rounded once into f under a mode, with the random bits
q. Of the neighbours k and k + 1 on the grid at x, the one that the mode takes; a magnitude beyond the greatest finite one overflows. -/
def Rounds (f : Fmt) (mode q : Nat) (neg : Bool) (x : Rat) (r : Nat × Fl) : Prop :=
  ∃ (g : Int) (k n : Nat),
    let tiny : Int := 1 - f.bias
    let at_ (j : Rat) : Rat := j * 2 ^ g
    let half : Rat := at_ (k + 1 / 2)
    let top : Rat := (f.value f.maxF).rat
    (tiny - f.m ≤ g ∧ k < 2 ^ (f.m + 1) ∧ (2 ^ f.m ≤ k ∨ g = tiny - f.m) ∧ at_ k ≤ x ∧ x < at_ (k + 1))
    ∧ (n = k + 1 ↔ x ≠ at_ k ∧
        ((mode = 0 ∨ mode = 6) ∧ (half < x ∨ x = half ∧ k % 2 = 1) ∨ mode = 2 ∧ neg = true ∨ mode = 3 ∧ neg = false ∨ mode = 4 ∧ half ≤ x
          ∨ mode = 5 ∧ ((2 ^ 16 - q : Nat) : Rat) * at_ 1 ≤ 2 ^ 16 * (x - at_ k)))
    ∧ (n = k ∨ n = k + 1)
    ∧ (at_ n ≤ top → r.1 < 2 ^ f.width ∧ (∃ j e, f.value r.1 = .fin neg j e ∧ (j : Rat) * 2 ^ e = at_ n)
        ∧ r.2 = { inx := decide (x ≠ at_ k), unf := decide (x ≠ at_ k ∧ x < 2 ^ tiny) })
    ∧ (top < at_ n → r.2 = { ovf := true, inx := true } ∧
        let most := f.maxF + if neg then 2 ^ (f.width - 1) else 0
        let ulp : Rat := match f.value f.maxF with | .fin _ _ e => 2 ^ e | .inf _ => 0 | .nan _ => 0
        r.1 = if mode = 1 ∨ mode = 6 ∨ (mode = 2 ∧ neg = false) ∨ (mode = 3 ∧ neg = true) ∨ (mode = 5 ∧ x < top + ulp) ∨ f.maxF = 7 then most
          else if f.hasInf then most + 1 else f.nan)

/-- The list halved to one element (R167): element j of level l is the FADD.RNE of two of the level below. -/
def pairTree (x : Nat → Word) : Nat → Nat → Word
  | 0, j => x j
  | l + 1, j => (fadd 0 (pairTree x l (2 * j)) (pairTree x l (2 * j + 1))).1

/-! ### Poison, accesses and events -/

/-- In place of its result the instruction gives poison t, from u (R89): on an output it is emitted `lat` cycles on, else it is counted and
nothing is written. -/
def State.GivesPoison (s u : State) (i : Instr) (d : Dst) (lat : Nat) (t : Token) (own : List Nat := []) : Prop :=
  match d with
  | .out k => s.GivesFrom u i lat [.emit k.toNat (u.stamp s.cur.cid t)] own
  | .v _ => s.EndsFrom (u.countPoison s.cur.cid t) i own
  | .x _ => s.EndsFrom (u.countPoison s.cur.cid t) i own
  | .null => s.EndsFrom (u.countPoison s.cur.cid t) i own

/-- What a firing that accesses memory does (R271, R273, R299): a POISON source propagates; with no active lane nothing is accessed; the first
failing check of the lowest lane that fails one gives its poison to d and no lane accesses memory, unless a lower lane's entry awaits its
repatch, which leaves the verdict to the generator; a key out of order is the precise trap
KEYORDER; else the request is made and the firing retires. -/
def State.Accesses (s : State) (i : Instr) (d : Dst) (srcs : List Src) (h : Shot) : Prop :=
  (∀ q, s.poisoned srcs = some q → s.GivesPoison s i d 1 q) ∧
  (s.poisoned srcs = none →
    (h.accs = [] → s.Ends i) ∧
    (∀ pre a post, h.accs = pre ++ a :: post → (∀ b ∈ pre, s.checkAcc s.cur.cid h.port b = 0 ∧ s.undecided s.cur.cid h.port b = false) →
      s.checkAcc s.cur.cid h.port a ≠ 0 →
      let code := s.checkAcc s.cur.cid h.port a
      s.GivesPoison (s.accPoison s.cur.cid code s.firing.toNat a.va s.my.regs.kr).2 i d 1 (s.poisonNew d code)) ∧
    (h.accs ≠ [] → (∀ pre a post, h.accs = pre ++ a :: post → s.checkAcc s.cur.cid h.port a ≠ 0 →
        ∃ b ∈ pre, s.checkAcc s.cur.cid h.port b = 0 ∧ s.undecided s.cur.cid h.port b = true) →
      if s.keyFault h.port then exec i s = .next (s.takeTrap 0x04) else exec i s = .next ((s.shoot h).retire)))

end Sys2Proof.Machine
end

