-- ==== Sys2Proof/Certificates/Slice0/Obligations.lean ====
section
/-! DEFINITION. The statements for the provers. Each names the rules of the manual it formalises; a clause that rests on a choice of the
model says so and names its log entry. -/

open Sys2Proof Sys2Proof.Machine

/-! ### Element control -/

/-- R97, R100, R101, R107: NOP does nothing of its own; IDLE n keeps its context from being a candidate through cycle c + n; HALT halts it at
the end of the firing; DEQ removes one token, once, even where the rule names the same input. Each is otherwise only the end of a firing. -/
def Obligations.ControlFirings : Prop := ∀ s : State,
  s.Ends .nop
  ∧ s.Ends (.idle 0)
  ∧ (∀ n : BitVec 13, n ≠ 0 →
      s.EndsFrom (s.updCtx s.cur.cid fun k => k.updCtl fun c => { c with wait := .idle (s.cycle + n.toNat + 1) }) (.idle n))
  ∧ (∃ t u, exec .halt s = .next t ∧ s.FiresBare u ∧ t = u.updCtx s.cur.cid fun k => k.updCtl fun c => { c with halted := true })
  ∧ ∀ j : BitVec 3, s.Ends (.deq (.inp j)) [j.toNat]

/-- R102: PSET, PLOG, PANY and PALL write one predicate: of a bank K, the constant, the exclusive or of two, the disjunction or the
conjunction of a range from PS1 to PS2, inverted where INV is set; the update takes effect with latency 1 and nothing else changes. -/
def Obligations.PredicateResults : Prop := ∀ (s : State) (k : BitVec 2) (d a b : BitVec 5),
  let q (j : Nat) : Bool := s.my.p (32 * k.toNat + j)
  let out (r : Bool) : List Eff := [.pred (32 * k.toNat + d.toNat) r]
  s.Gives (.pset k d 0) 1 (out false) ∧ s.Gives (.pset k d 1) 1 (out true)
  ∧ s.Gives (.plog k d a b 0) 1 (out (q a.toNat != q b.toNat)) ∧ s.Gives (.plog k d a b 1) 1 (out (q a.toNat == q b.toNat))
  ∧ (∃ r : Bool, (r = true ↔ ∃ j, a.toNat ≤ j ∧ j ≤ b.toNat ∧ q j = true)
      ∧ s.Gives (.pany k d a b 0) 1 (out r) ∧ s.Gives (.pany k d a b 1) 1 (out !r))
  ∧ (∃ r : Bool, (r = true ↔ ∀ j, a.toNat ≤ j → j ≤ b.toNat → q j = true)
      ∧ s.Gives (.pall k d a b 0) 1 (out r) ∧ s.Gives (.pall k d a b 1) 1 (out !r))


/-! ### Moving values, heads and tags -/

/-- R99, R103: MOV to each kind of destination: a vector register under the mask (every lane with .ALL), an x register, one token on an
output (none for a vector under an all-clear mask), nothing for NULL. The value is what R99's table says the source yields; a head that is
POISON is another statement. R104, R105, R106: MOVI writes its sign-extended immediate; LIT the 32 bits of HI8 above the literal's low 24,
extended for an x register with or without sign; SEL every lane, from S1 where the mask is set and from S2 where it is clear (exchanged under
.N). R35, R36, R85, R89, R115: what each source yields to them and to every later family: a vector register its lanes, LANE its lane numbers,
an x register its low half in every lane, a literal its 32 bits in every lane or sign-extended, a DATA head its lanes (0 where the arrived token
holds none) or its scalar, a MARK its payload, EOS and DRAIN zero. -/
def Obligations.MovesAndConstants : Prop :=
  (∀ (s : State) (a : Src) (m : BitVec 1), s.poisoned [a] = none →
  let mask : Mask := if m = 1 then Mask.full else s.my.regs.mask
  let i (d : Dst) : Instr := .mov d a (m.setWidth 3)
  let tok (k : BitVec 3) (t : Token) : List Eff := [.emit k.toNat (s.stamp s.cur.cid t)]
  s.Gives (i .null) 1 []
  ∧ (∀ (k : BitVec 4) (v : Vec), s.srcVal (.v k) a = .vec v → s.Gives (i (.v k)) 1 [.vec k.toNat mask v])
  ∧ (∀ (k : BitVec 4) (w : Dword), s.srcVal (.v k) a = .sca w → s.Gives (i (.v k)) 1 [.vec k.toNat mask (Vec.splat (w.setWidth 32))])
  ∧ (∀ (k : BitVec 2) (v : Vec), s.srcVal (.x k) a = .vec v → s.Gives (i (.x k)) 1 [.sreg k.toNat (v.get 1 ++ v.get 0)])
  ∧ (∀ (k : BitVec 2) (w : Dword), s.srcVal (.x k) a = .sca w → s.Gives (i (.x k)) 1 [.sreg k.toNat w])
  ∧ (∀ (k : BitVec 3) (v : Vec), s.srcVal (.out k) a = .vec v →
      s.Gives (i (.out k)) 1 (if mask = 0 then [] else tok k (vecTok (s.my.otag k.toNat) mask v)))
  ∧ (∀ (k : BitVec 3) (w : Dword), s.srcVal (.out k) a = .sca w → s.Gives (i (.out k)) 1 (tok k (scaTok (s.my.otag k.toNat) w))))
  ∧ ∀ (s : State) (d : Dst),
  (∀ n : BitVec 13, s.Gives (.movi d n) 1 (s.write d
      (if isScalar d then .sca (n.signExtend 64) else .vec (Vec.splat (n.signExtend 32))) s.my.regs.mask))
  ∧ (∀ (hi : BitVec 8) (lo : BitVec 24),
      s.Gives (.lit d 0 hi lo) 1 (s.write d (if isScalar d then .sca ((hi ++ lo).signExtend 64) else .vec (Vec.splat (hi ++ lo))) s.my.regs.mask)
      ∧ s.Gives (.lit d 1 hi lo) 1 (s.write d (if isScalar d then .sca ((hi ++ lo).setWidth 64) else .vec (Vec.splat (hi ++ lo))) s.my.regs.mask))
  ∧ (∀ (a b : Src) (n : BitVec 1), s.poisoned [a, b] = none → ∃ v : Vec,
      (∀ k, k < 192 → v.get k = if s.my.regs.mask.getLsbD k = (n == 0) then (s.srcVal d a).lanes.get k else (s.srcVal d b).lanes.get k)
      ∧ s.Gives (.sel d a b (n.setWidth 3)) 1 (s.write d (.vec v) Mask.full))
  ∧ (∀ k : BitVec 4, s.srcVal d (.v k) = .vec (s.my.v k.toNat) ∧ s.srcVec (.v k) = s.my.v k.toNat)
  ∧ (let all (a : Src) (w : Word) : Prop := ∀ j, j < 192 → (s.srcVec a).get j = w
    (∃ v : Vec, s.srcVal d .lane = .vec v ∧ s.srcVec .lane = v ∧ ∀ j, j < 192 → v.get j = BitVec.ofNat 32 j)
    ∧ (∀ k : BitVec 2, s.srcVal d (.x k) = .sca (s.my.x k.toNat) ∧ s.srcSca (.x k) = s.my.x k.toNat ∧ all (.x k) ((s.my.x k.toNat).setWidth 32))
    ∧ (s.srcVal d .zero = (if isScalar d then .sca 0 else .vec (s.srcVec .zero)) ∧ s.srcSca .zero = 0 ∧ all .zero 0)
    ∧ (∀ w : BitVec 26,
      let lv := w.extractLsb' 0 24
      let lf := w.extractLsb' 24 2
      let l : Word := if lf = 0 then lv.setWidth 32 else if lf = 1 then lv.signExtend 32 else if lf = 2 then lv ++ 0#8
        else w.extractLsb' 0 16 ++ w.extractLsb' 0 16
      s.srcVal d (.lit w) = (if isScalar d then .sca (l.signExtend 64) else .vec (s.srcVec (.lit w)))
      ∧ s.srcSca (.lit w) = l.signExtend 64 ∧ all (.lit w) l)
    ∧ ∀ k : BitVec 3,
      let h := s.head k.toNat
      (h.kind = kDATA → h.sc = false → s.srcVal d (.inp k) = .vec h.lanes ∧ s.srcVec (.inp k) = h.lanes
          ∧ s.srcSca (.inp k) = h.lanes.get 1 ++ h.lanes.get 0)
      ∧ (h.kind = kDATA ∨ h.kind = kMARK → h.sc = true →
          s.srcVal d (.inp k) = .sca h.scalar ∧ s.srcSca (.inp k) = h.scalar ∧ all (.inp k) (h.scalar.setWidth 32))
      ∧ (h.kind = kEOS ∨ h.kind = kDRAIN → s.srcSca (.inp k) = 0 ∧ all (.inp k) 0))
  ∧ ∀ (g : BitVec 4) (m : Mask) (v : Vec) (j : Nat), j < 192 → (vecTok g m v).lanes.get j = if m.getLsbD j then v.get j else 0


/-- R108, R109: EMIT puts one DATA, MARK or EOS token on its output, a MARK with its level as tag and any other with the output's tag or,
under T, the tag of the slot; a vector under an all-clear mask is no token. TAGSET sets, copies from a head, or increments the output's tag. -/
def Obligations.EmitAndTagset : Prop := ∀ (s : State) (k : BitVec 3) (g : BitVec 4),
  let put (t : Token) : List Eff := [.emit k.toNat (s.stamp s.cur.cid t)]
  let old := s.my.otag k.toNat
  let i (a : Src) (c : BitVec 4) : Instr := .emit (.out k) a g c
  (∀ a, s.poisoned [a] = none →
    let v := (s.srcVal (.out k) a).lanes
    (if s.my.regs.mask = 0 then s.Ends (i a 0) else s.Gives (i a 0) 1 (put (vecTok old s.my.regs.mask v)))
    ∧ (if s.my.regs.mask = 0 then s.Ends (i a 8) else s.Gives (i a 8) 1 (put (vecTok g s.my.regs.mask v)))
    ∧ s.Gives (i a 4) 1 (put (scaTok old (s.srcSca a))) ∧ s.Gives (i a 12) 1 (put (scaTok g (s.srcSca a)))
    ∧ s.Gives (i a 13) 1 (put (markTok g.toNat true (s.srcSca a))))
  ∧ s.Gives (i .zero 9) 1 (put (markTok g.toNat false 0))
  ∧ s.Gives (i .zero 2) 1 (put (eosTok old)) ∧ s.Gives (i .zero 10) 1 (put (eosTok g))
  ∧ s.Gives (.tagset (.out k) .zero g 0) 1 [.otag k.toNat g]
  ∧ (∀ j, s.poisoned [.inp j] = none → s.Gives (.tagset (.out k) (.inp j) 0 1) 1 [.otag k.toNat (s.head j.toNat).tag])
  ∧ s.Gives (.tagset (.out k) .zero 0 2) 1 [.otag k.toNat (old + 1)]

/-- R110, R111, R112: HDREAD gives the word its selector names, of a POISON head as of any other and without removing it; FCOUNT the
counter before this firing; MASKSET the new lane-valid mask. -/
def Obligations.HeadersCountersMasks : Prop := ∀ s : State,
  (∀ (k : BitVec 2) (j : BitVec 3),
    let h := s.head j.toNat
    let i (c : BitVec 4) : Instr := .hdread (.x k) (.inp j) c
    let gives (c : BitVec 4) (w : Dword) : Prop := s.Gives (i c) 1 [.sreg k.toNat w]
    gives 0 (0#45 ++ BitVec.ofNat 8 (Mask.count h.mask) ++ bv1 h.sc ++ bv1 h.sys ++ h.ctx ++ h.tag ++ h.kind)
    ∧ gives 1 (if h.kind = kPOISON then 0#27 ++ h.pcode ++ h.psrc else 0)
    ∧ gives 2 (if h.kind = kPOISON then 0#16 ++ h.pcount else 0)
    ∧ gives 3 (h.mask.extractLsb' 0 64) ∧ gives 4 (h.mask.extractLsb' 64 64) ∧ gives 5 (h.mask.extractLsb' 128 64)
    ∧ gives 6 (if h.sc then h.scalar else if h.kind = kDATA then h.lanes.get 1 ++ h.lanes.get 0 else 0))
  ∧ (∀ k : BitVec 2, s.Gives (.fcount (.x k)) 1 [.sreg k.toNat (0#16 ++ s.my.regs.fcount)])
  ∧ (∀ a, s.poisoned [a] = none →
    let old := s.my.regs.mask
    let gives (c : BitVec 3) (bit : Nat → Bool) : Prop :=
      ∃ m : Mask, (∀ n, n < 192 → m.getLsbD n = bit n) ∧ s.Gives (.maskset a c) 1 [.mask m]
    gives 0 (fun n => (s.srcVec a).get n != 0)
    ∧ gives 1 (fun n => old.getLsbD n && (s.srcVec a).get n != 0)
    ∧ gives 2 (fun n => old.getLsbD n || (s.srcVec a).get n != 0)
    ∧ gives 3 (fun n => decide (n < (s.srcSca a).toNat)))
  ∧ (∀ j, s.poisoned [.inp j] = none →
    let h := s.head j.toNat
    s.Gives (.maskset (.inp j) 4) 1 [.mask (if h.kind = kDATA ∧ h.sc = false then h.mask else 0)])

/-! ### Poison on a source -/

/-- R89, R116: an instruction of the element-control, integer and float families whose source shows a POISON head computes nothing: on an
output the POISON itself goes out at the instruction's latency, with CTX and SYS the only fields changed (of two, the first source's); any
other destination keeps its value and the poison is counted. IDIV and the special-function instructions take their shared unit as ever.
That a poison passes on at the instruction's own latency, and that it takes the unit, is the model's reading (log entry 10).
R410: a counted poison raises its context's sink by one, without passing 2^32 - 1, and the first one leaves its origin there; no other sink
and nothing else changes. Context S has no sink. -/
def Obligations.PoisonPropagates : Prop := ∀ (s : State) (d : Dst) (a b : Src) (m : BitVec 3) (q : Token),
  let gone (i : Instr) (u : State) (lat : Nat) : Prop := match d with
    | .out k => s.GivesFrom u i lat [.emit k.toNat (u.stamp s.cur.cid q)]
    | .v _ => s.EndsFrom (u.countPoison s.cur.cid q) i
    | .x _ => s.EndsFrom (u.countPoison s.cur.cid q) i
    | .null => s.EndsFrom (u.countPoison s.cur.cid q) i
  let lv (v x : Nat) : Nat := if isScalar d then x else v
  (s.poisoned [a, b] = some q →
    gone (.sel d a b m) s 1 ∧ gone (.iadd d a b m) s 1 ∧ gone (.isub d a b m) s 1 ∧ gone (.imul d a b m) s (lv 3 4)
    ∧ gone (.imulh d a b m) s (lv 3 4) ∧ gone (.imad d a b m) s (lv 3 4) ∧ gone (.imin d a b m) s 1 ∧ gone (.imax d a b m) s 1
    ∧ gone (.and d a b m) s 1 ∧ gone (.or d a b m) s 1 ∧ gone (.xor d a b m) s 1 ∧ gone (.shl d a b) s 1 ∧ gone (.shr d a b m) s 1
    ∧ gone (.rot d a b m) s 1 ∧ gone (.icmp d a b m) s 1 ∧ gone (.bfx d a b m) s 1 ∧ gone (.bfi d a b) s 1
    ∧ (∀ h n, gone (.addr d a b h n) s 2) ∧ gone (.lscan d a b m) s 4 ∧ gone (.idiv d a b m) (s.takeDivider (lv 8 16)) (lv 12 22)
    ∧ gone (.fadd d a b m) s 4 ∧ gone (.fsub d a b m) s 4 ∧ gone (.fmul d a b m) s 4 ∧ gone (.ffma d a b m) s 4
    ∧ gone (.fmin d a b) s 2 ∧ gone (.fmax d a b) s 2 ∧ gone (.fminn d a b) s 2 ∧ gone (.fmaxn d a b) s 2 ∧ gone (.fcmp d a b m) s 2
    ∧ gone (.fdiv d a b m) (s.takeSfu 8) 14 ∧ gone (.fscale d a b m) s 3 ∧ (∀ f p, gone (.scunpk d a b f p) s 3)
    ∧ (m.toNat < 3 → gone (.fsgn d a b m) s 2) ∧ (m = 5 → gone (.fround d a b m) s 3))
  ∧ (s.poisoned [a] = some q →
    gone (.mov d a m) s 1 ∧ (∀ n, gone (.iaddi d a n) s 1) ∧ (∀ y w, gone (.isat d a y w) s 1) ∧ gone (.bitc d a m) s 1
    ∧ gone (.fclass d a) s 2 ∧ gone (.frcp d a m) (s.takeSfu 4) 8 ∧ gone (.frsq d a m) (s.takeSfu 4) 8
    ∧ gone (.fsqrt d a m) (s.takeSfu 8) 12 ∧ gone (.fexp2 d a m) (s.takeSfu 4) 10 ∧ gone (.flog2 d a m) (s.takeSfu 4) 10
    ∧ gone (.fred d a) s 8 ∧ gone (.frmax d a m) s 6 ∧ gone (.frmin d a m) s 6 ∧ (∀ r f p n, gone (.cvtf d a r f p n) s 3)
    ∧ (∀ y p n, gone (.cvti d a y p n) s 3) ∧ (∀ y u p n, gone (.cvtif d a y u p n) s 3) ∧ (∀ k y h, gone (.cvt4 d a k y h) s 3)
    ∧ (∀ p x, gone (.mxunpk d a p x) s 3) ∧ (∀ k f y p n, gone (.scpack d a k f y p n) s 6)
    ∧ (3 ≤ m.toNat → gone (.fsgn d a b m) s 2) ∧ (m ≠ 5 → gone (.fround d a b m) s 3)
    ∧ (∀ p x, s.EndsFrom (s.countPoison s.cur.cid q) (.mxpack d a p x)) ∧ s.EndsFrom (s.countPoison s.cur.cid q) (.maskset a m)
    ∧ ∀ g p, s.EndsFrom (s.countPoison s.cur.cid q) (.cchain a g p))
  ∧ ∀ c : Nat, (ctxOf c = 4 → s.countPoison c q = s)
    ∧ (ctxOf c < 4 →
      let old := SMap.get (s.region (regionOf c)).sinks (ctxOf c) {}
      let new := SMap.get ((s.countPoison c q).region (regionOf c)).sinks (ctxOf c) {}
      new.poison = min (old.poison + 1) (2 ^ 32 - 1) ∧ new.stranded = old.stranded
      ∧ new.origin = (match old.origin with | some o => some o | none => some (q.psrc, q.pcode, q.pcount))
      ∧ (∀ x, x ≠ ctxOf c → SMap.get ((s.countPoison c q).region (regionOf c)).sinks x {} = SMap.get (s.region (regionOf c)).sinks x {})
      ∧ (∀ r, r ≠ regionOf c → (s.countPoison c q).region r = s.region r)
      ∧ { s.countPoison c q with regions := s.regions } = s)

/-! ### Integer and address instructions -/

/-- R118, R119: sums, differences and products are computed exactly and narrowed once: modulo 2^w, clamped as signed (.SS), or clamped as
unsigned (.US); IMAD's addend is D's value before the firing; IMULH gives the upper half of the exact product. w is 32 in every lane, or 64
for an x destination. -/
def Obligations.IntegerSums : Prop := ∀ (s : State) (d : Dst) (a b : Src), s.poisoned [a, b] = none → s.poisoned [a] = none →
  let ss (w : Nat) (e : Int) : BitVec w := BitVec.ofInt w (clampI (-(2 ^ (w - 1))) (2 ^ (w - 1) - 1) e)
  let us (w : Nat) (e : Int) : BitVec w := BitVec.ofInt w (clampI 0 (2 ^ w - 1) e)
  let nat {w : Nat} (x : BitVec w) : Int := (x.toNat : Int)
  s.GivesInt2 (.iadd d a b 0) d a b 1 1 (fun _ x y => x + y)
  ∧ s.GivesInt2 (.iadd d a b 1) d a b 1 1 (fun w x y => ss w (x.toInt + y.toInt))
  ∧ s.GivesInt2 (.iadd d a b 2) d a b 1 1 (fun w x y => us w (nat x + nat y))
  ∧ s.GivesInt2 (.isub d a b 0) d a b 1 1 (fun _ x y => x - y)
  ∧ s.GivesInt2 (.isub d a b 1) d a b 1 1 (fun w x y => ss w (x.toInt - y.toInt))
  ∧ s.GivesInt2 (.isub d a b 2) d a b 1 1 (fun w x y => us w (nat x - nat y))
  ∧ s.GivesInt2 (.imul d a b 0) d a b 3 4 (fun _ x y => x * y)
  ∧ s.GivesInt2 (.imul d a b 1) d a b 3 4 (fun w x y => ss w (x.toInt * y.toInt))
  ∧ s.GivesInt2 (.imul d a b 2) d a b 3 4 (fun w x y => us w (nat x * nat y))
  ∧ s.GivesInt3 (.imad d a b 0) d a b 3 4 (fun _ z x y => z + x * y)
  ∧ s.GivesInt3 (.imad d a b 1) d a b 3 4 (fun w z x y => ss w (z.toInt + x.toInt * y.toInt))
  ∧ s.GivesInt3 (.imad d a b 2) d a b 3 4 (fun w z x y => us w (nat z + nat x * nat y))
  ∧ s.GivesInt2 (.imulh d a b 0) d a b 3 4 (fun w x y => BitVec.ofInt w (x.toInt * y.toInt / 2 ^ w))
  ∧ s.GivesInt2 (.imulh d a b 1) d a b 3 4 (fun w x y => BitVec.ofNat w (x.toNat * y.toNat / 2 ^ w))
  ∧ s.GivesInt2 (.imulh d a b 2) d a b 3 4 (fun w x y => BitVec.ofInt w (x.toInt * nat y / 2 ^ w))
  ∧ ∀ n : BitVec 8, s.GivesInt1 (.iaddi d a n) d a 1 1 (fun w x => x + n.signExtend w)

/-- R120, R121, R122, R123: the lesser and the greater operand under a signed or an unsigned reading; the logic forms, with S2 inverted under
.N; shifts by the full unsigned count and rotations by the count modulo w; all ones where the condition holds and 0 where it does not. -/
def Obligations.IntegerLogic : Prop := ∀ (s : State) (d : Dst) (a b : Src), s.poisoned [a, b] = none →
  let one (i : Instr) (f : (w : Nat) → BitVec w → BitVec w → BitVec w) : Prop := s.GivesInt2 i d a b 1 1 f
  let ones (w : Nat) (c : Bool) : BitVec w := if c then BitVec.allOnes w else 0
  one (.imin d a b 0) (fun _ x y => if x.slt y then x else y) ∧ one (.imin d a b 1) (fun _ x y => if x.ult y then x else y)
  ∧ one (.imax d a b 0) (fun _ x y => if x.slt y then y else x) ∧ one (.imax d a b 1) (fun _ x y => if x.ult y then y else x)
  ∧ one (.and d a b 0) (fun _ x y => x &&& y) ∧ one (.and d a b 1) (fun _ x y => x &&& ~~~y)
  ∧ one (.or d a b 0) (fun _ x y => x ||| y) ∧ one (.or d a b 1) (fun _ x y => x ||| ~~~y)
  ∧ one (.xor d a b 0) (fun _ x y => x ^^^ y) ∧ one (.xor d a b 1) (fun _ x y => x ^^^ ~~~y)
  ∧ one (.shl d a b) (fun _ x y => x <<< y.toNat)
  ∧ one (.shr d a b 0) (fun _ x y => x >>> y.toNat) ∧ one (.shr d a b 1) (fun _ x y => x.sshiftRight y.toNat)
  ∧ one (.rot d a b 0) (fun _ x y => x.rotateLeft y.toNat) ∧ one (.rot d a b 1) (fun _ x y => x.rotateRight y.toNat)
  ∧ one (.icmp d a b 0) (fun w x y => ones w (x == y)) ∧ one (.icmp d a b 1) (fun w x y => ones w (x != y))
  ∧ one (.icmp d a b 2) (fun w x y => ones w (x.slt y)) ∧ one (.icmp d a b 3) (fun w x y => ones w (!x.slt y))
  ∧ one (.icmp d a b 4) (fun w x y => ones w (x.ult y)) ∧ one (.icmp d a b 5) (fun w x y => ones w (!x.ult y))

/-- R124, R125, R126: saturation of a signed operand to W bits; the bit counts and reversals of BITC; the field that BFX extracts, extended
with zeros or with its sign, and the one that BFI inserts into D. Position and length of a field are S2's bits [5:0] and [13:8]. -/
def Obligations.IntegerBitFields : Prop := ∀ (s : State) (d : Dst) (a b : Src), s.poisoned [a, b] = none → s.poisoned [a] = none →
  let bits (w : Nat) (f : Nat → Bool) : BitVec w := BitVec.ofNat w (natOfBits f w)
  let pos {w : Nat} (y : BitVec w) : Nat := y.toNat % 64
  let len {w : Nat} (y : BitVec w) : Nat := min (y.toNat / 256 % 64) w
  (∀ g : BitVec 6, s.GivesInt1 (.isat d a 1 g) d a 1 1 (fun w x => BitVec.ofInt w (clampI (-(2 ^ g.toNat)) (2 ^ g.toNat - 1) x.toInt))
    ∧ s.GivesInt1 (.isat d a 0 g) d a 1 1 (fun w x => BitVec.ofInt w (clampI 0 (2 ^ (g.toNat + 1) - 1) x.toInt)))
  ∧ s.GivesInt1 (.bitc d a 0) d a 1 1 (fun w x => BitVec.ofNat w ((List.range w).filter fun i => x.getLsbD i).length)
  ∧ s.GivesInt1 (.bitc d a 1) d a 1 1 (fun _ x => x.clz) ∧ s.GivesInt1 (.bitc d a 2) d a 1 1 (fun _ x => x.ctz)
  ∧ s.GivesInt1 (.bitc d a 3) d a 1 1 (fun _ x => x.reverse)
  ∧ s.GivesInt1 (.bitc d a 4) d a 1 1 (fun w x => bits w fun i => x.getLsbD (w - 8 - i / 8 * 8 + i % 8))
  ∧ s.GivesInt2 (.bfx d a b 0) d a b 1 1 (fun w x y => bits w fun i => decide (i < len y) && x.getLsbD (pos y + i))
  ∧ s.GivesInt2 (.bfx d a b 1) d a b 1 1 (fun w x y => bits w fun i =>
      decide (0 < len y) && x.getLsbD (pos y + min i (len y - 1)))
  ∧ s.GivesInt3 (.bfi d a b) d a b 1 1 (fun w z x y => bits w fun i =>
      if pos y ≤ i ∧ i < pos y + len y then x.getLsbD (i - pos y) else z.getLsbD i)

/-- R127, R128, R129: ADDR forms base plus signed index times 2^n, one 64-bit sum or 96 of them as address pairs with each pair's mask bits
those of its index; LSCAN's lane holds the combination of the carry and the masked lanes up to it (before it, for .ADDX); IDIV gives the
truncated quotient or the remainder, with its cases for a zero divisor, and takes the element's divider for 8 or 16 cycles. -/
def Obligations.AddressScanDivide : Prop := ∀ (s : State) (a b : Src), s.poisoned [a, b] = none →
  (∀ (k : BitVec 2) (n : BitVec 2), s.Gives (.addr (.x k) a b 0 n) 2 [.sreg k.toNat (s.srcSca a + s.srcSca b <<< n.toNat)])
  ∧ (∀ (d : Dst) (h : BitVec 1) (n : BitVec 2), isScalar d = false → ∃ (v : Vec) (m : Mask),
      (∀ j, j < 96 →
        v.get (2 * j + 1) ++ v.get (2 * j) = s.srcSca a + ((s.srcVec b).get (96 * h.toNat + j)).signExtend 64 <<< n.toNat
        ∧ m.getLsbD (2 * j) = s.my.regs.mask.getLsbD (96 * h.toNat + j) ∧ m.getLsbD (2 * j + 1) = s.my.regs.mask.getLsbD (96 * h.toNat + j))
      ∧ s.Gives (.addr d a b h n) 2 (s.write d (.vec v) m))
  ∧ (∀ d : Dst, isScalar d = false →
      let acc (f : Word → Word → Word) (n : Nat) : Word :=
        ((List.range n).filter fun j => s.my.regs.mask.getLsbD j).foldl (fun w j => f w ((s.srcVec a).get j)) ((s.srcSca b).setWidth 32)
      let scan (m : BitVec 3) (f : Word → Word → Word) (upTo : Nat → Nat) : Prop := ∃ v : Vec,
        (∀ k, k < 192 → s.my.regs.mask.getLsbD k = true → v.get k = acc f (upTo k))
        ∧ s.Gives (.lscan d a b m) 4 (s.write d (.vec v) s.my.regs.mask)
      scan 0 (fun x y => x + y) (· + 1) ∧ scan 1 (fun x y => x + y) id
      ∧ scan 2 (fun x y => if x.slt y then y else x) (· + 1) ∧ scan 3 (fun x y => if x.ult y then y else x) (· + 1)
      ∧ scan 4 (fun x y => if y.slt x then y else x) (· + 1) ∧ scan 5 (fun x y => if y.ult x then y else x) (· + 1)
      ∧ scan 6 (fun x y => x ||| y) (· + 1))
  ∧ ∀ d : Dst,
      let div (m : BitVec 3) (f : (w : Nat) → BitVec w → BitVec w → BitVec w) : Prop :=
        if isScalar d then s.GivesFrom (s.takeDivider 16) (.idiv d a b m) 22 (s.write d (.sca (f 64 (s.srcSca a) (s.srcSca b))) s.my.regs.mask)
        else s.GivesFrom (s.takeDivider 8) (.idiv d a b m) 12
          (s.write d (.vec (Vec.gen fun k => f 32 ((s.srcVec a).get k) ((s.srcVec b).get k))) s.my.regs.mask)
      div 0 (fun w x y => if y = 0 then BitVec.allOnes w else x.sdiv y) ∧ div 1 (fun w x y => if y = 0 then BitVec.allOnes w else x / y)
      ∧ div 2 (fun _ x y => if y = 0 then x else x.srem y) ∧ div 3 (fun _ x y => if y = 0 then x else x % y)

/-- R131, R132: CCHAIN stages an extent and, with .TOP, starts a chain of that many levels and one. A CSTEP emits exactly one token: an EOS
or a MARK that is pending, an EOS for a chain with a zero extent, or DATA of the next lanes; and the chain stands as R132 leaves it: at the end of a
level-0 iteration MARKs 0 to min(m, n - 2) are pending, and an EOS where m is n - 1; an advance carries one into level 1 and wraps each level that
stands at its last coordinate. -/
def Obligations.CounterChains : Prop := ∀ s : State,
  let k0 := s.my.chain
  let with_ (c : Chain) : State := s.updCtx s.cur.cid fun k => { k with chain := c }
  (∀ (a : Src) (g : BitVec 4), g.toNat < 8 → s.poisoned [a] = none → k0.se.length = 8 →
    ∃ se : List Nat, (∀ l, l < 8 → se.getD l 0 = if l = g.toNat then (s.srcSca a).toNat % 2 ^ 32 else k0.se.getD l 0)
      ∧ s.EndsFrom (with_ { k0 with se }) (.cchain a g 0)
      ∧ ∃ e c : List Nat, (∀ l, l ≤ g.toNat → e.getD l 0 = se.getD l 0 ∧ c.getD l 0 = 0)
        ∧ s.EndsFrom (with_ { se, e, c, n := g.toNat + 1, li := 0, pending := [], armed := true, spent := false }) (.cchain a g 1))
  ∧ ∀ (k : BitVec 3) (w m : BitVec 2),
    let gives (c : Chain) (t : Token) : Prop := s.GivesFrom (with_ c) (.cstep (.out k) w m) 1 [.emit k.toNat (s.stamp s.cur.cid t)]
    let tag := s.my.otag k.toNat
    (∀ rest, k0.pending = 8 :: rest → gives { k0 with pending := rest, spent := true } (eosTok tag))
    ∧ (∀ t rest, t < 8 → k0.pending = t :: rest →
      let k1 : Chain := { k0 with pending := rest }
      gives (if rest.any (· < 8) then k1 else k1.advance) (markTok t true (BitVec.ofNat 64 (k0.c.getD (t + 1) 0))))
    ∧ (k0.pending = [] → (∃ l, l < k0.n ∧ k0.e.getD l 0 = 0) → gives { k0 with spent := true } (eosTok tag))
    ∧ (k0.pending = [] → (∀ l, l < k0.n → k0.e.getD l 0 ≠ 0) →
      let wide := if w = 0 then 192 else if w = 1 then 96 else if w = 2 then 64 else 32
      let cnt := min wide (k0.e.getD 0 0 - k0.c.getD 0 0)
      let first := if m = 1 then k0.li else k0.c.getD 0 0
      let k1 : Chain := { k0 with c := listSet k0.c 0 (k0.c.getD 0 0 + cnt), li := (k0.li + cnt) % 2 ^ 32 }
      let items := k1.endItems
      gives (if k0.c.getD 0 0 + cnt = k0.e.getD 0 0 then
          (if items.any (· < 8) then { k1 with pending := items } else ({ k1 with pending := items } : Chain).advance) else k1)
        (vecTok tag (Mask.first cnt) (Vec.gen fun i => BitVec.ofNat 32 (first + i))))
    ∧ (∀ k1 : Chain, 0 < k1.n → k1.n ≤ 8 → k1.c.length = 8 →
      let last (l : Nat) : Prop := k1.c.getD l 0 + 1 = k1.e.getD l 0
      (∀ h, h < k1.n → (∀ l, 1 ≤ l → l ≤ h → last l) → (∀ g, g < k1.n → (∀ l, 1 ≤ l → l ≤ g → last l) → g ≤ h) →
        k1.endItems = List.range (min (h + 1) (k1.n - 1)) ++ if h + 1 = k1.n then [8] else [])
      ∧ k1.advance.c.getD 0 0 = 0
      ∧ (∀ l, 1 ≤ l → l < 8 →
          let carried : Prop := l < k1.n ∧ ∀ i, 1 ≤ i → i < l → last i
          (carried → k1.advance.c.getD l 0 = if last l then 0 else k1.c.getD l 0 + 1) ∧ (¬ carried → k1.advance.c.getD l 0 = k1.c.getD l 0))
      ∧ { k1.advance with c := k1.c } = k1)

/-! ### Floating point -/

/-- R155, R159, R160, R161, R162: each lane under the mask receives the operation of its operands, FSTAT gains the flags of those lanes and of
no other, at the latencies of R181; FFMA's addend is D's value before the firing; the special-function unit is taken for 4 or 8 cycles.
R144, R146, R147, R157: a finite sum, difference, product, quotient or fused product that is not zero is the exact one rounded once, with its
overflow, underflow and inexact flags; one that is exactly zero has the sign of R157 and raises nothing. -/
def Obligations.FloatArithmetic : Prop := ∀ (s : State) (d : Dst) (a b : Src) (m : BitVec 3), s.poisoned [a, b] = none → s.poisoned [a] = none →
  let x (k : Nat) : Word := (s.srcVec a).get k
  let y (k : Nat) : Word := (s.srcVec b).get k
  s.GivesFloat s (.fadd d a b m) 4 d (fun k => fadd m.toNat (x k) (y k))
  ∧ s.GivesFloat s (.fsub d a b m) 4 d (fun k => fsub m.toNat (x k) (y k))
  ∧ s.GivesFloat s (.fmul d a b m) 4 d (fun k => fmul m.toNat (x k) (y k))
  ∧ s.GivesFloat s (.ffma d a b m) 4 d (fun k => ffma m.toNat (x k) (y k) ((s.dstVec d).get k))
  ∧ s.GivesFloat (s.takeSfu 8) (.fdiv d a b m) 14 d (fun k => fdiv m.toNat (x k) (y k))
  ∧ s.GivesFloat (s.takeSfu 4) (.frcp d a m) 8 d (fun k => frcp m.toNat (x k))
  ∧ s.GivesFloat (s.takeSfu 4) (.frsq d a m) 8 d (fun k => frsq m.toNat (x k))
  ∧ s.GivesFloat (s.takeSfu 8) (.fsqrt d a m) 12 d (fun k => fsqrt m.toNat (x k))
  ∧ s.GivesFloat (s.takeSfu 4) (.fexp2 d a m) 10 d (fun k => fexp2 m.toNat (x k))
  ∧ s.GivesFloat (s.takeSfu 4) (.flog2 d a m) 10 d (fun k => flog2 m.toNat (x k))
  ∧ ∀ (r : Nat) (p q z : Word), r < 7 → r ≠ 5 →
    let finite (w : Word) : Prop := (val32 w).special = false
    let v (w : Word) : Rat := (val32 w).rat
    let neg (w : Word) : Bool := w.getLsbD 31
    let addends (g h : Bool) : Bool := if g = h then g else decide (r = 2)
    let once (x : Rat) (zero : Bool) (t : Fr) : Prop :=
      if x = 0 then t = (if zero then 0x80000000#32 else 0, {}) else Rounds fp32 r 0 (decide (x < 0)) (if x < 0 then -x else x) (t.1.toNat, t.2)
    finite p → finite q →
      once (v p + v q) (addends (neg p) (neg q)) (fadd r p q) ∧ once (v p - v q) (addends (neg p) (!neg q)) (fsub r p q)
      ∧ once (v p * v q) (neg p != neg q) (fmul r p q) ∧ (v q ≠ 0 → once (v p / v q) (neg p != neg q) (fdiv r p q))
      ∧ (finite z → once (v p * v q + v z) (addends (neg p != neg q) (neg z)) (ffma r p q z))

/-- R140, R157, R159, R160: a NaN operand of a sum, difference, product, quotient or fused product gives the canonical NaN, and raises invalid
exactly where an operand signals (or, in FFMA, where the product is zero times infinity, whatever the addend is); infinities of opposite sign do not
add, nor do those of one sign subtract, nor an infinite product and an addend of the other sign; an infinity and a finite number give the infinity,
and a finite number over an infinity a signed zero; zero times
infinity and zero over zero are invalid; a finite number over zero raises division by zero alone. R161: what the five functions of the
special-function unit give for zeros, infinities, NaNs and negative numbers. -/
def Obligations.FloatSpecialOperands : Prop := ∀ (m : Nat) (a b c : Word),
  let x := val32 a
  let y := val32 b
  let nan (inv : Bool) : Fr := (0x7FC00000#32, { inv })
  let inf (neg : Bool) (fl : Fl) : Fr := (if neg then 0xFF800000#32 else 0x7F800000#32, fl)
  (x.isNan = true ∨ y.isNan = true →
    fadd m a b = nan (x.snan || y.snan) ∧ fsub m a b = nan (x.snan || y.snan) ∧ fmul m a b = nan (x.snan || y.snan)
    ∧ fdiv m a b = nan (x.snan || y.snan))
  ∧ (∀ p q, x = .inf p → y = .inf q → fadd m a b = (if p = q then inf p {} else nan true) ∧ fsub m a b = (if p = q then nan true else inf p {})
      ∧ fmul m a b = inf (p != q) {} ∧ fdiv m a b = nan true)
  ∧ (∀ p q n e, x = .inf p → y = .fin q n e → fadd m a b = inf p {} ∧ fsub m a b = inf p {}
      ∧ fmul m a b = (if n = 0 then nan true else inf (p != q) {}) ∧ fdiv m a b = inf (p != q) {})
  ∧ (∀ p q n e, x = .fin p n e → y = .inf q → fadd m a b = inf q {} ∧ fsub m a b = inf (!q) {}
      ∧ fmul m a b = (if n = 0 then nan true else inf (p != q) {}) ∧ fdiv m a b = (if p = q then 0 else 0x80000000#32, {}))
  ∧ (
    let z := val32 c
    let zeroInf : Prop := ∃ p q e, (x = .inf p ∧ y = .fin q 0 e) ∨ (x = .fin q 0 e ∧ y = .inf p)
    let product (s : Bool) : Prop := ∃ p q, s = (p != q)
      ∧ ((x = .inf p ∧ y = .inf q) ∨ (∃ n e, n ≠ 0 ∧ ((x = .inf p ∧ y = .fin q n e) ∨ (x = .fin p n e ∧ y = .inf q))))
    (zeroInf → ffma m a b c = nan true)
    ∧ (¬ zeroInf → x.isNan = true ∨ y.isNan = true ∨ z.isNan = true → ffma m a b c = nan (x.snan || y.snan || z.snan))
    ∧ (∀ s r, product s → z = .inf r → ffma m a b c = if s = r then inf r {} else nan true)
    ∧ (∀ s r n e, product s → z = .fin r n e → ffma m a b c = inf s {})
    ∧ (∀ r, x.special = false → y.special = false → z = .inf r → ffma m a b c = inf r {}))
  ∧ (∀ p q n e k f, x = .fin p n e → y = .fin q k f → k = 0 →
      fdiv m a b = if n = 0 then nan true else inf (p != q) { dz := true })
  ∧ (
    let row (w : Word) (p q r t u : Fr) : Prop := frcp m w = p ∧ frsq m w = q ∧ fsqrt m w = r ∧ fexp2 m w = t ∧ flog2 m w = u
    let just (w : Word) : Fr := (w, {})
    row 0x00000000#32 (0x7F800000#32, { dz := true }) (0x7F800000#32, { dz := true }) (just 0) (just 0x3F800000#32) (0xFF800000#32, { dz := true })
    ∧ row 0x80000000#32 (0xFF800000#32, { dz := true }) (0xFF800000#32, { dz := true }) (just 0x80000000#32) (just 0x3F800000#32)
        (0xFF800000#32, { dz := true })
    ∧ row 0x7F800000#32 (just 0) (just 0) (just 0x7F800000#32) (just 0x7F800000#32) (just 0x7F800000#32)
    ∧ row 0xFF800000#32 (just 0x80000000#32) (nan true) (nan true) (just 0) (nan true)
    ∧ row 0x3F800000#32 (just 0x3F800000#32) (just 0x3F800000#32) (just 0x3F800000#32) (just 0x40000000#32) (just 0)
    ∧ (∀ (w : Word) (g : Bool), val32 w = .nan g → row w (0x7FC00000#32, { inv := g }) (0x7FC00000#32, { inv := g }) (0x7FC00000#32, { inv := g })
        (0x7FC00000#32, { inv := g }) (0x7FC00000#32, { inv := g }))
    ∧ ∀ (w : Word) (n : Nat) (e : Int), val32 w = .fin true n e → n ≠ 0 → frsq m w = nan true ∧ fsqrt m w = nan true ∧ flog2 m w = nan true)

/-- R163, R164, R165, R166: minimum and maximum order -0 below +0 and pass numbers bit for bit; FCMP gives all ones where the condition holds;
FSGN replaces the sign alone; FCLASS gives one bit for the class, of the ten of R166. The keys by which they compare order the numbers that the
words stand for, of zeros too. -/
def Obligations.FloatOrderSignClass : Prop := ∀ (s : State) (d : Dst) (a b : Src), s.poisoned [a, b] = none → s.poisoned [a] = none →
  let x (k : Nat) : Word := (s.srcVec a).get k
  let y (k : Nat) : Word := (s.srcVec b).get k
  let sig (k : Nat) : Fl := { inv := (val32 (x k)).snan || (val32 (y k)).snan }
  let any (k : Nat) : Bool := (val32 (x k)).isNan || (val32 (y k)).isNan
  let lesser (g h : Word) : Word := if orderKey h < orderKey g then h else g
  let greater (g h : Word) : Word := if orderKey g < orderKey h then h else g
  let quiet (f : Word → Word → Word) (k : Nat) : Fr := (if any k then 0x7FC00000#32 else f (x k) (y k), sig k)
  let number (f : Word → Word → Word) (k : Nat) : Fr := (if (val32 (x k)).isNan && (val32 (y k)).isNan then 0x7FC00000#32
    else if (val32 (x k)).isNan then y k else if (val32 (y k)).isNan then x k else f (x k) (y k), sig k)
  let test (c : Bool) : Word := if c then 0xFFFFFFFF#32 else 0
  let cmp (m : BitVec 3) (unord : Bool) (f : Int → Int → Bool) (loud : Bool) : Prop := s.GivesFloat s (.fcmp d a b m) 2 d (fun k =>
    (test (if any k then unord else f (eqKey (x k)) (eqKey (y k))), if loud then { inv := any k } else sig k))
  let sign (m : BitVec 3) (f : Word → Word → Bool) : Prop := s.GivesFloat s (.fsgn d a b m) 2 d (fun k =>
    if (val32 (x k)).isNan then (0x7FC00000#32, { inv := (val32 (x k)).snan }) else (putBit (x k) 31 (f (x k) (y k)), {}))
  s.GivesFloat s (.fmin d a b) 2 d (quiet lesser) ∧ s.GivesFloat s (.fmax d a b) 2 d (quiet greater)
  ∧ s.GivesFloat s (.fminn d a b) 2 d (number lesser) ∧ s.GivesFloat s (.fmaxn d a b) 2 d (number greater)
  ∧ cmp 0 false (fun p q => decide (p = q)) false ∧ cmp 1 true (fun p q => decide (p ≠ q)) false
  ∧ cmp 2 false (fun p q => decide (p < q)) true ∧ cmp 3 false (fun p q => decide (p ≤ q)) true ∧ cmp 4 true (fun _ _ => false) false
  ∧ sign 0 (fun _ q => q.getLsbD 31) ∧ sign 1 (fun _ q => !q.getLsbD 31) ∧ sign 2 (fun p q => p.getLsbD 31 != q.getLsbD 31)
  ∧ sign 3 (fun _ _ => false) ∧ sign 4 (fun p _ => !p.getLsbD 31)
  ∧ s.GivesFloat s (.fclass d a) 2 d (fun k => (BitVec.ofNat 32 (2 ^ fclass (x k)), {}))
  ∧ (∀ w : Word,
    let ex := w.extractLsb' 23 8
    let fraction := w.extractLsb' 0 23
    let side (neg pos : Nat) : Nat := if w.getLsbD 31 then neg else pos
    fclass w = if ex = 255 then (if fraction = 0 then side 0 7 else if fraction.getLsbD 22 then 9 else 8)
      else if ex = 0 then (if fraction = 0 then side 3 4 else side 2 5) else side 1 6)
  ∧ ∀ p q : Word, (val32 p).isNan = false → (val32 q).isNan = false →
    let zeros : Prop := (p = 0 ∨ p = 0x80000000#32) ∧ (q = 0 ∨ q = 0x80000000#32)
    (eqKey p < eqKey q ↔ (val32 p).below (val32 q)) ∧ (eqKey p = eqKey q ↔ p = q ∨ zeros)
    ∧ (orderKey p < orderKey q ↔ (val32 p).below (val32 q) ∨ p = 0x80000000#32 ∧ q = 0) ∧ (orderKey p = orderKey q ↔ p = q)

/-- R167, R168: FRED sums the lanes under the mask, others as +0, in the manual's order; FRMAX and FRMIN give the extreme of the lanes under the
mask and its lane, the lowest of equals, the lowest NaN lane where there is one, and an infinity with index 2^32 - 1 where no lane is valid. -/
def Obligations.FloatReductions : Prop := ∀ (s : State) (d : Dst) (a : Src), s.poisoned [a] = none →
  let mask := s.my.regs.mask
  let x (k : Nat) : Word := (s.srcVec a).get k
  let put (w : Dword) (fl : Fl) : List Eff := s.write d (.sca w) mask ++ flagPart fl.bits
  let valid (k : Nat) : Prop := k < 192 ∧ mask.getLsbD k = true
  (∃ fl : Fl,
    let u (t j : Nat) : Word := if mask.getLsbD (64 * t + j) then x (64 * t + j) else 0
    let tr (t : Nat) : Word := pairTree (u t) 6 0
    let first := fadd 0 (tr 0) (tr 1)
    let whole := fadd 0 first.1 (tr 2)
    s.Gives (.fred d a) 8 (put (whole.1.setWidth 64) fl)
    ∧ ∀ n : Nat, fl.bits.getLsbD n = true ↔ first.2.bits.getLsbD n = true ∨ whole.2.bits.getLsbD n = true
        ∨ ∃ t l j, t < 3 ∧ l < 6 ∧ j < 2 ^ (5 - l) ∧ (fadd 0 (pairTree (u t) l (2 * j)) (pairTree (u t) l (2 * j + 1))).2.bits.getLsbD n = true)
  ∧ ∀ g : Bool,
    let i (m : BitVec 3) : Instr := if g then .frmax d a m else .frmin d a m
    let before (p q : Word) : Prop := if g then orderKey q < orderKey p else orderKey p < orderKey q
    ∃ (w : Word) (j : Nat) (fl : Fl),
      s.Gives (i 0) 6 (put (w.setWidth 64) fl) ∧ s.Gives (i 1) 6 (put (BitVec.ofNat 64 j) fl)
      ∧ s.Gives (i 2) 6 (put (0#16 ++ BitVec.ofNat 16 j ++ w) fl)
      ∧ ((∀ k, ¬ valid k) → w = (if g then 0xFF800000#32 else 0x7F800000#32) ∧ j = 2 ^ 32 - 1 ∧ fl = {})
      ∧ ((∃ k, valid k ∧ (val32 (x k)).isNan = true) → w = 0x7FC00000#32 ∧ valid j ∧ (val32 (x j)).isNan = true
          ∧ (∀ k, valid k → (val32 (x k)).isNan = true → j ≤ k) ∧ (fl.inv = true ↔ ∃ k, valid k ∧ (val32 (x k)).snan = true)
          ∧ fl = { inv := fl.inv })
      ∧ ((∃ k, valid k) → (∀ k, valid k → (val32 (x k)).isNan = false) → valid j ∧ w = x j ∧ fl = {}
          ∧ ∀ k, valid k → k ≠ j → before w (x k) ∨ (orderKey (x k) = orderKey w ∧ j < k))

/-- R170, R171, R172, R173, R174, R175: conversions between FP32 and the packed formats, to and from integers, rounding to integral values, and
scaling by a power of two. A narrowing form writes the elements of its part under the mask and leaves every other bit of D; the random bits of
rounding code 5 are those of lane i of v15, or of S2 in FROUND. -/
def Obligations.FloatConversions : Prop := ∀ (s : State) (d : Dst) (k : BitVec 4) (a b : Src) (p : BitVec 2) (n : BitVec 3),
  s.poisoned [a, b] = none → s.poisoned [a] = none →
  let x (j : Nat) : Word := (s.srcVec a).get j
  let q (j : Nat) : Nat := ((s.my.v 15).get j).toNat % 65536
  (∀ f : BitVec 2,
    let fm := if f = 0 then fp16 else if f = 1 then bf16 else if f = 2 then e4m3 else e5m2
    ((f.toNat < 2 → p.toNat < 2) → s.GivesNarrow (.cvtf (.v k) a 0 f p n) 3 k fm.width p.toNat (fun j => fm.conv n.toNat (q j) (val32 (x j))))
    ∧ s.GivesFloat s (.cvtf d a 1 f p 0) 3 d (fun j => fr (fp32.conv 0 0 (fm.value (elemAt fm.width p.toNat (s.srcVec a) j)))))
  ∧ s.GivesFloat s (.cvti d a 0 0 n) 3 d (fun j => fr (toInt 32 n.toNat (q j) (val32 (x j))))
  ∧ s.GivesNarrow (.cvti (.v k) a 1 p n) 3 k 8 p.toNat (fun j => toInt 8 n.toNat (q j) (val32 (x j)))
  ∧ s.GivesFloat s (.cvtif d a 0 0 0 n) 3 d (fun j => fr (ofInt32 n.toNat (q j) (x j).toInt))
  ∧ s.GivesFloat s (.cvtif d a 0 1 0 n) 3 d (fun j => fr (ofInt32 n.toNat (q j) (x j).toNat))
  ∧ s.GivesFloat s (.cvtif d a 1 0 p n) 3 d (fun j => fr (ofInt32 n.toNat (q j) (BitVec.ofNat 8 (elemAt 8 p.toNat (s.srcVec a) j)).toInt))
  ∧ (n ≠ 5 → s.GivesFloat s (.fround d a b n) 3 d (fun j => fround n.toNat 0 (x j)))
  ∧ s.GivesFloat s (.fround d a b 5) 3 d (fun j => fround 5 (((s.srcVec b).get j).toNat % 65536) (x j))
  ∧ s.GivesFloat s (.fscale d a b n) 3 d (fun j => fscale n.toNat (x j) ((s.srcVec b).get j))
  ∧ ∀ (c : BitVec 2) (g h : BitVec 1), s.GivesFloat s (.cvt4 d a c g h) 3 d (fun j =>
      let fm := if g = 0 then e4m3 else e5m2
      let byte (i : Nat) : BitVec 8 :=
        BitVec.ofNat 8 (fm.conv 0 0 (nibbleValue c.toNat ((x (96 * h.toNat + j / 2)).toNat / 16 ^ ((4 * j + i) % 8) % 16))).1
      (byte 3 ++ byte 2 ++ byte 1 ++ byte 0, {}))

/-- R148, R136: a number of each of the six formats, and an infinity where the format has one, converts to itself exactly under every rounding
code and raises nothing; so does one that first goes through FP32. R144, R145, R146, R147: any other number that is not zero is rounded once under
its code, to the nearest, toward or away from zero as that says, with the ties and the random bits of the rule, the overflow of R146 and the flags
of R147; an infinity stays one where the format has it, and else raises invalid alone. R135's greatest finite values. -/
def Obligations.FormatsRoundTrip : Prop := ∀ f ∈ [fp32, fp16, bf16, e4m3, e5m2, e2m1], ∀ (mode q w : Nat), w < 2 ^ f.width → q < 2 ^ 16 →
  (f.value w).isNan = false →
    f.conv mode q (f.value w) = (w, {}) ∧ f.conv mode q (fp32.value (fp32.conv 0 0 (f.value w)).1) = (w, {})
    ∧ (mode < 7 → ∀ (neg : Bool) (n : Nat) (e : Int), n ≠ 0 → Rounds f mode q neg ((n : Rat) * 2 ^ e) (f.conv mode q (.fin neg n e)))
    ∧ (f.hasInf = false → ∀ neg : Bool,
        let most := f.maxF + if neg then 2 ^ (f.width - 1) else 0
        f.conv mode q (.inf neg) = (if mode = 6 ∨ f.maxF = 7 then most else f.nan, { inv := true }))
    ∧ (f.value f.maxF).rat = if f = fp32 then 16777215 * 2 ^ (104 : Int) else if f = fp16 then 65504 else if f = bf16 then 255 * 2 ^ (120 : Int)
        else if f = e4m3 then 448 else if f = e5m2 then 57344 else 6

/-- R176, R177, R179, R180: MXPACK and SCPACK pack each block of lanes (those the mask clears as +0) with its scale; the whole slice is written,
and for MXPACK the whole of xS; MXUNPK and SCUNPK give an element times its scale, rounded once. A block that holds a NaN or an infinity takes the
NaN scale and zero elements; else its scale is MXPACK's power of two for the greatest magnitude, or the least S24 value that brings every element
within the format, and each element is its exact quotient by the scale, rounded once. R142, R143: an element under an S24 scale. -/
def Obligations.BlockFormats : Prop := ∀ (s : State) (d : Dst) (k : BitVec 4) (a b : Src), s.poisoned [a, b] = none → s.poisoned [a] = none →
  let src (j : Nat) : Fv := val32 (if s.my.regs.mask.getLsbD j then (s.srcVec a).get j else 0)
  let run (z g : Nat) : List Fv := (List.range z).map fun j => src (z * g + j)
  (∀ (p : BitVec 4) (x : BitVec 2), p.toNat < 8 →
    let blk (g : Nat) : Nat × List Nat × Fl := mxBlock (run 32 g)
    ∃ v : Vec, (∀ j, j < 192 → (v.get (24 * p.toNat + j / 8)).toNat / 16 ^ (j % 8) % 16 = (blk (j / 32)).2.1.getD (j % 32) 0)
      ∧ (∀ j, j < 192 → (j < 24 * p.toNat ∨ 24 * p.toNat + 24 ≤ j) → v.get j = (s.my.v k.toNat).get j)
      ∧ ∃ sc : Dword, (∀ g, g < 6 → (sc.extractLsb' (8 * g) 8).toNat = (blk g).1) ∧ sc.extractLsb' 48 16 = 0
        ∧ s.Gives (.mxpack (.v k) a p x) 6 (.vec k.toNat Mask.full v :: .sreg x.toNat sc :: flagPart (Fl.all ((List.range 6).map fun g => (blk g).2.2)).bits)
        ∧ s.GivesFloat s (.mxunpk d a p x) 3 d (fun j => fr (fp32.conv 0 0 (e8m0Value
            (e2m1.value (((s.srcVec a).get (24 * p.toNat + j / 8)).toNat / 16 ^ (j % 8) % 16))
            ((s.my.x x.toNat).extractLsb' (8 * (j / 32)) 8).toNat))))
  ∧ (∀ (f y : BitVec 1) (p n : BitVec 2), n ≠ 3 →
    let fm := if f = 0 then e4m3 else e5m2
    let z := if y = 0 then 16 else 32
    let blk (g : Nat) : Nat × List Nat × Fl := scBlock fm (if n = 0 then 0 else if n = 1 then 1 else 4) (run z g)
    let blks := (List.range (192 / z)).map blk
    let inv : Fl := { inv := blks.any fun r => r.2.2.inv }
    ∃ v u : Vec, (∀ j, j < 192 → elemAt 8 p.toNat v j = (blk (j / z)).2.1.getD (j % z) 0)
      ∧ (∀ j, j < 192 → (j < 48 * p.toNat ∨ 48 * p.toNat + 48 ≤ j) → v.get j = (s.my.v k.toNat).get j)
      ∧ (∀ j, j < 12 → (u.get (12 * p.toNat + j)).toNat = (blk (16 * j / z)).1)
      ∧ (∀ j, j < 192 → (j < 12 * p.toNat ∨ 12 * p.toNat + 12 ≤ j) → u.get j = (s.my.v k.toNat).get j)
      ∧ s.Gives (.scpack (.v k) a 0 f y p n) 6 (.vec k.toNat Mask.full v :: flagPart ((Fl.all (blks.map fun r => r.2.2)).or inv).bits)
      ∧ s.Gives (.scpack (.v k) a 1 f y p 0) 6 (.vec k.toNat Mask.full u :: flagPart inv.bits))
  ∧ ∀ (f : BitVec 1) (p : BitVec 2),
    let fm := if f = 0 then e4m3 else e5m2
    s.GivesFloat s (.scunpk d a b f p) 3 d (fun j =>
      let r := s24Times (fm.value (elemAt 8 p.toNat (s.srcVec a) j)) ((s.srcVec b).get (12 * p.toNat + j / 16)).toNat
      let c := fr (fp32.conv 0 0 r.1)
      (c.1, { c.2 with inv := c.2.inv || r.2 }))
    ∧ (∀ (v : Fv) (w : Nat), w < 2 ^ 32 →
      if 2 ^ 24 ≤ w ∨ w / 65536 = 255 then s24Times v w = (.nan false, false)
      else match v with
        | .nan g => s24Times v w = (.nan false, g)
        | .inf g => s24Times v w = if s24Rat w = 0 then (.nan false, true) else (.inf g, false)
        | .fin g n e => ∃ k d, s24Times v w = (.fin g k d, false) ∧ (k : Rat) * 2 ^ d = (n : Rat) * 2 ^ e * s24Rat w)
    ∧ ∀ l : List Fv,
      let marked : Prop := ∃ v ∈ l, v.special = true
      let inv (fl : Fl) : Prop := (fl.inv = true ↔ ∃ v ∈ l, v.snan = true ∨ ∃ g, v = .inf g) ∧ fl = { inv := fl.inv }
      let most (x : Rat) : Prop := (∃ v ∈ l, x = v.rat ∨ x = -v.rat) ∧ ∀ v ∈ l, v.rat ≤ x ∧ -v.rat ≤ x
      let each (f : Fmt) (mode : Nat) (scale : Rat) (es : List Nat) (fl : Fl) : Prop := ∃ rs : List (Nat × Fl),
        es = rs.map Prod.fst ∧ fl = Fl.all (rs.map Prod.snd) ∧ rs.length = l.length
        ∧ ∀ (i : Nat) g n e r, l[i]? = some (Fv.fin g n e) → rs[i]? = some r →
          if n = 0 then r = (if g then 2 ^ (f.width - 1) else 0, {}) else Rounds f mode 0 g ((n : Rat) * 2 ^ e / scale) r
      (marked → (mxBlock l).1 = 255 ∧ (mxBlock l).2.1 = l.map (fun _ => 0) ∧ inv (mxBlock l).2.2)
      ∧ (¬ marked → ∀ x, most x →
        (x = 0 → (mxBlock l).1 = 0) ∧ (∀ t : Int, (2 : Rat) ^ t ≤ x → x < 2 ^ (t + 1) → ((mxBlock l).1 : Int) = max (t + 125) 0)
        ∧ each e2m1 6 (2 ^ (((mxBlock l).1 : Int) - 127)) (mxBlock l).2.1 (mxBlock l).2.2)
      ∧ ∀ rnd ∈ [0, 1, 4],
        let b := scBlock fm rnd l
        (marked → b.1 = 0x00FF0000 ∧ b.2.1 = l.map (fun _ => 0) ∧ inv b.2.2)
        ∧ ((∀ v ∈ l, ∃ w, v = val32 w) → ¬ marked → ∀ x, most x →
          (x = 0 → b.1 = 0 ∧ b.2.2 = {}) ∧ (x ≠ 0 → b.1 < 0x00FF0000 ∧ x ≤ s24Rat b.1 * (fm.value fm.maxF).rat
            ∧ ∀ w, w < 0x00FF0000 → x ≤ s24Rat w * (fm.value fm.maxF).rat → b.1 ≤ w)
          ∧ each fm rnd (s24Rat b.1) b.2.1 b.2.2)

/-! ### Channels and tokens -/

/-- R229, R231, R240, R243: what STEER and SWITCH do with a control head and a data head that are not both DATA; so does MERGE with the input that
its DATA control selects, ZIPT with a structural head of inA on its turn, and a GATE without a count or a FIBRE without
a length with a control head that is not DATA. Where the table has no firing, the meaning leaves the state as it is. A data head that leaves a FIBRE
takes the place where it was read with it. A POISON control of MERGE goes alone; a structural one takes both data heads with it, forwards inA's MARK
or EOS, strands what faces an EOS one head at a time, and waits before a DRAIN. That a MARK or EOS control which faces a POISON data head goes with
it, and that of MERGE's two MARKs inA's goes on, are the model's readings (log entry 10). -/
def Obligations.PairsOfHeads : Prop := ∀ (s : State) (j c k : BitVec 3) (n l : BitVec 3) (ctl dat : Token),
  s.headOpt j.toNat = some dat → s.headOpt c.toNat = some ctl →
  let st := s.slotNow
  (st.side = true → dat.kind = kMARK ∨ dat.kind = kEOS ∨ dat.kind = kDRAIN → exec (.zipt (.out k) (.inp c) (.inp j)) s = .next s)
  ∧ (∀ (b : BitVec 3) (two : Token), s.headOpt b.toNat = some two →
    let i : Instr := .merge (.out k) (.inp c) (.inp j) b
    let whole (t : PTok) : Prop := s.Acts i 1 { takes := [c.toNat, j.toNat, b.toNat], emits := [(k.toNat, t)], slot := st }
    let strands (n : Nat) : Prop := s.Acts i 1 { strands := [n], slot := st }
    let plain (t : Token) : Prop := t.kind = kDATA ∨ t.kind = kMARK
    let level (t : Token) : Prop := t.kind = kMARK ∧ t.tag = ctl.tag
    (ctl.kind = kPOISON → s.Acts i 1 { takes := [c.toNat], emits := [(k.toNat, .tok ctl)], slot := st })
    ∧ (ctl.kind = kMARK →
      (level dat → level two → whole (.tok dat)) ∧ (plain dat → plain two → ¬ (level dat ∧ level two) → whole (.bad 0x41))
      ∧ ((plain dat ∨ dat.kind = kEOS) → (plain two ∨ two.kind = kEOS) → dat.kind = kEOS ∨ two.kind = kEOS → strands c.toNat))
    ∧ (ctl.kind = kEOS →
      (dat.kind = kEOS → two.kind = kEOS → whole (.tok dat)) ∧ (plain dat → plain two ∨ two.kind = kEOS → strands j.toNat)
      ∧ (dat.kind = kEOS → plain two → strands b.toNat))
    ∧ (ctl.kind = kDRAIN → dat.kind = kDRAIN → two.kind = kDRAIN → whole (.tok dat))
    ∧ (ctl.kind = kDRAIN → dat.kind ≠ kPOISON → two.kind ≠ kPOISON → dat.kind ≠ kDRAIN ∨ two.kind ≠ kDRAIN → exec i s = .next s)
    ∧ (ctl.kind = kMARK ∨ ctl.kind = kEOS → dat.kind = kDRAIN ∨ two.kind = kDRAIN → exec i s = .next s))
  ∧ ∀ b : BitVec 3, ∀ row ∈ ([(.steer (.out k) (.inp j) (.inp c) 0, [k.toNat, k.toNat + 1], st),
      (.switch (.out k) (.inp j) (.inp c) n, rangeFrom k.toNat (n.toNat + 1), st)]
    ++ (if st.side || ctl.kind == kDATA || ctl.kind == kPOISON then [] else [(.zipt (.out k) (.inp c) (.inp j), [k.toNat], st)])
    ++ (if ctl.kind == kDATA then [(if (if ctl.sc then ctl.scalar.toNat else (ctl.lanes.get 0).toNat) = 0 then .merge (.out k) (.inp c) (.inp j) b
        else .merge (.out k) (.inp c) (.inp b) j, [k.toNat], st)] else [])
    ++ (if st.loaded || ctl.kind == kDATA then [] else [(.gate (.out k) (.inp j) (.inp c), [k.toNat], st)])
    ++ (if st.loaded || st.pending || ctl.kind == kDATA then [] else [(.fibre (.out k) (.inp j) (.inp c) l, [k.toNat], { st with cur := 0 })])
      : List (Instr × List Nat × SlotState)),
  let gone := row.2.2
  let both (t : PTok) (x : SlotState) : Prop :=
    s.Acts row.1 1 { takes := [c.toNat, j.toNat], emits := row.2.1.map fun o => (o, t), slot := x }
  let isCtl (x : BitVec 3) : Prop := ctl.kind = x
  let isDat (x : BitVec 3) : Prop := dat.kind = x
  (¬ isCtl kDRAIN ∧ isDat kPOISON → both (.tok dat) gone)
  ∧ (isCtl kPOISON ∧ (isDat kDATA ∨ isDat kMARK) → both (.tok ctl) gone)
  ∧ (isCtl kPOISON ∧ (isDat kEOS ∨ isDat kDRAIN) →
      s.Acts row.1 1 { takes := [c.toNat], emits := row.2.1.map fun o => (o, .tok ctl), slot := st })
  ∧ (isCtl kDRAIN ∧ isDat kPOISON → s.Acts row.1 1 { takes := [j.toNat], emits := row.2.1.map fun o => (o, .tok dat), slot := gone })
  ∧ (isCtl kMARK ∧ isDat kMARK ∧ ctl.tag = dat.tag → both (.tok dat) gone)
  ∧ (isCtl kEOS ∧ isDat kEOS → both (.tok dat) {})
  ∧ (isCtl kDRAIN ∧ isDat kDRAIN → both (.tok dat) gone)
  ∧ (isCtl kEOS ∧ (isDat kDATA ∨ isDat kMARK) → s.Acts row.1 1 { strands := [j.toNat], slot := gone })
  ∧ ((isCtl kDATA ∨ isCtl kMARK) ∧ isDat kEOS → s.Acts row.1 1 { strands := [c.toNat], slot := st })
  ∧ (isCtl kMARK ∧ (isDat kDATA ∨ isDat kMARK ∧ ctl.tag ≠ dat.tag) → both (.bad 0x41) gone)
  ∧ (isCtl kDATA ∧ isDat kMARK → both (.bad 0x41) gone)
  ∧ (isCtl kDRAIN ∧ ¬ isDat kDRAIN ∧ ¬ isDat kPOISON → exec row.1 s = .next s)
  ∧ (isDat kDRAIN ∧ ¬ isCtl kDRAIN ∧ ¬ isCtl kPOISON → exec row.1 s = .next s)

/-- R237, R238, R239, R240, R241: a DATA head goes whole to the output its control selects (under .LANE its lanes are parted between the two), and
both heads are consumed; a SWITCH value out of range gives POISON on every output; LEXIT lets MARK, EOS and DRAIN out by the exit, but not beside a
POISON control, which goes out on both outputs, with a DATA or MARK head or alone; a POISON head leaves by the exit with whatever control it faces,
and DATA against a MARK or EOS control gives ALIGN: the model's readings of R239 (log entry 10). MERGE takes the head the control selects; GATE loads
its count and then lets that many pass. R236: a control or count that is a register or a literal is its 64 bits, or lane 0, and is never consumed;
a head that is not DATA then goes alone to every output. That such a count of GATE acts in the firing that reads it is the model's reading (log
entry 10). -/
def Obligations.Steering : Prop := ∀ (s : State) (j c k : BitVec 3) (dat ctl : Token),
  s.headOpt j.toNat = some dat → s.headOpt c.toNat = some ctl →
  let st := s.slotNow
  let o := k.toNat
  let v := if ctl.sc then ctl.scalar.toNat else (ctl.lanes.get 0).toNat
  let to_ (p : Nat) : Plan := { takes := [j.toNat, c.toNat], emits := [(p, .tok dat)], slot := st }
  let alone (x : SlotState) (t : PTok) : Plan := { takes := [j.toNat], emits := [(o, t)], slot := x }
  (ctl.kind = kDATA → dat.kind = kDATA →
    s.Acts (.steer (.out k) (.inp j) (.inp c) 0) 1 (to_ (if v = 0 then o else o + 1))
    ∧ (dat.sc = true → s.Acts (.steer (.out k) (.inp j) (.inp c) 1) 1 (to_ (if v = 0 then o else o + 1)))
    ∧ (dat.sc = false → ∃ yes no : Token,
        (∀ i, i < 192 → yes.mask.getLsbD i = (dat.mask.getLsbD i && (if ctl.sc then ctl.scalar != 0 else ctl.lanes.get i != 0))
          ∧ no.mask.getLsbD i = (dat.mask.getLsbD i && !yes.mask.getLsbD i)
          ∧ (yes.mask.getLsbD i = true → yes.lanes.get i = dat.lanes.get i) ∧ (no.mask.getLsbD i = true → no.lanes.get i = dat.lanes.get i))
        ∧ { yes with mask := dat.mask, lanes := dat.lanes } = dat ∧ { no with mask := dat.mask, lanes := dat.lanes } = dat
        ∧ s.Acts (.steer (.out k) (.inp j) (.inp c) 1) 1
            { takes := [j.toNat, c.toNat], needs := [o, o + 1], slot := st,
              emits := (if yes.mask = 0 then [] else [(o + 1, .tok yes)]) ++ (if no.mask = 0 then [] else [(o, .tok no)]) })
    ∧ (∀ n : BitVec 3, s.Acts (.switch (.out k) (.inp j) (.inp c) n) 1 (if v ≤ n.toNat then to_ (o + v)
        else { takes := [j.toNat, c.toNat], emits := (rangeFrom o (n.toNat + 1)).map fun p => (p, .bad 0x43), slot := st }))
    ∧ s.Acts (.lexit (.out k) (.inp j) (.inp c)) 1 (to_ (if v = 0 then o else o + 1)))
  ∧ ((dat.kind = kMARK ∨ dat.kind = kDRAIN) → ctl.kind ≠ kPOISON → s.Acts (.lexit (.out k) (.inp j) (.inp c)) 1 (alone st (.tok dat)))
  ∧ (dat.kind = kEOS → ctl.kind ≠ kPOISON → s.Acts (.lexit (.out k) (.inp j) (.inp c)) 1 (alone {} (.tok dat)))
  ∧ (dat.kind = kPOISON → s.Acts (.lexit (.out k) (.inp j) (.inp c)) 1 (to_ o))
  ∧ (dat.kind = kDATA → ctl.kind = kMARK ∨ ctl.kind = kEOS → s.Acts (.lexit (.out k) (.inp j) (.inp c)) 1
      { takes := [c.toNat, j.toNat], emits := [(o, .bad 0x41), (o + 1, .bad 0x41)], slot := st })
  ∧ (ctl.kind = kPOISON → dat.kind ≠ kPOISON → s.Acts (.lexit (.out k) (.inp j) (.inp c)) 1
      { takes := c.toNat :: (if dat.kind = kDATA ∨ dat.kind = kMARK then [j.toNat] else []), emits := [(o, .tok ctl), (o + 1, .tok ctl)], slot := st })
  ∧ (ctl.kind = kDATA → dat.kind = kDATA → ∀ b : BitVec 3,
      (v = 0 → s.Acts (.merge (.out k) (.inp c) (.inp j) b) 1 (to_ o)) ∧ (v ≠ 0 → s.Acts (.merge (.out k) (.inp c) (.inp b) j) 1 (to_ o)))
  ∧ (st.loaded = false → ctl.kind = kDATA → s.Acts (.gate (.out k) (.inp j) (.inp c)) 1
      { takes := [c.toNat], slot := { st with rem := v % 2 ^ 32, loaded := v % 2 ^ 32 != 0 } })
  ∧ (st.loaded = true →
      let gate (p : Plan) : Prop := s.Acts (.gate (.out k) (.inp j) (.inp c)) 1 p
      (dat.kind = kDATA ∨ dat.kind = kPOISON → gate (alone { st with rem := st.rem - 1, loaded := st.rem - 1 != 0 } (.tok dat)))
      ∧ (dat.kind = kMARK ∨ dat.kind = kDRAIN → gate (alone st (.tok dat)))
      ∧ (dat.kind = kEOS → gate { emits := [(o, .bad 0x41)], slot := { st with loaded := false } }))
  ∧ ∀ (r : Src) (w : Dword),
    (∃ x : BitVec 2, r = .x x ∧ w = s.my.x x.toNat) ∨ (∃ x : BitVec 4, r = .v x ∧ w = ((s.my.v x.toNat).get 0).setWidth 64)
      ∨ (r = .zero ∧ w = 0) ∨ (∃ l, r = .lit l ∧ w = s.srcSca (.lit l)) →
    let gone (outs : List Nat) : Plan := { takes := [j.toNat], emits := outs.map fun p => (p, .tok dat), slot := if dat.kind = kEOS then {} else st }
    (dat.kind ≠ kDATA → s.Acts (.steer (.out k) (.inp j) r 0) 1 (gone [o, o + 1]) ∧ s.Acts (.lexit (.out k) (.inp j) r) 1 (gone [o])
      ∧ ∀ n : BitVec 3, s.Acts (.switch (.out k) (.inp j) r n) 1 (gone (rangeFrom o (n.toNat + 1))))
    ∧ (dat.kind = kDATA →
      s.Acts (.steer (.out k) (.inp j) r 0) 1 (gone [if w = 0 then o else o + 1])
      ∧ s.Acts (.lexit (.out k) (.inp j) r) 1 (gone [if w = 0 then o else o + 1])
      ∧ ∀ n : BitVec 3, s.Acts (.switch (.out k) (.inp j) r n) 1 (if w.toNat ≤ n.toNat then gone [o + w.toNat]
          else { takes := [j.toNat], emits := (rangeFrom o (n.toNat + 1)).map fun p => (p, .bad 0x43), slot := st }))
    ∧ (∀ b : BitVec 3, s.Acts (if w = 0 then .merge (.out k) r (.inp j) b else .merge (.out k) r (.inp b) j) 1 (gone [o]))
    ∧ (st.loaded = false →
      let n := w.toNat % 2 ^ 32
      let i : Instr := .gate (.out k) (.inp j) r
      (dat.kind = kMARK ∨ dat.kind = kEOS ∨ dat.kind = kDRAIN → s.Acts i 1 (gone [o]))
      ∧ (dat.kind = kDATA → n = 0 → exec i s = .next s)
      ∧ (dat.kind = kDATA → n ≠ 0 →
          s.Acts i 1 { takes := [j.toNat], emits := [(o, .tok dat)], slot := { st with rem := n - 1, loaded := n - 1 != 0 } }))

/-- R242, R243, R246: DUP forwards a head to n outputs and consumes it; ZIPT takes its sides in turn with the output's tag and the next one;
TROUTE retags a DATA head and its output's tag, and forwards any other head unchanged. -/
def Obligations.CopiesAndTags : Prop := ∀ (s : State) (j c k : BitVec 3) (a b : Token), s.headOpt j.toNat = some a → s.headOpt c.toNat = some b →
  let st := s.slotNow
  let o := k.toNat
  let tag := s.my.otag o
  (∀ n : BitVec 2, s.Acts (.dup (.out k) (.inp j) n) 1
    { takes := [j.toNat], emits := (List.range (n.toNat + 2)).map fun i => (o + i, .tok a), slot := st })
  ∧ (st.side = false → a.kind = kDATA ∨ a.kind = kPOISON → s.Acts (.zipt (.out k) (.inp j) (.inp c)) 1
      { takes := [j.toNat], emits := [(o, .tok { a with tag })], slot := { st with side := true } })
  ∧ (st.side = true → b.kind = kDATA ∨ b.kind = kPOISON → s.Acts (.zipt (.out k) (.inp j) (.inp c)) 1
      { takes := [c.toNat], emits := [(o, .tok { b with tag := tag + 1 })], slot := { st with side := false } })
  ∧ ∀ g : BitVec 4,
      let low : BitVec 4 := if a.sc then a.scalar.setWidth 4 else (a.lanes.get 0).setWidth 4
      let data (u : BitVec 4) : Plan := { takes := [j.toNat], emits := [(o, .tok { a with tag := u })], slot := st, otag := some (o, u) }
      if a.kind = kDATA then s.Acts (.troute (.out k) (.inp j) g 0) 1 (data g) ∧ s.Acts (.troute (.out k) (.inp j) 0 1) 1 (data low)
      else ∀ v, s.Acts (.troute (.out k) (.inp j) g v) 1 { takes := [j.toNat], emits := [(o, .tok a)], slot := st }

/-- R90, R244, R245: TALLOC takes the next tag of its configuration's window, the tags going round the sixteen in order, and with .SET makes it the
output's tag; TFREE frees a tag that is outstanding, which leaves the window once every older one has, and of any other tag is the precise trap
TAGFREE: nothing of the firing takes effect and the context enters trap state. Neither changes anything but the window, in the context or outside it.
That the output's tag is written at TALLOC's latency of 2 is the model's reading (log entry 10). -/
def Obligations.TagWindow : Prop := ∀ (s : State) (r : Resident), s.res s.cur.cid = some r →
  let after (q : Resident) : State := s.updRes s.cur.cid fun _ => q
  (∀ g : BitVec 4,
    let u := after { r with nextTag := r.nextTag + 1, tags := r.tags ++ [⟨r.nextTag, false⟩] }
    (∀ k : BitVec 2, s.GivesFrom u (.talloc (.x k) 0 0) 2 [.sreg k.toNat (r.nextTag.setWidth 64)]
      ∧ s.GivesFrom u (.talloc (.x k) g 1) 2 [.sreg k.toNat (r.nextTag.setWidth 64), .otag g.toNat r.nextTag])
    ∧ s.GivesFrom u (.talloc .null 0 0) 2 [] ∧ s.GivesFrom u (.talloc .null g 1) 2 [.otag g.toNat r.nextTag])
  ∧ ∀ (a : Src) (g : BitVec 4), s.poisoned [a] = none →
    let t : BitVec 4 := if a = .zero then g else (s.srcSca a).setWidth 4
    if ∃ x ∈ r.tags, x.tag = t ∧ x.freed = false then
      ∃ q, s.EndsFrom (after q) (.tfree a g) ∧ { q with tags := r.tags, gone := r.gone } = r
        ∧ (∃ gone, (r.tags.map fun x => if x.tag = t then ({ x with freed := true } : TagSlot) else x) = gone ++ q.tags ∧ ∀ x ∈ gone, x.freed = true)
        ∧ (∀ x, q.tags.head? = some x → x.freed = false)
    else exec (.tfree a g) s = .next (s.takeTrap 0x05)

/-- R247: an ISECT whose heads both hold ascending coordinates of at most 192 valid lanes, at the start of a fibre, finds exactly the
coordinates common to both with their positions, and exhausts one of the heads. A UNION finds each coordinate it takes once, with its position in
each head or all ones where that head has it not, in ascending order, and stops at 192 of them; against a MARK or EOS it gives the next 192 of the
head alone, where an ISECT takes them unmatched. A coordinate not greater than the last of its fibre stops the walk there. With both heads DATA an ISECT or UNION does its walk over the
valid lanes and emits its rows on the enabled outputs, consuming the heads it exhausts; a DATA head against a MARK or EOS is taken alone; two
MARKs of one level pass together and start new fibres; MARKs of two levels, or one that is stranded against an EOS, end the fibres of their
inputs. A FIBREORD firing's remaining state is the model's reading (log entry 10). -/
def Obligations.IntersectionsAndUnions : Prop :=
  (∀ va vb : List Word, va.length ≤ 192 → vb.length ≤ 192 →
  va.Pairwise (fun x y => x.toNat < y.toNat) → vb.Pairwise (fun x y => x.toNat < y.toNat) →
  let w := walkBoth false va vb 400 ⟨[], {}, none⟩
  w.bad = none ∧ (w.st.ca = va.length ∨ w.st.cb = vb.length)
  ∧ ∀ x p q, (x, p, q) ∈ w.rows ↔ ∃ a b, va[p]? = some a ∧ vb[q]? = some b ∧ a = b ∧ x = a.toNat)
  ∧ (∀ va vb : List Word, va.length ≤ 192 → vb.length ≤ 192 →
  va.Pairwise (fun x y => x.toNat < y.toNat) → vb.Pairwise (fun x y => x.toNat < y.toNat) →
  let w := walkBoth true va vb 400 ⟨[], {}, none⟩
  let none_ := 2 ^ 32 - 1
  w.bad = none ∧ w.rows.length ≤ 192 ∧ (w.st.ca = va.length ∨ w.st.cb = vb.length ∨ w.rows.length = 192)
  ∧ w.rows.reverse.Pairwise (fun x y => x.1 < y.1)
  ∧ ∀ x p q, (x, p, q) ∈ w.rows ↔ (∃ a, va[p]? = some a ∧ vb[q]? = some a ∧ x = a.toNat ∧ p < w.st.ca ∧ q < w.st.cb)
      ∨ (∃ a, va[p]? = some a ∧ a ∉ vb ∧ x = a.toNat ∧ p < w.st.ca ∧ q = none_)
      ∨ (∃ b, vb[q]? = some b ∧ b ∉ va ∧ x = b.toNat ∧ q < w.st.cb ∧ p = none_))
  ∧ (∀ (l : List Word) (st : SlotState) (side : Bool), l.Pairwise (fun x y => x.toNat < y.toNat) →
    (∀ x ∈ l, if side then st.hb = true → st.lb < x.toNat else st.ha = true → st.la < x.toNat) → st.pa < 2 ^ 32 → st.pb < 2 ^ 32 →
    let two := walkOne true side l ⟨[], st, none⟩
    let one := walkOne false side l ⟨[], st, none⟩
    let n := min 192 l.length
    one.rows = [] ∧ one.bad = none ∧ two.bad = none
    ∧ two.rows.reverse = (List.range n).map (fun i =>
        ((l.getD i 0).toNat, if side then (2 ^ 32 - 1, (st.pb + i) % 2 ^ 32) else ((st.pa + i) % 2 ^ 32, 2 ^ 32 - 1)))
    ∧ (if side then one.st.cb = st.cb + l.length ∧ two.st.cb = st.cb + n else one.st.ca = st.ca + l.length ∧ two.st.ca = st.ca + n))
  ∧ (∀ (uni : Bool) (va vb : List Word) (st : SlotState) (a b : Word), va[st.ca]? = some a → vb[st.cb]? = some b →
    (st.ha = true → a.toNat ≤ st.la → walkBoth uni va vb 400 ⟨[], st, none⟩ = ⟨[], st, some false⟩)
    ∧ ((st.ha = true → st.la < a.toNat) → st.hb = true → b.toNat ≤ st.lb → walkBoth uni va vb 400 ⟨[], st, none⟩ = ⟨[], st, some true⟩))
  ∧ ∀ (s : State) (j c k : BitVec 3) (pb pa : BitVec 1) (uni : Bool) (a b : Token),
  s.headOpt j.toNat = some a → s.headOpt c.toNat = some b →
  let i : Instr := if uni then .union (.out k) (.inp j) (.inp c) pb pa else .isect (.out k) (.inp j) (.inp c) pb pa
  let st := s.slotNow
  let col (o : Nat) (l : List Nat) : Nat × PTok :=
    (o, .tok (vecTok (s.my.otag o) (Mask.first l.length) (Vec.ofList (l.map fun x => BitVec.ofNat 32 x))))
  let rows (l : List Row3) : List (Nat × PTok) := if l = [] then [] else
    [col k.toNat (l.map fun r => r.1)] ++ (if pa = 1 then [col (k.toNat + 1) (l.map fun r => r.2.1)] else [])
      ++ (if pb = 1 then [col (k.toNat + 2) (l.map fun r => r.2.2)] else [])
  let outs : List Nat := [k.toNat] ++ (if pa = 1 then [k.toNat + 1] else []) ++ (if pb = 1 then [k.toNat + 2] else [])
  let walked (w : Walk) (endA endB : Bool) : Prop := match w.bad with
    | some side => s.Acts i 2
        { takes := [if side then c.toNat else j.toNat], emits := outs.map fun o => (o, .bad 0x42),
          slot := if side then { w.st with cb := 0 } else { w.st with ca := 0 } }
    | none => s.Acts i 2
        { takes := (if endA then [j.toNat] else []) ++ (if endB then [c.toNat] else []), emits := rows w.rows.reverse,
          slot := { w.st with ca := if endA then 0 else w.st.ca, cb := if endB then 0 else w.st.cb } }
  (a.kind = kDATA → b.kind = kDATA →
    let w := walkBoth uni a.valid b.valid 400 ⟨[], st, none⟩
    walked w (decide (a.valid.length ≤ w.st.ca)) (decide (b.valid.length ≤ w.st.cb)))
  ∧ (a.kind = kDATA → b.kind = kMARK ∨ b.kind = kEOS →
    let w := walkOne uni false (a.valid.drop st.ca) ⟨[], st, none⟩
    walked w (decide (a.valid.length ≤ w.st.ca)) false)
  ∧ (a.kind = kMARK ∨ a.kind = kEOS → b.kind = kDATA →
    let w := walkOne uni true (b.valid.drop st.cb) ⟨[], st, none⟩
    walked w false (decide (b.valid.length ≤ w.st.cb)))
  ∧ (a.kind = kMARK → b.kind = kMARK → a.tag = b.tag → s.Acts i 2
      { takes := [j.toNat, c.toNat], emits := outs.map fun o => (o, .tok b),
        slot := { st with pa := 0, pb := 0, la := 0, lb := 0, ha := false, hb := false } })
  ∧ (a.kind = kMARK → b.kind = kMARK → a.tag ≠ b.tag → s.Acts i 2
      { takes := [j.toNat, c.toNat], emits := outs.map fun o => (o, .bad 0x41), slot := { st with ca := 0, cb := 0, ha := false, hb := false } })
  ∧ (a.kind = kMARK → b.kind = kEOS → s.Acts i 2 { strands := [j.toNat], slot := { st with ca := 0, ha := false } })
  ∧ (a.kind = kEOS → b.kind = kMARK → s.Acts i 2 { strands := [c.toNat], slot := { st with cb := 0, hb := false } })
  ∧ (a.kind = kEOS → b.kind = kEOS → s.Acts i 2 { takes := [j.toNat, c.toNat], emits := outs.map fun o => (o, .tok b) })


/-- R248, R249, R250: FIBRE cuts a stream into fibres of given lengths, each closed by a MARK with its ordinal; PACKV stages valid lanes and emits
them 192 at a time; SPLITV emits the next piece that holds a valid lane. That FIBRE loads a length whatever the data head is, that an empty piece emits
no token, and that a length in a register is read in a firing of its own, are the model's readings (log entry 10). -/
def Obligations.FibresAndPieces : Prop := ∀ (s : State) (j c k : BitVec 3) (t h : Token),
  s.headOpt j.toNat = some t → s.headOpt c.toNat = some h →
  let st := s.slotNow
  let o := k.toNat
  let lane (l : List Word) : Nat × PTok := (o, .tok (vecTok (s.my.otag o) (Mask.first l.length) (Vec.ofList l)))
  let close (x : SlotState) : SlotState := if x.rem = 0 then { x with loaded := false, pending := true } else x
  let v := if h.sc then h.scalar.toNat else (h.lanes.get 0).toNat
  (∀ l : BitVec 3,
    let fibre (p : Plan) : Prop := s.Acts (.fibre (.out k) (.inp j) (.inp c) l) 1 p
    (st.pending = true → fibre { emits := [(o, .tok (markTok l.toNat true (BitVec.ofNat 64 st.ord)))], slot := { st with ord := st.ord + 1, pending := false } })
    ∧ (st.pending = false → st.loaded = false → h.kind = kDATA → fibre
        { takes := [c.toNat], slot := { st with rem := v % 2 ^ 32, loaded := v % 2 ^ 32 != 0, pending := decide (v % 2 ^ 32 = 0) } })
    ∧ (st.pending = false → st.loaded = false → ∀ x : BitVec 2,
        let n := (s.my.x x.toNat).toNat % 2 ^ 32
        s.Acts (.fibre (.out k) (.inp j) (.x x) l) 1 (if t.kind = kDATA then { slot := { st with rem := n, loaded := n != 0, pending := decide (n = 0) } }
          else { takes := [j.toNat], emits := [(o, .tok t)], slot := if t.kind = kEOS then {} else st }))
    ∧ (st.pending = false → st.loaded = true →
        (t.kind = kDATA → l = 0 →
          let n := min st.rem (t.valid.length - st.cur)
          let fin := decide (t.valid.length ≤ st.cur + n)
          fibre
            { takes := if fin then [j.toNat] else [], emits := if n = 0 then [] else [lane ((t.valid.drop st.cur).take n)],
              slot := close { st with rem := st.rem - n, cur := if fin then 0 else st.cur + n } })
        ∧ ((t.kind = kDATA ∨ t.kind = kMARK ∧ t.tag.toNat + 1 < l.toNat) → l ≠ 0 → fibre { takes := [j.toNat], emits := [(o, .tok t)], slot := st })
        ∧ (t.kind = kMARK → t.tag.toNat + 1 = l.toNat → fibre { takes := [j.toNat], emits := [(o, .tok t)], slot := close { st with rem := st.rem - 1 } })
        ∧ (t.kind = kMARK → l.toNat ≤ t.tag.toNat → fibre { takes := [j.toNat], emits := [(o, .bad 0x41)], slot := { st with loaded := false } })
        ∧ (t.kind = kEOS → fibre { emits := [(o, .bad 0x41)], slot := { st with loaded := false } })
        ∧ (t.kind = kDRAIN ∨ t.kind = kPOISON → fibre { takes := [j.toNat], emits := [(o, .tok t)], slot := st })))
  ∧ (if t.kind = kDATA ∧ t.sc = false then
      let buf := st.buf ++ t.valid
      s.Acts (.packv (.out k) (.inp j)) 1 (if 192 ≤ buf.length then { takes := [j.toNat], emits := [lane (buf.take 192)], slot := { st with buf := buf.drop 192 } }
        else { takes := [j.toNat], slot := { st with buf } })
    else s.Acts (.packv (.out k) (.inp j)) 1 (if st.buf = [] then { takes := [j.toNat], emits := [(o, .tok t)], slot := if t.kind = kEOS then {} else st }
        else { emits := [lane st.buf], slot := { st with buf := [] } }))
  ∧ ∀ w : BitVec 2,
    let n := if w = 0 then 96 else if w = 1 then 64 else if w = 2 then 32 else 16
    let split (p : Plan) : Prop := s.Acts (.splitv (.out k) (.inp j) w) 1 p
    (t.kind ≠ kDATA ∨ t.sc = true → split { takes := [j.toNat], emits := [(o, .tok t)], slot := if t.kind = kEOS then {} else st })
    ∧ (t.kind = kDATA → t.sc = false →
      let live (q : Nat) : Prop := st.cur ≤ q ∧ q < 192 / n ∧ fld t.mask (n * q + n - 1) (n * q) ≠ 0
      ((∀ q, ¬ live q) → split { takes := [j.toNat], slot := { st with cur := 0 } })
      ∧ ∀ q, live q → (∀ p, live p → q ≤ p) →
          let piece : Nat × PTok := (o, .tok (vecTok (s.my.otag o) (BitVec.ofNat 192 (fld t.mask (n * q + n - 1) (n * q)))
            (Vec.gen fun i => if i < n then t.lanes.get (n * q + i) else 0)))
          ((∃ p, live p ∧ p ≠ q) → split { emits := [piece], slot := { st with cur := q + 1 } })
          ∧ ((∀ p, live p → p = q) → split { takes := [j.toNat], emits := [piece], slot := { st with cur := 0 } }))

/-- R251, R252: COMPACT moves the selected lanes together, or counts them; ORDER emits a stable sort of them, with IDX their lane numbers too. That a
scalar DATA head counts as valid in every lane is the model's reading (log entry 10). -/
def Obligations.CompactAndOrder : Prop := ∀ (s : State) (a : Src), s.poisoned [a] = none →
  let valid (i : Nat) : Bool := match a with
    | .inp j => (s.head j.toNat).kind == kDATA && ((s.head j.toNat).sc || (s.head j.toNat).mask.getLsbD i)
    | .v _ => true | .x _ => true | .lane => true | .zero => true | .lit _ => true
  let sel : List Nat := (List.range 192).filter fun i => s.my.regs.mask.getLsbD i && valid i
  let val (i : Nat) : Word := (s.srcVec a).get i
  let run (k : Nat) (l : List Word) : Token := s.stamp s.cur.cid (vecTok (s.my.otag k) (Mask.first l.length) (Vec.ofList l))
  (∀ k : BitVec 4, s.Gives (.compact (.v k) a) 2 [.vec k.toNat Mask.full (Vec.ofList (sel.map val))])
  ∧ (∀ k : BitVec 2, s.Gives (.compact (.x k) a) 2 [.sreg k.toNat (BitVec.ofNat 64 sel.length)])
  ∧ (∀ k : BitVec 3, s.Gives (.compact (.out k) a) 2 (if sel = [] then [] else [.emit k.toNat (run k.toNat (sel.map val))]))
  ∧ s.Ends (.compact .null a)
  ∧ ∀ (k : BitVec 3) (c : BitVec 4), c.toNat % 4 ≠ 3 →
    let key (i : Nat) : Nat := sortKey (c.toNat % 4) (val i)
    let first (p q : Nat) : Prop := (if c.getLsbD 2 then key q < key p else key p < key q) ∨ (key p = key q ∧ p < q)
    if sel = [] then s.Ends (.order (.out k) a c)
    else ∃ l : List Nat, l.Perm sel ∧ l.Pairwise first ∧ s.Gives (.order (.out k) a c) 6
      (.emit k.toNat (run k.toNat (l.map val))
        :: if c.getLsbD 3 then [.emit (k.toNat + 1) (run (k.toNat + 1) (l.map fun i => BitVec.ofNat 32 i))] else [])

/-- R253, R254, R255: POISON emits Poison(code) under its output's tag; ENDS keeps EOS and completes its sink, consumes and counts DATA (or strands it
under STRICT), consumes MARK, POISON and DRAIN; CHOCC gives the word of an input or of an output. -/
def Obligations.EndsAndStatus : Prop := ∀ s : State,
  (∀ (k : BitVec 3) (n : BitVec 8), s.Gives (.poison (.out k) n) 1
    [.emit k.toNat (s.stamp s.cur.cid (poisTok (s.my.otag k.toNat) (s.source s.cur.cid) (s.my.regs.fcount + 1) n))])
  ∧ (∀ (d : Dst) (j : BitVec 3) (y : BitVec 1),
    let t := s.head j.toNat
    let cnt := SMap.get s.my.sinkCnt s.cur.slot 0
    let i : Instr := .ends d (.inp j) y
    (t.kind = kEOS → s.GivesFrom (s.updCtx s.cur.cid fun k => { k with sinkDone := SMap.set k.sinkDone j.toNat true }) i 1
      (s.write d (.sca (BitVec.ofNat 64 cnt)) 0))
    ∧ (t.kind = kDATA → y = 0 → s.EndsFrom (s.updCtx s.cur.cid fun k => { k with sinkCnt := SMap.set k.sinkCnt s.cur.slot (cnt + 1) }) i [j.toNat])
    ∧ (t.kind = kDATA → y = 1 → s.EndsFrom (s.countStranded s.cur.cid 1) i [j.toNat])
    ∧ (t.kind = kPOISON → s.EndsFrom (s.countPoison s.cur.cid t) i [j.toNat])
    ∧ (t.kind = kMARK ∨ t.kind = kDRAIN → s.Ends i [j.toNat]))
  ∧ ∀ (k : BitVec 2) (n : BitVec 3),
    let b := s.my.buf n.toNat
    let gives (c : BitVec 4) (w : Dword) : Prop := s.Gives (.chocc (.x k) c) 1 [.sreg k.toNat w]
    (b.length ≤ 8 → gives (0#1 ++ n) (0#16 ++ SMap.get s.my.ch.deqd n.toNat 0 ++ 0#20 ++ (match b with | [] => 0b111#3 | h :: _ => h.kind)
      ++ (match b with | [] => 0#4 | h :: _ => h.tag) ++ 0#1 ++ BitVec.ofNat 4 b.length))
    ∧ (s.skew s.cur.cid n.toNat ≤ 16 → gives (1#1 ++ n) (0#16 ++ SMap.get s.my.ch.emtd n.toNat 0 ++ 0#10 ++ BitVec.ofNat 5 (s.skew s.cur.cid n.toNat)
      ++ bv1 (s.isMcast s.cur.cid n.toNat) ++ s.my.otag n.toNat ++ 0#11 ++ bv1 (s.outAtStart n.toNat)))

/-! ### Memory access -/

/-- R271, R273, R274, R285: the addresses, sizes and operations of the vault accesses, of indexed accesses through a port and of single accesses,
over the lanes under the mask that every vector head read holds too; where each result goes; and what happens when a source is POISON, no lane
is active, a check fails or a key is out of order. The checks in R271's order, with their codes: of a V-space access NONCANON, MISALIGN, PORTRANGE;
of one through a port NONCANON, MISALIGN, PORTRANGE and the patched entry's PERM or PGSIZE; and the code is the first failing check of the lowest
lane that fails one. -/
def Obligations.MemoryAccesses : Prop := ∀ (s : State) (d : Dst) (a b : Src) (p n : BitVec 2) (h w : BitVec 1) (g : BitVec 4),
  (∀ (c : Nat) (x : Acc),
    let held : Prop := ∃ q ∈ s.spans c, q.1 ≤ x.va ∧ x.va + x.size ≤ q.1 + q.2
    let vault (code : Nat) (inside : Prop) : Prop :=
      (2 ^ 34 ≤ x.va → code = 0x20) ∧ (x.va < 2 ^ 34 → x.va % x.size ≠ 0 → code = 0x21)
      ∧ (x.va < 2 ^ 34 → x.va % x.size = 0 → (inside → code = 0) ∧ (¬ inside → code = 0x22))
    vault (s.checkAcc c 4 x) held
    ∧ ∀ (q : Nat) (g : Gen), q < 4 → s.gen c q = some g →
      let code := s.checkAcc c q x
      let inside : Prop := g.base ≤ x.va ∧ x.va + x.size ≤ g.base + g.extent
      let canon : Prop := x.va < 2 ^ 64 ∧ (x.va / 2 ^ 52 = 0 ∨ x.va / 2 ^ 52 = 4095)
      (g.page = 3 → vault code (inside ∧ held))
      ∧ (g.page ≠ 3 → (¬ canon → code = 0x20) ∧ (canon → x.va % x.size ≠ 0 → code = 0x21) ∧ (canon → x.va % x.size = 0 → ¬ inside → code = 0x22)
        ∧ (canon → x.va % x.size = 0 → inside → (g.entry x.va).awaits = false →
          (∀ f rd wr usr k m, (g.entry x.va).p = .frame f rd wr usr k m →
            code = if (ctxOf c < 4 ∧ usr = false) ∨ (x.op.writes = true ∧ wr = false) ∨ (x.op.writes = false ∧ rd = false) then 0x23 else 0)
          ∧ ((g.entry x.va).p = .pg → code = 0x24) ∧ ((g.entry x.va).p = .np → code = 0))))
  ∧ (∀ (c q : Nat) (pre : List Acc) (x : Acc) (post : List Acc), (∀ y ∈ pre, s.checkAcc c q y = 0 ∧ s.undecided c q y = false) →
    (s.checkAcc c q x ≠ 0 → s.checkAll c q (pre ++ x :: post) = some (s.checkAcc c q x, x.va)) ∧ s.checkAll c q pre = none)
  ∧
  let lanes (m : Mask) (f : Nat → Nat) (op : Nat → AccOp) : List Acc :=
    ((List.range 192).filter fun i => m.getLsbD i).map fun i => { lane := i, va := f i, size := 4, op := op i }
  let pairs (m : Mask) (op : Nat → AccOp) : List Acc := ((List.range 96).filter fun j => m.getLsbD (2 * j)).map fun j =>
    { lane := 96 * h.toNat + j, va := ((s.srcVec a).get (2 * j + 1) ++ (s.srcVec a).get (2 * j)).toNat, size := 4, op := op (96 * h.toNat + j) }
  let mask := s.my.regs.mask
  let base := (s.srcSca a).toNat
  let ix (i : Nat) : Nat := base + ((s.srcVec b).get i).toNat * 2 ^ n.toNat
  let vec : Deliver := match d with | .v k => .vreg k.toNat | .out k => .vout k.toNat (s.my.otag k.toNat) | .x k => .sreg k.toNat | .null => .none
  let sca : Deliver := match d with | .v k => .vreg k.toNat | .out k => .sout k.toNat (s.my.otag k.toNat) | .x k => .sreg k.toNat | .null => .none
  let dep : Deliver := match d with | .out k => .dep k.toNat (s.my.otag k.toNat) | .v _ => .none | .x _ => .none | .null => .none
  let one (op : AccOp) : List Acc := [{ lane := 0, va := base, size := 4 + 4 * w.toNat, op }]
  s.Accesses (.vld d a) d [a] { port := 4, accs := lanes mask (fun i => base + 4 * i) fun _ => .rd, dl := vec, vs := vOf d, os := outOf d }
  ∧ s.Accesses (.vst d a b) d [a, b]
      { port := 4, accs := lanes (mask &&& s.validOf b) (fun i => base + 4 * i) fun i => .wr ((s.srcVec b).get i).toNat, dl := dep, os := outOf d }
  ∧ s.Accesses (.vldx d a b n) d [a, b] { port := 4, accs := lanes (mask &&& s.validOf b) ix fun _ => .rd, dl := vec, vs := vOf d, os := outOf d }
  ∧ s.Accesses (.vstx d a b n) .null [a, b]
      { port := 4, accs := lanes (mask &&& s.validOf b) ix fun i => .wr ((s.dstVec d).get i).toNat }
  ∧ s.Accesses (.gld d a h p) d [a] { port := p.toNat, accs := pairs (mask &&& s.validOf a) fun _ => .rd, dl := vec, vs := vOf d, os := outOf d }
  ∧ s.Accesses (.gst d a b h p) d [a, b]
      { port := p.toNat, accs := pairs (mask &&& s.validOf a &&& s.validOf b) fun i => .wr ((s.srcVec b).get i).toNat, dl := dep, os := outOf d }
  ∧ s.Accesses (.glda d a g w 0 p) d [a] { port := p.toNat, accs := one .rd, dl := sca, xs := xOf d, os := outOf d, acquire := true }
  ∧ s.Accesses (.glda d a g w 1 0) d [a] { port := 4, accs := one .rd, dl := sca, xs := xOf d, os := outOf d, acquire := true }
  ∧ s.Accesses (.gstr d a g w 0 p) .null [a] { port := p.toNat, accs := one (.wr (s.dstSca d).toNat), release := some g.toNat }
  ∧ s.Accesses (.gstr d a g w 1 0) .null [a] { port := 4, accs := one (.wr (s.dstSca d).toNat), release := some g.toNat }

/-- R299, R300, R263: a request that a firing makes reserves its destination until it is delivered, carries the key of KR and the next request
number of its port, raises STEP by one and changes no byte of memory and no other context; on the vault path with no request waiting before it and
none issued in this cycle, it issues at once, each access on its way to its vault byte. -/
def Obligations.RequestsMade : Prop := ∀ (s : State) (h : Shot),
  let t := s.shoot h
  (∀ x, memGet t.mem x = memGet s.mem x)
  ∧ t.my.regs = { s.my.regs with kr := s.my.regs.kr + 1 } ∧ (∀ c, c ≠ s.cur.cid → t.ctx c = s.ctx c) ∧ t.reqNo = s.reqNo + 1
  ∧ (∀ q, q.id ≠ s.reqNo → (q ∈ t.reqs ↔ q ∈ s.reqs))
  ∧ (h.port = 4 → h.tile = none → (∀ q ∈ s.reqs, q.cid = s.cur.cid → q.port = 4 → q.issued = true ∧ q.cycle ≠ s.cycle) → ∃ r ∈ t.reqs, r.id = s.reqNo
      ∧ r.cid = s.cur.cid ∧ r.port = 4 ∧ r.deliver = h.dl ∧ r.key = s.my.regs.kr ∧ r.issued = true
      ∧ r.ext = s.my.regs.kr.toNat * 2 ^ 93 + (s.source s.cur.cid).toNat * 2 ^ 64 + (s.my.point 4).reqs
      ∧ r.pend = (if h.owes then some s.pendNo else none)
      ∧ r.accs.map (fun a => (a.lane, a.va, a.size, a.op, a.st, a.pa))
          = h.accs.map (fun a => (a.lane, a.va, a.size, a.op, AccSt.flight, some (2 ^ 52 + (s.pkg.pkgId * 2 ^ 41 + a.va))))
      ∧ ∀ a ∈ r.accs, s.cycle + 11 ≤ a.due)
  ∧ (h.port = 4 → t.my.pend = s.my.pend ++ if h.owes then [⟨s.pendNo, none, h.vs, h.xs, [], h.os, []⟩] else [])

/-- R313, R316, R317, R318, R319, R320: each atomic is one access at S1 of 32 or 64 bits in the scalar shape (128 for AWADD), or one of
32 bits for each active address pair; its operand is D before the firing (for ACAS, D expects and the next register replaces); its old values
come back to D unless .NR. The word each leaves where it found `x`, with operand `b`, at 32 and at 64 bits. -/
def Obligations.Atomics : Prop :=
  (∀ (s : State) (d : Dst) (a : Src) (h w v n : BitVec 1) (p : BitVec 2),
  let accs (w : BitVec 1) (op : Nat → AccOp) : List Acc :=
    if isScalar d then [{ lane := 0, va := (s.srcSca a).toNat, size := 4 + 4 * w.toNat, op := op 0 }]
    else ((List.range 96).filter fun j => (s.my.regs.mask &&& s.validOf a).getLsbD (2 * j)).map fun j =>
      { lane := 96 * h.toNat + j, va := ((s.srcVec a).get (2 * j + 1) ++ (s.srcVec a).get (2 * j)).toNat, size := 4, op := op (96 * h.toNat + j) }
  let arg (i : Nat) : Nat := if isScalar d then (s.dstSca d).toNat else ((s.dstVec d).get i).toNat
  let next (i : Nat) : Nat := match d with
    | .x k => (s.my.x (k.toNat + 1)).toNat
    | .v k => ((s.my.v (k.toNat + 1)).get i).toNat
    | .out _ => 0 | .null => 0
  let path := if v = 1 then 4 else p.toNat
  let shot (l : List Acc) : Shot := if n = 1 then { port := path, accs := l } else
    { port := path, accs := l, vs := vOf d, xs := xOf d,
      dl := match d with
        | .v k => .vreg k.toNat | .x k => .sreg k.toNat | .out k => .vout k.toNat (s.my.otag k.toNat) | .null => .none }
  let atom (i : Instr) (w : BitVec 1) (op sub : Nat) : Prop := s.Accesses i .null [a] (shot (accs w fun j => .atom op sub (arg j)))
  atom (.aadd d a h w v n p) w 0xC0 0 ∧ atom (.aand d a h w v n p) w 0xC1 0 ∧ atom (.aor d a h w v n p) w 0xC2 0
  ∧ atom (.axor d a h w v n p) w 0xC3 0 ∧ (∀ y : BitVec 1, atom (.amin d a h w v n p y) w 0xC4 y.toNat ∧ atom (.amax d a h w v n p y) w 0xC5 y.toNat)
  ∧ atom (.axchg d a h w v n p) w 0xC6 0 ∧ atom (.afadd d a h v n p) 0 0xC8 0 ∧ atom (.afmin d a h v n p) 0 0xC9 0
  ∧ atom (.afmax d a h v n p) 0 0xCA 0
  ∧ (∀ y : BitVec 2, atom (.ainc d a h w v n p y) w 0xCC y.toNat ∧ atom (.abit d a h w v n p y) w 0xCD y.toNat)
  ∧ s.Accesses (.acas d a h w v n p) .null [a] (shot (accs w fun j => .cas (arg j) (next j)))
  ∧ ∀ k : BitVec 2,
    let wide : List Acc := [{ lane := 0, va := (s.srcSca a).toNat, size := 16, op := .wadd (s.my.x (k.toNat + 1) ++ s.my.x k.toNat).toNat }]
    s.Accesses (.awadd (.x k) a v n p) .null [a] (if n = 1 then { port := path, accs := wide }
      else { port := path, accs := wide, dl := .pair k.toNat, xs := [k.toNat, k.toNat + 1] }))
  ∧ ∀ w ∈ [32, 64], ∀ x b e : BitVec w,
  let new (op sub : Nat) (r : BitVec w) : Prop := (AccOp.atom op sub b.toNat).result (w / 8) x.toNat = some r.toNat
  let bit : BitVec w := BitVec.twoPow w (b.toNat % w)
  new 0xC0 0 (x + b) ∧ new 0xC1 0 (x &&& b) ∧ new 0xC2 0 (x ||| b) ∧ new 0xC3 0 (x ^^^ b)
  ∧ new 0xC4 0 (if b.slt x then b else x) ∧ new 0xC4 1 (if b.ult x then b else x)
  ∧ new 0xC5 0 (if x.slt b then b else x) ∧ new 0xC5 1 (if x.ult b then b else x) ∧ new 0xC6 0 b
  ∧ new 0xCC 0 (if b.ule x then 0 else x + 1) ∧ new 0xCC 1 (if x.ult b then x + 1 else x)
  ∧ new 0xCC 2 (if x = 0 ∨ b.ult x then b else x - 1)
  ∧ new 0xCD 0 (x ||| bit) ∧ new 0xCD 1 (x &&& ~~~bit) ∧ new 0xCD 2 (x ^^^ bit)
  ∧ (AccOp.cas e.toNat b.toNat).result (w / 8) x.toNat = some (if x = e then b else x).toNat
  ∧ (∀ y c : BitVec 32, (AccOp.atom 0xC8 0 c.toNat).result 4 y.toNat = some (fadd 0 y c).1.toNat
      ∧ (AccOp.atom 0xC9 0 c.toNat).result 4 y.toNat = some (fminmax false false y c).1.toNat
      ∧ (AccOp.atom 0xCA 0 c.toNat).result 4 y.toNat = some (fminmax true false y c).1.toNat)
  ∧ ∀ y c : BitVec 128, (AccOp.wadd c.toNat).result 16 y.toNat = some (y + c).toNat


/-- R275, R277, R278, R279: SPORT checks its descriptor (each breach its precise trap, in the manual's order) and sets the port running; SREQ.R moves
the head token of the port's buffer to its output; SREQ.W stores a DATA head's elements to the stream's next places, in as many requests as they
touch pages, and consumes the head; SGATH
takes the rows of its active lanes. A read stream and an SGATH use the key of their own firing (log entry 12). -/
def Obligations.Streams : Prop := ∀ (s : State) (p : BitVec 2) (a : Src),
  let c := s.cur.cid
  let n := p.toNat
  let old := s.sport n
  let stepped (x : State) : State := x.updCtx c fun k => { k with
    points := SMap.set k.points n { k.point n with last := some k.regs.kr, floor := extKey (k.regs.kr + 1) (s.source c).toNat (k.point n).reqs },
    regs := { k.regs with kr := k.regs.kr + 1 } }
  (∀ (g : Gen) (u : BitVec 1) (m : BitVec 2), s.gen c n = some g → m ≠ 3 →
    let d := portDesc (s.srcVec a)
    let i : Instr := .sport a p u m
    let levels := bitsN d 65 64 + 1
    let run : SPort :=
      { mode := if m = 0 then .read else if m = 1 then .write else .gath, bulk := u == 1, offset := bitsN d 63 0,
        counts := (List.range levels).map fun l => bitsN d (64 * l + 159) (64 * l + 128),
        strides := (List.range 4).map fun l => signedN 32 (bitsN d (64 * l + 191) (64 * l + 160)), roww := bitsN d 87 80,
        chain := { e := (List.range levels).map fun l => bitsN d (64 * l + 159) (64 * l + 128), n := levels, armed := true },
        seq := old.seq, firing := s.firing.toNat, start := s.cycle + 4, key := s.my.regs.kr }
    if descReserved d (m == 2) then exec i s = .next (s.takeTrap 0x10)
    else if descMisaligned d then exec i s = .next (s.takeTrap 0x21 (some (g.base + bitsN d 63 0)))
    else if m ≠ 2 ∧ s.descOutside g d = true then exec i s = .next (s.takeTrap 0x16)
    else if m = 0 then (if s.keyFault n then exec i s = .next (s.takeTrap 0x04) else s.EndsFrom (stepped (s.setPort c n run)) i)
    else s.EndsFrom (s.setPort c n run) i)
  ∧ (∀ (k : BitVec 3) (b : PortTok) (rest : List PortTok), old.buf = b :: rest → b.reqs = [] → b.more = false →
    let mode := if b.tok.kind = kEOS then PortMode.idle else old.mode
    let tok := if b.tok.kind = kMARK then b.tok else { b.tok with tag := s.my.otag k.toNat }
    s.GivesFrom (s.setPort c n { old with buf := rest, mode }) (.sreq (.out k) a p 0) 1 [.emit k.toNat (s.stamp c tok)])
  ∧ (∀ (j : BitVec 3) (d : Dst) (g : Gen), s.gen c n = some g →
    let i : Instr := .sreq d (.inp j) p 1
    let h := s.head j.toNat
    let vs := if h.sc then [h.scalar.toNat % 2 ^ 32] else (Mask.list h.mask).map fun l => (h.lanes.get l).toNat
    let accs := old.stores g.base 0 old.pos vs
    let over_ := old.pos + vs.length
    (h.kind = kPOISON → s.EndsFrom (s.countPoison c h) i [j.toNat])
    ∧ (h.kind = kMARK → s.Ends i [j.toNat])
    ∧ (h.kind = kDATA → vs ≠ [] → over_ ≤ old.total → s.checkAll c n accs = none → s.keyFault n = false →
        exec i s = .next (((s.setPort c n { old with pos := over_ }).shootRuns { port := n, accs, stream := true, bulk := old.bulk }
          (pageRuns g.page accs)).retire [j.toNat])))
  ∧ ∀ (k : BitVec 3) (g : Gen), s.gen c n = some g → s.poisoned [a] = none →
    let rows := (Mask.list (s.my.regs.mask &&& s.validOf a)).map fun j =>
      ((g.base + old.offset : Nat) : Int) + (((s.srcVec a).get j).toNat : Int) * old.strides.getD 0 0
    if rows = [] then s.Ends (.sgath (.out k) a p)
    else if s.keyFault n then exec (.sgath (.out k) a p) s = .next (s.takeTrap 0x04)
    else s.EndsFrom (stepped ((s.openPend c [] [] [k.toNat]).setPort c n { old with rows, gath := some (k.toNat, s.pendNo), key := s.my.regs.kr,
                                                                                     firing := s.firing.toNat, pos := (s.my.otag k.toNat).toNat }))
      (.sgath (.out k) a p)

/-- R280, R281, R262: TILEST writes the tile's header, data lanes or scales, inside the tile or not at all (TILEBND); TILEQ gives the table's entry
as it stood when the cycle began (R7) and makes its transition, or waits at the table where the state does not allow it; a second CLOSE waits for
no more than the first. -/
def Obligations.Tiles : Prop := ∀ (s : State) (d : Dst) (a b : Src) (no : BitVec 12) (t : Tile), s.tile (regionOf s.cur.cid) no.toNat = some t →
  let p := (s.srcSca b).toNat
  let act (i : Nat) : Bool := (s.my.regs.mask &&& s.validOf a).getLsbD i
  let pieces (m : BitVec 3) : List (Nat × Nat × Nat) :=
    if m = 0 then (0, 8, (s.srcSca a).toNat) :: (List.range 7).map fun i => (8 * (i + 1), 8, 0)
    else if m = 1 then ((List.range 192).filter act).map fun i => (64 + p + 4 * i, 4, ((s.srcVec a).get i).toNat)
    else if m = 2 then ((List.range 96).filter fun i => act (2 * i)).map fun i => (64 + p + 4 * i, 4, ((s.srcVec a).get (2 * i)).toNat)
    else (List.range 6).map fun i => (64 + p + i, 1, ((s.srcSca a).extractLsb' (8 * i) 8).toNat)
  (∀ m : BitVec 3, m.toNat < 4 → s.poisoned [a, b] = none →
    if ((m = 1 ∨ m = 2) ∧ p % 4 ≠ 0) ∨ ∃ w ∈ pieces m, t.bytes < w.1 + w.2.1 then exec (.tilest d a b m no) s = .next (s.takeTrap 0x11)
    else ∃ accs : List Acc, accs.map (fun x => (x.va, x.size, x.op))
        = (pieces m).map (fun w => (regionOf s.cur.cid * 2 ^ 26 + t.offset + w.1, w.2.1, AccOp.wr w.2.2))
      ∧ s.Accesses (.tilest d a b m no) d []
          { port := 4, accs, dl := s.depDeliver d, os := outOf d, tile := some no.toNat })
  ∧ ∀ k : BitVec 2,
    let seen : Tile := (SMap.find (s.region (regionOf s.cur.cid)).tilesSeen no.toNat).getD t
    let st : BitVec 2 := match seen.st with | .empty => 0 | .filling => 1 | .opened => 1 | .ready => 2 | .draining => 3
    let word : Dword := 0#4 ++ st ++ bv1 (seen.st = .opened) ++ 0#4 ++ BitVec.ofNat 21 (seen.bytes / 64) ++ 0#6 ++ BitVec.ofNat 26 seen.offset
    let gives (o : BitVec 4) (x : Tile) : Prop :=
      s.GivesFrom (s.updRegion (regionOf s.cur.cid) fun g => { g with tiles := SMap.set g.tiles no.toNat x }) (.tileq (.x k) o no) 2 [.sreg k.toNat word]
    s.Gives (.tileq (.x k) 0 no) 2 [.sreg k.toNat word]
    ∧ (t.st = .empty ∨ t.st = .ready ∧ t.holders = 0 → gives 1 { t with st := .opened, mark := none })
    ∧ (t.st = .opened → gives 2 { t with mark := some (t.mark.getD s.reqNo) })
    ∧ (t.st = .ready → t.holders = 0 → gives 3 { t with st := .draining, mark := some s.reqNo })
    ∧ ∀ o : BitVec 4, t.grants (.op o.toNat) = false → gives o { t with waitq := t.waitq ++ [.op o.toNat] }

/-- R282, R283, R284: VALLOC places its size, rounded up to 4,096, at the lowest multiple of 4,096 where it fits, or exactly where .AT says, and gives
the V-space address; where it cannot, all ones, or in a keyed launch the precise trap KEYALLOC; VFREE gives up an allocation the configuration
holds, and of any other address traps BADFREE. PREF asks its port's channels to open the rows of the range of 4,096 * 2^N bytes, clipped to the
port's extent, unit by unit of 4,096 bytes; a unit whose page is not present in HBM, or awaits its repatch, and a V-space port ask nothing; it changes
nothing else. -/
def Obligations.Allocations : Prop := ∀ (s : State) (k : BitVec 2) (a : Src) (v f : BitVec 4) (r : Resident),
  s.res s.cur.cid = some r → s.poisoned [a] = none →
  let size := (s.srcSca a).toNat
  let n := (size + 4095) / 4096 * 4096
  let vault := f.toNat * 16 + v.toNat
  let lat := 8 + 40 * fronHops (frondOf (regionOf s.cur.cid)) f.toNat
  let room := 1 ≤ size ∧ size ≤ 2 ^ 26 ∧ s.myAllocs.length < 16 ∧ (s.pkg.allocs.filter fun x => x.vault = vault).length < 256
  let fits (o : Nat) : Bool := fitsAt (s.taken vault) o n
  let placed (i : Instr) (o : Nat) : Prop := ∃ id, (∀ x ∈ s.pkg.allocs, x.id < id) ∧
    s.GivesFrom (s.updPkg fun q => { q with allocs := q.allocs ++
      [{ id, vault, offset := o, bytes := n, lid := r.lid, region := regionOf s.cur.cid, cfg := r.cfg.num }] }) i lat
      [.sreg k.toNat (BitVec.ofNat 64 (vault * 2 ^ 26 + o))]
  let none_ (i : Instr) : Prop := if s.keyed s.cur.cid then exec i s = .next (s.takeTrap 0x06) else s.Gives i lat [.sreg k.toNat (BitVec.allOnes 64)]
  (∀ off : BitVec 14, let i : Instr := .valloc (.x k) a v f 1 off
    if room ∧ fits (off.toNat * 4096) = true then placed i (off.toNat * 4096) else none_ i)
  ∧ (let i : Instr := .valloc (.x k) a v f 0 0
    (s.keyed s.cur.cid = true → exec i s = .next (s.takeTrap 0x06))
    ∧ (s.keyed s.cur.cid = false → room →
        (∀ o, o % 4096 = 0 → fits o = true → (∀ q, q % 4096 = 0 → fits q = true → o ≤ q) → placed i o)
        ∧ ((∀ o, o % 4096 = 0 → fits o = false) → none_ i))
    ∧ (s.keyed s.cur.cid = false → ¬ room → none_ i))
  ∧ (∀ x, (s.myAllocs.find? fun y => y.vault * 2 ^ 26 + y.offset = size) = some x → s.EndsFrom (s.updPkg fun q => { q with
      allocs := q.allocs.map fun y => if y.id = x.id then { y with freed := some s.reqNo } else y }) (.vfree a))
  ∧ ((∀ x ∈ s.myAllocs, x.vault * 2 ^ 26 + x.offset ≠ size) → exec (.vfree a) s = .next (s.takeTrap 0x07))
  ∧ ∀ (p : BitVec 2) (n : BitVec 4),
    (s.gen s.cur.cid p.toNat = none → s.Ends (.pref a p n))
    ∧ ∀ g, s.gen s.cur.cid p.toNat = some g → ∃ l : List Nat,
      (∀ x, x ∈ l ↔ ∃ u : Nat, g.page ≠ 3 ∧ max size g.base < min (size + 4096 * 2 ^ n.toNat) (g.base + g.extent)
          ∧ 4096 * u < min (size + 4096 * 2 ^ n.toNat) (g.base + g.extent) ∧ max size g.base < 4096 * (u + 1) ∧ (g.entry (4096 * u)).awaits = false
          ∧ ∃ b rd wr usr k, (g.entry (4096 * u)).p = .frame b rd wr usr false k ∧ x = b + 4096 * u % pageBytes g.page)
      ∧ (l = [] → s.Ends (.pref a p n))
      ∧ (l ≠ [] → s.EndsFrom (s.updPkg fun q => { q with prefs := q.prefs ++ [⟨l, s.cycle⟩] }) (.pref a p n))

/-! ### Ordering -/

/-- R305, R307, R308, R309, R310, R311: once it fires, a FENCE, PERFW or MCSYNC changes nothing, but that a FENCE.AR or .REL of lane or elem leaves
the model's own mark, by which the queues keep its order (log entries 3 and 17); FENCEX and FENCEP emit a dependence token; SEQKEY
reads KR, or sets it with its PHASE kept, or raises STEP, and a change that lowers KR in a keyed launch or carries out of STEP is the precise
trap KEYORDER. -/
def Obligations.OrderingInstructions : Prop := ∀ s : State,
  (∀ (g : BitVec 4) (k : BitVec 2),
    if g.toNat ≤ 1 ∧ k ≠ 1 then s.EndsFrom (s.updCtx s.cur.cid fun c => { c with fenceMark := s.reqNo }) (.fence g k) else s.Ends (.fence g k))
  ∧ (∀ c, s.Ends (.perfw c)) ∧ (∀ a, s.poisoned [a] = none → s.Ends (.mcsync a))
  ∧ (∀ (a : Src) (q : Token), s.poisoned [a] = some q → s.EndsFrom (s.countPoison s.cur.cid q) (.mcsync a))
  ∧ (∀ k : BitVec 3, let dep : List Eff := [.emit k.toNat (s.stamp s.cur.cid { kind := kDATA, tag := s.my.otag k.toNat, sc := true, scalar := 1, dep := true })]
      s.Gives (.fencex (.out k)) 1 dep ∧ s.Gives (.fencep (.out k)) 1 dep)
  ∧ s.Ends (.fencex .null) ∧ s.Ends (.fencep .null)
  ∧ (∀ k : BitVec 2, s.Gives (.seqkey (.x k) .zero 3) 1 [.sreg k.toNat s.my.regs.kr])
  ∧ ∀ a : Src, s.poisoned [a] = none →
    let kr := s.my.regs.kr
    let w := s.srcSca a
    let sets (m : BitVec 2) (new : Dword) (over_ : Bool) : Prop :=
      if over_ = true ∨ s.keyed s.cur.cid = true ∧ new.toNat < kr.toNat then exec (.seqkey .null a m) s = .next (s.takeTrap 0x04)
      else s.EndsFrom (s.updCtx s.cur.cid fun c => c.updRegs fun g => { g with kr := new }) (.seqkey .null a m)
    sets 0 (kr.extractLsb' 48 16 ++ w.extractLsb' 0 48) false
    ∧ sets 1 (kr.extractLsb' 48 16 ++ w.extractLsb' 0 32 ++ 0#16) false
    ∧ sets 2 (kr + (w.extractLsb' 0 16).setWidth 64) (decide (2 ^ 16 ≤ (kr.extractLsb' 0 16).toNat + (w.extractLsb' 0 16).toNat))

/-! ### Traps, breaks and returns -/

/-- R92, R113, R405, R407, R408, R422, R423: a precise trap leaves everything of its firing undone: its context alone enters trap state, and one
record of kind 0 is raised in its region; TRAP is USER with its immediate and S1 as details. A break retires first, and its record is of kind 1.
TRET resumes a trapped target, which is a candidate again two cycles on; with .SKIP the trapped firing's rule takes effect without its
instruction; with .KILL the launch is killed; of a target that is not in trap state it gives 1; of no target it is itself a trap. -/
def Obligations.TrapsAndReturns : Prop := ∀ s : State,
  let c := s.cur.cid
  let r := regionOf c
  let inTrap (u : State) (brk : Bool) : State := u.updCtx c fun k => { k with ctl := { k.ctl with trap := some { slot := s.cur.slot, brk } } }
  let record (code kind flags : Nat) (addr d1 d2 : Nat) : Rec :=
    { code, kind, slot := s.cur.slot, flags, source := (s.source c).toNat, fcount := (s.my.regs.fcount + 1).toNat, time := s.pkg.time.tsc,
      lid := s.lidOf c, asid := s.asidOf c, seq := (s.region r).recSeq % 65536, addr, key := s.my.regs.kr, detail := d1, detail2 := d2 }
  let raised (u : State) (k : Rec) : State := u.updRegion r fun g => { g with recSeq := g.recSeq + 1, trapIn := g.trapIn ++ [⟨s.cycle, k⟩] }
  (∀ (code : Nat) (addr : Option Nat) (d1 d2 : Nat),
    let mem : Bool := decide (0x20 ≤ code ∧ code ≤ 0x2C) && addr.isSome
    s.takeTrap code addr d1 d2 = raised (inTrap s false) (record code 0 (5 + if mem then 2 else 0) (if mem then addr.getD 0 else 0) d1 d2))
  ∧ (∀ (a : Src) (n : BitVec 8), exec (.trap a n) s = .next (s.takeTrap 0x02 none n.toNat (s.srcSca a).toNat))
  ∧ (∀ n : BitVec 8, ∃ u, s.FiresBare u ∧ exec (.brk n) s = .next (raised (inTrap u true) (record 0x01 1 5 0 n.toNat 0)))
  ∧ ∀ (d : Dst) (a : Src) (m : BitVec 4),
    let w := s.srcSca a
    let free (x : State) (t : Nat) : State := x.updCtx t fun k => { k with ctl := { k.ctl with trap := none, wait := .resumed (s.cycle + 2) } }
    (s.target w = none → exec (.tret d a m) s = .next (s.takeTrap 0x17))
    ∧ ∀ t, s.target w = some t →
      (m ≠ 2 → (s.ctx t).ctl.trap = none → s.Gives (.tret d a m) 1 (s.write d (.sca 1) 0))
      ∧ (∀ p, (s.ctx t).ctl.trap = some p → m ≠ 2 → (m ≠ 1 ∨ p.brk = true) → s.GivesFrom (free s t) (.tret d a m) 1 (s.write d (.sca 0) 0))
      ∧ (∀ p, (s.ctx t).ctl.trap = some p → m = 1 → p.brk = false →
          let k := s.ctx t
          ∃ u : State, { s with cur := { cid := t, slot := p.slot, rule := k.rules.getD (fld (k.slots.getD p.slot 0) 31 26) 0 } }.FiresBare u
            ∧ s.GivesFrom (free { u with cur := s.cur } t) (.tret d a m) 1 (s.write d (.sca 0) 0))
      ∧ (m = 2 → s.GivesFrom (s.startKill (s.lidOf t) 0x85 (some (regionOf t)) (s.recOf t 0x85 5 0xFF 0 none 0 (fld w 36 29) 0)) (.tret d a m) 1
          (s.write d (.sca 0) 0))

/-! ### The pool -/

/-- R185 to R187, R197 to R202, R213 to R219: each pool command is checked for ownership (POOLOWN, and POOLSRC in keyed mode) over the sori it
names in ascending order, then for its word (POOLWORD), and is then sent with what its operands give; a drain to a tile and a PGATHER ask at the tile's
entry, which serves them or lets them wait (log entry 17); the status reads wait for the node's answer. A POISON source is counted and nothing is
sent. PSORT takes the lanes valid in its head under the mask, PGATHER every lane of the mask (log entry 19). -/
def Obligations.PoolCommands : Prop := ∀ (s : State) (d : Dst) (a : Src) (so : BitVec 2) (all : BitVec 1) (gid : BitVec 10),
  let c := s.cur.cid
  let r := regionOf c
  let w := s.srcSca a
  let x := so.toNat
  let many : List Nat := if all = 1 then [0, 1, 2, 3] else [x]
  let free (q : Nat) (l : List Nat) : Prop := ∀ y ∈ l, ∀ o, (s.node r y).owner = some o →
    o = ctxOf c ∧ (s.keyed c = true → ∀ e, SMap.find (s.node r y).issuer q = some e → e = elemOf c)
  let gated (i : Instr) (q : Nat) (l : List Nat) (go : Prop) : Prop :=
    (free q l → go)
    ∧ ∀ pre y post o, l = pre ++ y :: post → free q pre → (s.node r y).owner = some o →
        (o ≠ ctxOf c → exec i s = .next (s.takeTrap 0x12))
        ∧ (o = ctxOf c → s.keyed c = true → ∀ e, SMap.find (s.node r y).issuer q = some e → e ≠ elemOf c → exec i s = .next (s.takeTrap 0x13))
  let sends (i : Instr) (u : State) (d : Dst) (op : PoolOp) (l : List Nat) (bad : Bool) : Prop :=
    gated i op.queue l (if bad then exec i s = .next (s.takeTrap 0x14) else s.EndsFrom (u.poolSend d op l) i)
  let waits (commit : Bool) : State := match d with
    | .out k => s.updRegion r fun g => { g with waits := g.waits ++ [{ id := s.reqNo, left := many.length, cid := c, pend := some s.pendNo,
                                                                       out := some (k.toNat, s.my.otag k.toNat), commit }] }
    | .v _ => s | .x _ => s | .null => s
  (∀ q, s.poisoned [a] = some q → ∀ i ∈ ([.pcarve a, .pmap a, .pclear d a so gid, .psort d a so gid] : List Instr),
    s.EndsFrom (s.countPoison c q) i)
  ∧ (s.poisoned [a] = none →
    sends (.pcarve a) s .null (.carve w) [fld w 29 28] (carveBad w)
    ∧ sends (.pmap a) s .null (.map w) (if w.getLsbD 41 then [0, 1, 2, 3] else [fld w 43 42]) (mapBadWord w)
    ∧ sends (.pclear d a so gid) s d (.clear w gid.toNat) [x] (w.extractLsb' 1 39 != 0)
    ∧ sends (.psort d a so gid) s d (.sort ((Mask.list (s.my.regs.mask &&& s.validOf a)).map (s.srcVec a).get) gid.toNat) [x] false
    ∧ sends (.pdrain d a 0 0 so gid) s d (.drain w false false gid.toNat) [x] (drainBad w)
    ∧ sends (.pdrain d a 1 0 so gid) s d (.drain w true false gid.toNat) [x] (drainBad w)
    ∧ ∀ clr : BitVec 1, s.keyFault 5 = false →
      let op := PoolOp.drain w (clr == 1) true gid.toNat
      gated (.pdrain d a clr 1 so gid) 2 [x] (if drainBad w || s.drainTileBad r w then exec (.pdrain d a clr 1 so gid) s = .next (s.takeTrap 0x14)
        else s.EndsFrom (((s.poolSend d op [x]).stepKey 5).tileAsk r (dsTile w) (.drain s.reqNo)) (.pdrain d a clr 1 so gid)))
  ∧ sends (.pcommit d all so) (waits true) d .commit many false
  ∧ (∀ n : BitVec 16, sends (.pissue d so all 0 n) (waits false) d (.issue false none (n.toNat + 1)) many false
      ∧ sends (.pissue d so all 1 n) (waits false) d (.issue true none (n.toNat + 1)) many false
      ∧ ∀ b : BitVec 3, sends (.pissuex d so all b n) (waits false) d (.issue false (some b.toNat) (n.toNat + 1)) many false)
  ∧ (∀ idx desc : BitVec 1, sends (.psortk d idx desc so gid) s d (.sortk (idx == 1) (desc == 1) gid.toNat) [x] false)
  ∧ (∀ (l : BitVec 3) (tile : BitVec 12) (col wid : BitVec 7), s.poisoned [a] = none → s.keyFault 5 = false →
    let js := Mask.list s.my.regs.mask
    let n := 8 * (wid.toNat + 1)
    let i : Instr := .pgather d a l so tile col wid
    let rows := js.map fun j =>
      ({ id := s.reqNo, fcount := s.firing.toNat, so := x, lane := l.toNat, num := 0, tile := tile.toNat, col := 8 * col.toNat, width := n, ix := (s.srcVec a).get j, cid := c,
         last := js.getLast? == some j, pend := if d = .null then none else some s.pendNo, out := s.outTag d, key := s.my.regs.kr,
         reqs := (s.my.point 5).reqs } : GatherRow)
    gated i 1 [x] (if 16 < s.laneRows r x l.toNat + js.length ∨ 1024 < n then exec i s = .next (s.takeTrap 0x14)
      else if js = [] then s.GivesFrom (s.poolTake c 1 [x]) i 1 (match d with
        | .out k => [.emit k.toNat (s.stamp c { kind := kDATA, tag := s.my.otag k.toNat, sc := true, scalar := 1, dep := true })]
        | .v _ => [] | .x _ => [] | .null => [])
      else s.EndsFrom (((s.poolSend d (.gather l.toNat rows) [x]).tileAsk r tile.toNat (.gather s.reqNo)).stepKey 5) i))
  ∧ ∀ k : BitVec 2,
    let asks (i : Instr) (sel gid : Nat) : Prop := s.EndsFrom ((s.openPend c [] [k.toNat] []).updRegion r fun g =>
      { g with probes := g.probes ++ [{ cid := c, pend := s.pendNo, x := k.toNat, so := x, sel, gid }] }) i
    asks (.pstat (.x k) a 0 so) 0 0 ∧ (s.poisoned [a] = none → asks (.pstat (.x k) a 1 so) 1 (w.extractLsb' 0 10).toNat) ∧ asks (.pstat (.x k) a 2 so) 2 0
    ∧ asks (.pqstat (.x k) 0 so) 3 0 ∧ asks (.pqstat (.x k) 1 so) 4 0 ∧ asks (.pqstat (.x k) 2 so) 5 0

/-- R185 to R187, R200, R220 to R222: a command sent to the pool is one more on its way to its sori, entering two cycles on, with its firing and
key; every sorus it names is the sender's from now on, and in keyed mode its queue the sending element's; its destination is reserved. PSAVE
records the node with the trust engine and leaves it unowned and empty; PRESTORE of a record that the trust engine knows as the latest and unused
gives the node an owner; each breach is its trap, a failed check its poison, a page that is not present stops the firing with NOTPRES until it is
present (log entry 19), and one that a migration has frozen, or an uncorrectable error that its read finds, makes it wait. A stopped queue stays
stopped over a save (log entry 19). PSTAT.NODE's word holds the node's fields at their places. -/
def Obligations.PoolSendingAndSaving : Prop := ∀ (s : State) (d : Dst) (a : Src) (so : BitVec 2),
  let c := s.cur.cid
  let r := regionOf c
  let x := so.toNat
  (∀ (op : PoolOp) (l : List Nat),
    let t := s.poolSend d op l
    let q := op.queue
    t.mem = s.mem ∧ t.reqs = s.reqs ∧ t.flight = s.flight ∧ t.pkg = s.pkg ∧ (∀ e, e ≠ c → t.ctx e = s.ctx e) ∧ t.my.regs = s.my.regs
    ∧ t.my.pend = s.my.pend ++ (match d with
        | .null => [] | .v k => [⟨s.pendNo, none, [k.toNat], [], [], [], []⟩] | .x k => [⟨s.pendNo, none, [], [k.toNat], [], [], []⟩]
        | .out k => [⟨s.pendNo, none, [], [], [], [k.toNat], []⟩])
    ∧ (∃ k : PoolCmd, (t.region r).poolIn = (s.region r).poolIn ++ [k] ∧ k.op = op ∧ k.cid = c ∧ k.fcount = (s.my.regs.fcount + 1).toNat
        ∧ k.key = s.my.regs.kr ∧ k.sori = l ∧ k.arrives = s.cycle + 2 ∧ k.pend = (if d = .null then none else some s.pendNo)
        ∧ k.out = (match d with | .out k => some (k.toNat, s.my.otag k.toNat) | .v _ => none | .x _ => none | .null => none))
    ∧ (∀ y ∈ l, (t.node r y).owner = some (ctxOf c) ∧ (s.keyed c = true → ∃ e, SMap.find (t.node r y).issuer q = some e
        ∧ ((s.node r y).owner = none → e = elemOf c)
        ∧ ∀ o, (s.node r y).owner = some o → e = (SMap.find (s.node r y).issuer q).getD (elemOf c)))
    ∧ (∀ y, y ∉ l → t.node r y = s.node r y) ∧ ∀ e, e ≠ r → t.region e = s.region e)
  ∧ (let va := (s.srcSca a).toNat
    let token (w : Dword) : List Eff := match d with
      | .out k => [.emit k.toNat (s.stamp c { kind := kDATA, tag := s.my.otag k.toNat, sc := true, scalar := 1, dep := true })]
      | .x k => [.sreg k.toNat w] | .v _ => [] | .null => []
    let fails (i : Instr) (u : State) (code v : Nat) : Prop :=
      s.GivesPoison (u.accPoison c code s.firing.toNat v s.my.regs.kr).2 i d 1 (s.poisonNew d code)
    let moves (i : Instr) (write : Bool) (n : Nat) (go : List (Nat × Nat × Nat) → Prop) : Prop :=
      match s.reach (s.asidOf c) (decide (ctxOf c < 4)) write va n with
      | .np v => exec i s = .next (s.stopNp 0xFF v)
      | .hold => exec i s = .next s.waitTurn
      | .fail k v => fails i s k v
      | .ok l => (∀ e, s.errIn write l = some e → exec i s = .next (s.findFor c s.firing.toNat e s.my.regs.kr).waitTurn)
          ∧ (s.errIn write l = none →
            (∀ k, s.piecesCode c write l = some k → fails i (s.metCode k) k.1 (k.2 % 2 ^ 52)) ∧ (s.piecesCode c write l = none → go l))
    let turns (i : Instr) (go : Prop) : Prop :=
      (s.keyFault 5 = true → exec i s = .next (s.takeTrap 0x04))
      ∧ (s.keyFault 5 = false → s.myTurn = false → exec i s = .next s.waitTurn)
      ∧ (s.keyFault 5 = false → s.myTurn = true → go)
    let b := s.saveRecord r x
    let stopOf (q : PoolQ) : PoolQ := { qstop := q.qstop, stop := q.stop }
    (canonical va = false ∨ va % 65536 ≠ 0 → exec (.psave d a so) s = .next (s.takeTrap 0x14))
    ∧ (canonical va = true → va % 65536 = 0 →
      moves (.psave d a so) true b.length fun _ => turns (.psave d a so) (∃ u : State,
        s.GivesFrom u (.psave d a so) ((b.length + 511) / 512 + 40) (token (BitVec.ofNat 64 b.length))
        ∧ u.node r x = { saves := (s.node r x).saves + 1, cq := stopOf (s.node r x).cq, oq := stopOf (s.node r x).oq, dq := stopOf (s.node r x).dq }
        ∧ (∀ y, y ≠ x → u.node r y = s.node r y) ∧ (∀ e, e ≠ c → u.ctx e = s.ctx e) ∧ u.my.regs = { s.my.regs with kr := s.my.regs.kr + 1 } ∧ u.reqs = s.reqs
        ∧ ∃ k : SaveRec, u.pkg.trust.saves = s.pkg.trust.saves ++ [k] ∧ k.node = s.node r x ∧ k.used = false ∧ k.seqno = (s.node r x).saves
          ∧ k.sealed = b))
    ∧ ∀ m : BitVec 2, let i : Instr := .prestore d a m so
        ((s.node r x).owner.isSome = true ∨ s.queuesEmpty r x = false → exec i s = .next (s.takeTrap 0x12))
        ∧ ((s.node r x).owner = none → s.queuesEmpty r x = true → moves i false 64 fun h =>
            let size := leAt (s.readPieces h) 8 4
            let n := if 64 ≤ size ∧ size ≤ 2 ^ 21 then size else 64
            moves i false n fun l => turns i
              ((s.restorable (s.readPieces l) = none → exec i s = .next ((s.touch (s.asidOf c) false va n).takeTrap 0x15))
              ∧ ∀ k, s.restorable (s.readPieces l) = some k → ∃ u : State,
                  s.GivesFrom u i ((k.sealed.length + 511) / 512 + 40) (token 0)
                  ∧ (u.node r x).owner = some m.toNat ∧ (u.node r x).gen = k.node.gen ∧ (u.node r x).maps = k.node.maps
                  ∧ (u.node r x).latch = k.node.latch ∧ u.pkg.trust.saves.length = s.pkg.trust.saves.length
                  ∧ (∀ e, e ≠ c → u.ctx e = s.ctx e) ∧ u.my.regs = { s.my.regs with kr := s.my.regs.kr + 1 } ∧ u.reqs = s.reqs)))
  ∧ ∀ n : Node, n.cq.cmds.length ≤ 16 → n.oq.cmds.length ≤ 16 → n.dq.cmds.length ≤ 16 → n.lstat < 16 → (∀ o, n.owner = some o → o < 5) →
      n.stat.extractLsb' 0 15 = BitVec.ofNat 5 n.dq.cmds.length ++ BitVec.ofNat 5 n.oq.cmds.length ++ BitVec.ofNat 5 n.cq.cmds.length
      ∧ n.stat.extractLsb' 16 16 = BitVec.ofNat 16 n.gen ∧ n.stat.getLsbD 32 = n.pending ∧ n.stat.extractLsb' 33 3 = BitVec.ofNat 3 (n.owner.getD 7)
      ∧ (n.issuer = [] → n.stat.extractLsb' 36 12 = 0 ∧ n.stat.extractLsb' 48 16 = BitVec.ofNat 16 n.lstat)

/-! ### What memory does -/

/-- R265, R286, R301, R317: an access that performs reads the bytes at its place and leaves there exactly what its operation makes of them, and no
other byte changes; one that meets poison at its node changes no byte; in keyed mode its arrival only places it, and it is applied later. A keyed
store has performed with its placing, or is dropped there for the poison it meets. An access whose read finds an uncorrectable error changes no byte
and returns nothing (R415). The value of a request of one access settles its scalar register in the same cycle. -/
def Obligations.AccessesPerform : Prop := ∀ (s : State) (n lane p : Nat) (r : Req) (a : Acc),
  s.req n = some r → r.acc lane = some a → a.pa = some p →
  let applied (i : Instr) : Prop :=
    (s.nodeCode r a p ≠ 0 → ∃ t, exec i s = .next t ∧ ∀ x, memGet t.mem x = memGet s.mem x)
    ∧ (s.nodeCode r a p = 0 → s.granLive p = true → (isHbm p = true → s.blockTag (p / 64) = a.kslot) →
        let old := natLE (memRead s.mem p a.size)
        ∃ t, exec i s = .next t
          ∧ (∀ x, memGet t.mem x = match a.op.result a.size old with
              | none => memGet s.mem x
              | some v => if p ≤ x ∧ x < p + a.size then BitVec.ofNat 8 (v / 256 ^ (x - p)) else memGet s.mem x)
          ∧ (∀ k m, r.accs = [a] → a.code = 0 → r.port = 4 → r.tile = none → r.settled = false → r.deliver = .sreg k → r.pend = some m →
              (s.ctx r.cid).pend.map (fun q => if q.id = m then { q with due := some s.cycle, effs := [Eff.sreg k (BitVec.ofNat 64 old)] } else q)
                = (t.ctx r.cid).pend ∧ t.req n = none))
  let served : Prop := s.accReady r a = true ∧ s.bulkWaits r a = false ∧ s.rowWaits r a = false ∧ (r.tile = none ∨ r.settled = false)
  let placed : List Acc := r.accs.map fun b => if b.lane = a.lane ∧ b.va = a.va then { b with st := .placed } else b
  let found (i : Instr) : Prop := exec i s = .next (s.findFor r.cid r.fcount p r.key)
  (served → r.keyed = false → (s.finds r a = true → found (.accessPerform n lane)) ∧ (s.finds r a = false → applied (.accessPerform n lane)))
  ∧ (served → r.keyed = true → a.op.reads = true → ∃ t, exec (.accessPerform n lane) s = .next t ∧ t.mem = s.mem
      ∧ t.ctxs = s.ctxs ∧ t.regions = s.regions ∧ t.req n = some { r with accs := placed })
  ∧ (served → r.keyed = true → a.op.reads = false → s.finds r a = true → found (.accessPerform n lane))
  ∧ (served → r.keyed = true → a.op.reads = false → s.finds r a = false → ∃ t, exec (.accessPerform n lane) s = .next t ∧ t.mem = s.mem
      ∧ (s.nodeCode r a p = 0 → ∃ q, t.req n = some q ∧ q.accs = placed ∧ ((∀ b ∈ placed, b.performed = true) → q.settled = true)))
  ∧ (s.keyReady r a = true → (s.finds r a = true → found (.keyedApply n lane)) ∧ (s.finds r a = false → applied (.keyedApply n lane)))

/-- R262, R267 to R269, R276, R279, R415: what ports, merge windows and the tile table do on their own. A port's oldest reading request leaves its
buffer once it is whole; a running stream makes its next request, within one page, or queues its next MARK or EOS; a gathered row leaves when its
output is empty; a merge window closes; a bulk request ages; a missed deadline is served and recorded; an HBM error that a read, or a store of part
of a block, finds marks its block and kills its launch, if its context has one, and one that no access in hand finds stands in its block (log entry
20); a tile whose TILEST has performed is ready, as is one that was closed, and one that was
freed is empty; and then the tile serves what waits at its entry. -/
def Obligations.MemoryEvents : Prop := ∀ (s : State) (c p : Nat),
  let port := SMap.get (s.ctx c).ports p {}
  (∀ pre r post, s.reqs = pre ++ r :: post → (∀ q ∈ pre, q.cid = c → q.port = p → ∀ a ∈ q.accs, a.op.reads = false) → r.cid = c → r.port = p → p < 4 →
    (∃ a ∈ r.accs, a.op.reads = true) → (∀ a ∈ r.accs, a.over = true) →
    ∃ t, exec (.portReturn c p) s = .next t ∧ t.mem = s.mem ∧ t.reqs = s.reqs.filter (fun q => q.id ≠ r.id)
      ∧ ∀ k m, r.deliver = .vreg k → r.pend = some m → (∀ a ∈ r.accs, a.code = 0) →
          (t.ctx c).pend = (s.ctx c).pend.map fun q => if q.id = m then { q with due := some s.cycle, effs := [Eff.vec k r.mask r.lanes] } else q)
  ∧ (∀ g, s.gen c p = some g → port.start ≤ s.cycle → port.frozen = false → s.headReq c p = none → s.portBusy c p = false →
    (port.todo ≠ [] → exec (.streamRequest c p) s = .next (s.nextRun c p g port))
    ∧ (port.todo = [] → port.buf.length < 16 → port.mode = .read → port.chain.spent = false →
      exec (.streamRequest c p) s = .next (match port.chain.next 192 false with
      | (.data cnt f, ch) => s.nextRun c p g { port with
          chain := ch, buf := port.buf ++ [⟨vecTok 0 (Mask.first cnt) ⟨[]⟩, [], true⟩],
          todo := (List.range cnt).map fun i => (i, port.addrOf g.base (listSet port.chain.c 0 (f + i))) }
      | (.mark l w, ch) => s.setPort c p { port with chain := ch, buf := port.buf ++ [⟨markTok l true (BitVec.ofNat 64 w), [], false⟩] }
      | (.eos, ch) => s.setPort c p { port with chain := ch, buf := port.buf ++ [⟨eosTok 0, [], false⟩] }))
    ∧ ∀ row rest, port.todo = [] → port.buf.length < 16 → port.mode = .gath → port.rows = row :: rest → exec (.streamRequest c p) s = .next
        (s.nextRun c p g { port with rows := rest, todo := (List.range port.roww).map fun i => (i, exactVa (row + 4 * i)),
                                     buf := port.buf ++ [⟨vecTok (BitVec.ofNat 4 port.pos) (Mask.first port.roww) ⟨[]⟩, [], true⟩] }))
  ∧ (∀ (page : Nat) (l : List (Nat × Nat)), l ≠ [] → let run := port.run page l
    run ≠ [] ∧ run ++ l.drop run.length = l ∧ (page ≠ 3 → port.mode ≠ .gath →
      (∀ x ∈ run, ∀ y ∈ run, x.2 / pageBytes page = y.2 / pageBytes page)
      ∧ ∀ x ∈ run, ∀ y rest, l.drop run.length = y :: rest → x.2 / pageBytes page ≠ y.2 / pageBytes page))
  ∧ (∀ k m b rest, port.gath = some (k, m) → port.buf = b :: rest → b.reqs = [] → b.more = false → (s.ctx c).outReg k = none →
    ∃ t, exec (.sgathRowEmit c p) s = .next t ∧ (t.ctx c).outReg k = some (s.stamp c b.tok) ∧ (SMap.get (t.ctx c).ports p {}).buf = rest
      ∧ (rest = [] → port.rows = [] → (SMap.get (t.ctx c).ports p {}).gath = none ∧ (t.ctx c).pend = (s.ctx c).pend.filter fun q => q.id ≠ m)
      ∧ (rest ≠ [] ∨ port.rows ≠ [] → (SMap.get (t.ctx c).ports p {}).gath = some (k, m) ∧ (t.ctx c).pend = (s.ctx c).pend))
  ∧ (∀ ch row, exec (.mergeWindowClose ch row) s = .next { s with pkg := { s.pkg with merge := s.pkg.merge.filter fun e =>
      !(e.ch = ch ∧ e.row = row ∧ (e.opened + 32 ≤ s.cycle ∨ 64 ≤ e.cols)) } })
  ∧ (∀ n r, s.req n = some r →
    (r.cls = 1 → r.cycle + 4096 ≤ s.cycle → exec (.bulkAgeing n) s = .next { s with reqs := s.reqs.map fun q => if q.id = n then { q with cls := 0 } else q })
    ∧ (∀ t x, r.tile = some t → r.settled = true → s.tile (regionOf r.cid) t = some x → x.st = .filling → ∀ lane,
        ∃ u, exec (.accessPerform n lane) s = .next u ∧ u.mem = s.mem
          ∧ u.tile (regionOf r.cid) t = some (({ x with st := .ready } : Tile).serve s.reqNo x.waitq))
    ∧ ∀ lane a q, r.acc lane = some a → a.pa = some q → a.over = false → isHbm q = true → a.op.reads = true ∨ r.covers (q / 64) = false →
        s.isMarked q = false →
        let u := { s with pkg := { s.pkg with marked := s.pkg.marked ++ [q / 64] } }
        exec (.hbmue n lane) s = .next (if s.lidOf r.cid = 0 then u else u.killCtx r.cid 0x2C r.fcount (some q) r.key))
  ∧ (∀ n b, s.req n = none → (∀ e ∈ s.copyHeads, e.2.id ≠ n) → exec (.hbmue n b) s = .next { s with hbmErrs := s.hbmErrs ++ [(s.cycle, b)] })
  ∧ (∀ d n, s.pkg.deadlines.find? (fun e => e.id = n) = some d → ∃ t k, exec (.dlmiss n) s = .next t ∧ t.mem = s.mem ∧ t.ctxs = s.ctxs
      ∧ t.reqs = s.reqs ∧ t.pkg.deadlines = s.pkg.deadlines.filter (fun e => e.id ≠ n)
      ∧ (t.region (regionOf d.cid)).trapIn = (s.region (regionOf d.cid)).trapIn ++ [⟨s.cycle, k⟩]
      ∧ k.code = 0x82 ∧ k.kind = 4 ∧ k.source = (s.source d.cid).toNat ∧ k.fcount = d.fcount)
  ∧ ∀ (r t m : Nat) (x : Tile), s.tile r t = some x → x.mark = some m →
    let then_ (st : TileState) : Tile := ({ x with st, mark := none } : Tile).serve s.reqNo x.waitq
    (x.st = .opened → s.storesDone r x.owner (s.vaultKey (vaultVa r x.offset)) x.bytes m = true →
      ∃ u, exec (.tileCloseDone r t) s = .next u ∧ u.tile r t = some (then_ .ready) ∧ u.mem = s.mem ∧ ∀ e, e ≠ t → u.tile r e = s.tile r e)
    ∧ (x.st = .draining → x.holders = 0 →
        (∀ q ∈ s.reqs, q.id < m → regionOf q.cid = r → q.tile = some t → TileWait.store q.id ∉ x.waitq → ∀ b ∈ q.accs, b.performed = true) →
      ∃ u, exec (.tileFreeDone r t) s = .next u ∧ u.tile r t = some (then_ .empty) ∧ u.mem = s.mem ∧ ∀ e, e ≠ t → u.tile r e = s.tile r e)

/-! ### Translation -/

/-- R325, R330, R345, R346, R352 to R355: in the cycle it fires, a translation instruction reads its registers, sends its event to the home agent on
frond 0 of the package that holds the root, four cycles and 40 for each link away, and its destination waits. In its order the event begins once no
earlier event of the address space holds it back; a status other than OK is decided there, with the level at which it was. XPROBE and a plain
ADREAD answer what the walk reads: of a leaf its word, for XPROBE with its level, and whether a migration of it is between its steps, in place of
bits [55:53]. Completion removes the event and delivers the status word, the word read, or the completion token. That 4 + 40 h, 64, 140 and 280
cycles are exact is log entry 8. -/
def Obligations.TranslationAnswers : Prop := ∀ s : State,
  (∀ (d : Dst) (a : Src) (k l : BitVec 2) (u w r : BitVec 1) (asid : BitVec 12),
    let c := s.cur.cid
    let x (n : Nat) : Nat := match a with
      | .x i => (s.my.x (i.toNat + n)).toNat
      | .v _ => (s.my.x n).toNat | .inp _ => (s.my.x n).toNat | .lane => (s.my.x n).toNat | .zero => (s.my.x n).toNat | .lit _ => (s.my.x n).toNat
    let sends (i : Instr) (kind : XKind) (va arg : Nat) : Prop :=
      let owed := s.updCtx c fun q => { q with pend := q.pend ++ [⟨s.pendNo, none, [], xOf d, [], outOf d, []⟩] }
      let home := match SMap.find s.pkg.xlat.xroot asid.toNat with | some r => r / 2 ^ 41 | none => s.pkg.pkgId
      let ev : Xev := { id := s.reqNo, cid := c, asid := asid.toNat, kind, va, arg, pend := some s.pendNo, out := s.outTag d,
                        stage := .sent (s.cycle + 4 + 40 * fronHops (frondOf (regionOf c)) 0), away := home != s.pkg.pkgId }
      let sent := owed.updPkg fun p => { p with xlat := { p.xlat with evs := p.xlat.evs ++ [ev] } }
      let u : State := { sent with pendNo := s.pendNo + 1, reqNo := s.reqNo + 1 }
      s.EndsFrom (if home = s.pkg.pkgId then u else u.forward home (.xevent kind.code asid.toNat va arg s.pkg.pkgId c s.reqNo)) i
    sends (.map d a k l asid) (.map k.toNat l.toNat) (x 0) (x 1)
    ∧ sends (.unmap d a k l asid) (.unmap k.toNat l.toNat) (x 0) 0
    ∧ sends (.protect d a l u w r asid) (.protect l.toNat (u == 1) (w == 1) (r == 1)) (x 0) 0
    ∧ sends (.migrate d a l asid) (.migrate l.toNat) (x 0) (x 1)
    ∧ sends (.xinval d a k asid) (.xinval k.toNat) (x 0) (x 1)
    ∧ sends (.adread d a l u w asid) (.adread l.toNat (u == 1) (w == 1)) (x 0) 0
    ∧ sends (.xprobe d a asid) .xprobe (x 0) 0
    ∧ sends (.xsync d asid) .xsync 0 0)
  ∧ ∀ (n : Nat) (e : Xev), s.xev n = some e →
    let still (t : State) : Prop := t.mem = s.mem ∧ t.ctxs = s.ctxs ∧ t.regions = s.regions ∧ t.pkg.xlat.xroot = s.pkg.xlat.xroot
    let becomes (e' : Xev) : Prop := ∃ t, exec (.translationEventEntry n) s = .next t ∧ t.xev n = some e' ∧ still t
    (∀ a, e.stage = .sent a → a ≤ s.cycle → e.away = false → (∀ d ∈ s.pkg.xlat.evs, d.asid = e.asid → ∀ b, d.stage = .sent b →
        d.away = true ∨ a < b ∨ a = b ∧ Xev.source s e ≤ Xev.source s d) →
      (∃ t, exec (.translationEventEntry n) s = .next t ∧ still t ∧ t.pkg.xlat.evs.map Xev.id = (s.pkg.xlat.evs.filter fun d => d.id ≠ n).map Xev.id ++ [n])
      ∧ ((∃ d ∈ s.pkg.xlat.evs, d.id ≠ n ∧ d.asid = e.asid ∧ d.away = false ∧ d.stage.entered = true ∧ e.waitsFor d = true) → becomes { e with stage := .queued }))
    ∧ (e.stage = .queued → s.unblocked e = true →
      let refused (st l : Nat) : Prop := becomes { e with status := st, level := l, stage := .done (s.cycle + 140) }
      let leafLike (l : Nat) (bad : Nat → Nat → Prop) (good : WalkEnd → Prop) : Prop :=
        (vaGood e.va (levelBytes l) = false → bad 5 l)
        ∧ (vaGood e.va (levelBytes l) = true →
          (s.walk e.asid e.va 3 = none → bad 6 0)
          ∧ ∀ w, s.walk e.asid e.va 3 = some w →
            (w.word / 2 ^ 62 = 2 → w.level = l → good w) ∧ (w.word / 2 ^ 62 = 2 → w.level ≠ l → bad 7 w.level)
            ∧ (w.word / 2 ^ 62 ≠ 2 → w.level < l → bad 2 w.level) ∧ (w.word / 2 ^ 62 ≠ 2 → l ≤ w.level → bad 3 w.level))
      let pauses (l : Nat) (w : WalkEnd) : Prop := becomes { e with
        stage := .inval (s.cycle + 64), level := l, leafAt := w.addr, oldBase := 0, acks := s.sharers e.asid }
      (∀ l, e.kind = .unmap 0 l → leafLike l refused (pauses l))
      ∧ (∀ l u w r, e.kind = .protect l u w r → leafLike l refused (pauses l))
      ∧ (∀ l cd ca, e.kind = .adread l cd ca →
          leafLike l (fun st lv => becomes { e with stage := .done (s.cycle + 140), status := st, level := lv, result := 3 * 2 ^ 62 + st })
            (fun w => if cd = true ∨ ca = true then pauses l w
              else becomes { e with stage := .done (s.cycle + 140), level := l, result := w.word }))
      ∧ (∀ k l, e.kind = .map k l → k < 2 →
          let own := match e.origin with | some o => o.1 | none => s.pkg.pkgId
          (s.mapBad own e.asid k l e.va e.arg = true → refused 5 l)
          ∧ (s.mapBad own e.asid k l e.va e.arg = false →
            (s.walk e.asid e.va l = none → refused 6 0)
            ∧ ∀ w, s.walk e.asid e.va l = some w →
              (w.level < l → w.word / 2 ^ 62 = 2 → refused 1 w.level) ∧ (w.level < l → w.word / 2 ^ 62 ≠ 2 → refused 2 w.level)
              ∧ (l ≤ w.level → w.word / 2 ^ 62 ≠ 0 → refused 1 l)
              ∧ (l ≤ w.level → w.word / 2 ^ 62 = 0 → becomes { e with stage := .acked (s.cycle + 280), level := l })))
      ∧ (e.kind = .xsync → becomes { e with stage := .done s.cycle })
      ∧ (e.kind = .xprobe → ∃ v, becomes { e with stage := .done (s.cycle + 140), result := v }
          ∧ (canonical e.va = false → v = 3 * 2 ^ 62 + 5)
          ∧ (canonical e.va = true → (s.walk e.asid e.va 3 = none → v = 3 * 2 ^ 62 + 6)
            ∧ ∀ w, s.walk e.asid e.va 3 = some w → (w.word / 2 ^ 62 ≠ 2 → v = w.level * 2 ^ 54)
              ∧ (w.word / 2 ^ 62 = 2 →
                (∀ b, (b < 53 ∨ 55 < b) → v.testBit b = w.word.testBit b) ∧ v / 2 ^ 54 % 4 = w.level % 4
                ∧ (v.testBit 53 = true ↔ ∃ d ∈ s.pkg.xlat.evs, d.asid = e.asid ∧ 0 < d.kind.moves ∧ d.stage.freezes = true ∧ d.leafAt = w.addr)))))
    ∧ (∀ a, e.stage = .done a → a ≤ s.cycle → e.origin = none →
      let word : Nat := match e.answer with | some w => w | none => if (match e.kind with
        | .adread _ _ _ => true | .xprobe => true | .map _ _ => false | .unmap _ _ => false | .protect _ _ _ _ => false | .migrate _ => false
        | .xinval _ => false | .xsync => false) then e.result else e.status + e.level % 4 * 256
      let token (g : BitVec 4) : Token := { kind := kDATA, tag := g, sc := true, scalar := BitVec.ofNat 64 word, dep := true }
      ∃ t, exec (.translationCompletion n) s = .next t ∧ t.mem = s.mem ∧ t.regions = s.regions
        ∧ t.pkg.xlat.evs = s.pkg.xlat.evs.filter (fun d => d.id ≠ n)
        ∧ (∀ k g m, e.out = some (k, g) → e.pend = some m → (t.ctx e.cid).pend = (s.ctx e.cid).pend.map fun q =>
            if q.id = m then { q with due := some s.cycle, effs := [.emit k (s.stamp e.cid (token g))] } else q)
        ∧ (∀ m p pre post, e.out = none → e.pend = some m → (s.ctx e.cid).pend = pre ++ p :: post → (∀ q ∈ pre, q.id ≠ m) → p.id = m → p.xs.length = 1 →
            ∀ x ∈ p.xs, (t.ctx e.cid).pend = (s.ctx e.cid).pend.map fun q =>
              if q.id = m then { q with due := some s.cycle, effs := [.sreg x (BitVec.ofNat 64 word)] } else q))

/-- R330, R332 to R336, R339 to R342, R347 to R352: what an event changes. Its invalidation marks the patch entries of its range stale (held under
XINVAL.HOLD); its table write, in translation order, rewrites one entry, or zeroes a table, or sets or clears a root, and nothing else in memory,
where no generator holds its address space patched; a page that is patched takes its leaf's frame and rights and sets A in that leaf alone; the
entries a request lacks are fetched together, 40 cycles on; a migration freezes, copies the frame, replaces FRAME, SP and KSLOT and keeps the rest,
sends the refused accesses to the new frame, and retires the old one once every one of them has performed there. That 64, 140 and 280 + bytes / 256
cycles, and the 40 of a fetch, are exact is log entry 8; that the entries a request lacks come together is log entry 18. -/
def Obligations.TranslationChanges : Prop := ∀ (s : State) (n : Nat) (e : Xev), s.xev n = some e →
  let lo := e.range.1
  let len := e.range.2
  let old := s.entryAt e.leafAt
  let plain (a : Nat) : Prop := s.blockTag (a / 64) = 0
  let alone : Prop := (∀ g ∈ s.regions, ∀ p ∈ g.2.res, p.2.asid ≠ e.asid) ∧ s.pkg.sched.storedGens e.asid = []
  let shared := s.sharers e.asid
  let at8 (t : State) (a w : Nat) : Prop := ∀ x, memGet t.mem x = if a ≤ x ∧ x < a + 8 then BitVec.ofNat 8 (w / 256 ^ (x - a)) else memGet s.mem x
  let bits (t : State) (f : Nat → Bool) : Prop := (∀ b, b < 64 → (t.entryAt e.leafAt).testBit b = f b)
    ∧ ∀ x, (x < e.leafAt ∨ e.leafAt + 8 ≤ x) → memGet t.mem x = memGet s.mem x
  (∀ a, e.stage = .inval a → a ≤ s.cycle → e.acks = [] →
    let hold : Bool := e.kind == .xinval 1
    ∃ t, exec (.invalidationAck n) s = .next t ∧ t.mem = s.mem ∧ t.ctxs = s.ctxs ∧ t.reqs = s.reqs
      ∧ t.xev n = some { e with mark := s.reqNo,
                                stage := if hold then .done (s.cycle + 1) else .acked (s.cycle + if e.kind.moves = 0 then 140 else 0) }
      ∧ ∀ r x p k g i q, SMap.find (s.region r).res x = some p → SMap.find p.gens k = some g → SMap.find g.table i = some q →
        ∃ p' g', SMap.find (t.region r).res x = some p' ∧ SMap.find p'.gens k = some g' ∧ g'.window = g.window ∧
          SMap.find g'.table i = some (if p.asid = e.asid ∧ g.meets i lo len = true then
            (if hold then { q with stale := true, held := true, lazy := false } else { q with stale := true, lazy := false }) else q))
  ∧ (∀ a, e.stage = .acked a → a ≤ s.cycle → e.kind.moves = 0 → s.writeTurn e = false → exec (.repatch n) s = .next s)
  ∧ (∀ a, e.stage = .acked a → a ≤ s.cycle → s.writeTurn e = true → s.reqs = [] → alone →
    let writes (p : State → Prop) (res : Nat) (acks : List Nat := e.acks) : Prop := ∃ t, exec (.repatch n) s = .next t ∧ t.ctxs = s.ctxs ∧ t.regions = s.regions
      ∧ t.xev n = some { e with stage := .settle (s.cycle + 64), result := res, acks := acks } ∧ p t
    (∀ l, e.kind = .unmap 0 l → plain e.leafAt → writes (fun t => at8 t e.leafAt 0) e.result shared)
    ∧ (∀ l, e.kind = .unmap 1 l → plain e.leafAt → writes (fun t => at8 t e.leafAt 0) e.result)
    ∧ (∀ l, e.kind = .unmap 2 l → writes (fun t => t.mem = s.mem ∧ SMap.find t.pkg.xlat.xroot e.asid = none) e.result)
    ∧ (∀ l w, e.kind = .map 0 l → s.walk e.asid e.va l = some w → plain w.addr → writes (fun t => at8 t w.addr e.arg) e.result shared)
    ∧ (∀ l w, e.kind = .map 1 l → s.walk e.asid e.va l = some w → plain w.addr →
        writes (fun t => ∀ x, memGet t.mem x = if w.addr ≤ x ∧ x < w.addr + 8 then BitVec.ofNat 8 ((2 ^ 62 + e.arg / 256 * 256) / 256 ^ (x - w.addr))
          else if e.arg ≤ x ∧ x < e.arg + tableBytes (l + 1) then 0 else memGet s.mem x) e.result)
    ∧ (∀ l, e.kind = .map 2 l → writes (fun t => SMap.find t.pkg.xlat.xroot e.asid = some e.arg
        ∧ ∀ x, memGet t.mem x = if e.arg ≤ x ∧ x < e.arg + 131072 then 0 else memGet s.mem x) e.result)
    ∧ (∀ l u w r, e.kind = .protect l u w r → plain e.leafAt →
        writes (fun t => bits t fun b => if b = 57 then u else if b = 58 then r else if b = 59 then w else old.testBit b) e.result shared)
    ∧ (∀ l cd ca, e.kind = .adread l cd ca → plain e.leafAt →
        writes (fun t => bits t fun b => if b = 60 then old.testBit b && !cd else if b = 61 then old.testBit b && !ca else old.testBit b) old shared)
    ∧ (∀ o, e.kind = .xinval o → writes (fun t => t.mem = s.mem) e.result shared))
  ∧ (∀ asid page idx : Nat,
    let va := idx * page
    ((∀ w, s.walk asid va 3 = some w → w.word / 2 ^ 62 ≠ 2) → s.patchPage asid page idx = (.np, s))
    ∧ ∀ w, s.walk asid va 3 = some w → w.word / 2 ^ 62 = 2 → w.word < 2 ^ 64 →
      (levelBytes w.level < page → plain w.addr → ∃ t, s.patchPage asid page idx = (.pg, t) ∧ at8 t w.addr (w.word ||| 2 ^ 61))
      ∧ (page ≤ levelBytes w.level → plain w.addr → ∃ t,
          s.patchPage asid page idx = (.frame (w.word / 2 ^ 16 % 2 ^ 36 * 2 ^ 16 + va % levelBytes w.level / page * page) (w.word.testBit 58)
            (w.word.testBit 59) (w.word.testBit 57) (w.word.testBit 56) (if w.word.testBit 56 then 0 else w.word % 2 ^ 12), t)
          ∧ at8 t w.addr (w.word ||| 2 ^ 61)))
  ∧ (∀ (r x p pg : Nat) (g : Gen) (q : Req),
    let c := mkCid r (p / 4 * 8 + 5) x
    s.gen c (p % 4) = some g → s.headReq c (p % 4) = some q → s.req q.id = some q → s.gate q = .fetch pg →
    let pages := (q.accs.map fun a => a.va / pageBytes g.page).eraseDups
    let miss := pages.filter fun i => !q.stream && !g.window.contains i && !q.fetched.contains i
    let left := pages.filter fun i => (SMap.get g.table i { p := .np }).lazy
    (miss ≠ [] → g.fetchAt = none → ∃ t, exec (.patchFetch r x p) s = .next t ∧ t.mem = s.mem ∧ t.ctxs = s.ctxs ∧ t.reqs = s.reqs
      ∧ t.gen c (p % 4) = some { g with fetchAt := some (s.cycle + 39) })
    ∧ (∀ m, g.fetchAt = some m → s.cycle < m → exec (.patchFetch r x p) s = .next s)
    ∧ (∀ m, g.fetchAt = some m → m ≤ s.cycle → left = [] → ∃ t, exec (.patchFetch r x p) s = .next t ∧ t.mem = s.mem ∧ t.ctxs = s.ctxs
      ∧ t.gen c (p % 4) = some { g with fetchAt := none, window := (miss.reverse ++ g.window).take 16 }
      ∧ t.req q.id = some { q with fetched := q.fetched ++ miss })
    ∧ ∀ i, g.fetchAt = none → miss = [] → left = [i] → ∃ t, exec (.patchFetch r x p) s = .next t ∧ t.ctxs = s.ctxs ∧ t.reqs = s.reqs
      ∧ t.mem = (s.patchPage (s.asidOf c) (pageBytes g.page) i).2.mem
      ∧ t.gen c (p % 4) = some { g with table := SMap.set g.table i { p := (s.patchPage (s.asidOf c) (pageBytes g.page) i).1 } })
  ∧ (∀ (r x p pg : Nat) (g : Gen) (q : PatchEntry),
    let c := mkCid r (p / 4 * 8 + 5) x
    s.gen c (p % 4) = some g → SMap.find g.table pg = some q →
    ∀ w, s.headGate c (p % 4) = .dirty pg → s.walk (s.asidOf c) (pg * pageBytes g.page) 3 = some w →
      patchOf (pg * pageBytes g.page) (pageBytes g.page) (some w) = (q.p, some w) → w.word < 2 ^ 64 → plain w.addr →
      ∃ t g', exec (.dirtyUpdate r x p) s = .next t ∧ at8 t w.addr (w.word ||| 2 ^ 60) ∧ t.gen c (p % 4) = some g'
        ∧ SMap.find g'.table pg = some { q with dDone := true })
  ∧ (∀ a l, e.kind = .migrate l → a ≤ s.cycle →
    let size := levelBytes l
    let new := frameOf e.arg
    let inOld (b : Acc) : Prop := ∃ p, b.pa = some p ∧ e.oldBase ≤ p ∧ p < e.oldBase + size
    (e.stage = .acked a → ∃ t, exec (.migrateFreeze n) s = .next t ∧ t.mem = s.mem ∧ t.xev n = some { e with stage := .frozen (s.cycle + 280 + size / 256) }
      ∧ ∀ q r, s.req q = some r → ∃ r', t.req q = some r' ∧ ∀ (i : Nat) (b : Acc), r.accs[i]? = some b →
        (b.st = .placed → inOld b → r'.accs[i]? = some { b with st := .flight, kept := !b.op.reads })
        ∧ (¬ (b.st = .placed ∧ inOld b) → r'.accs[i]? = some b))
    ∧ (e.stage = .frozen a → leafSlot old = 0 → leafSlot e.arg = 0 → (e.oldBase + size ≤ new ∨ new + size ≤ e.oldBase) →
        e.oldBase % 64 = 0 → new % 64 = 0 → (∀ k, k < size / 64 → plain (e.oldBase + 64 * k) ∧ plain (new + 64 * k)) →
        ∃ t, exec (.migrateCopy n) s = .next t ∧ t.xev n = some { e with stage := .copied (s.cycle + 140) }
          ∧ ∀ x, memGet t.mem x = if new ≤ x ∧ x < new + size then memGet s.mem (e.oldBase + (x - new)) else memGet s.mem x)
    ∧ (e.stage = .copied a → s.writeTurn e = true → plain e.leafAt → ∃ t, exec (.migrateRemap n) s = .next t
        ∧ t.regions = s.regions ∧ t.reqs = s.reqs
        ∧ t.xev n = some { e with stage := .replay (s.cycle + 64), mark := 0, acks := shared }
        ∧ bits t fun b => if b = 56 ∨ 16 ≤ b ∧ b ≤ 51 ∨ b ≤ 11 then e.arg.testBit b else old.testBit b)
    ∧ (e.stage = .replay a → e.acks ≠ [] → exec (.migrateReplay n) s = .next s)
    ∧ (e.stage = .replay a → e.acks = [] → e.mark = 0 → alone → ∃ t, exec (.migrateReplay n) s = .next t ∧ t.mem = s.mem
      ∧ t.xev n = some { e with mark := s.reqNo + 1, stage := .replay (s.cycle + 2) }
      ∧ ∀ q r, s.req q = some r → ∃ r', t.req q = some r' ∧ ∀ (i : Nat) (b : Acc) (p : Nat), r.accs[i]? = some b → b.pa = some p →
        (b.st = .flight → inOld b → ∃ b' : Acc, r'.accs[i]? = some b' ∧ b'.pa = some (new + (p - e.oldBase)) ∧ b'.kslot = leafSlot e.arg
          ∧ b' = { b with pa := b'.pa, kslot := b'.kslot, due := b'.due })
        ∧ (¬ (b.st = .flight ∧ inOld b) → r'.accs[i]? = some b))
    ∧ (e.stage = .replay a → e.acks = [] → e.mark ≠ 0 →
        (∀ r ∈ s.reqs, r.id < e.mark → ∀ b ∈ r.accs, b.atRest = false → ∀ p, b.pa = some p → ¬ (new ≤ p ∧ p < new + size)) →
        (∀ r ∈ s.reqs, ∀ b ∈ r.accs, b.st = .flight → ¬ inOld b) → s.refusedLeft e = false →
        ∃ t, exec (.migrateReplay n) s = .next t ∧ t.mem = s.mem ∧ t.reqs = s.reqs ∧ t.xev n = some { e with stage := .done (s.cycle + 1) }
          ∧ ∀ p, e.oldBase ≤ p → p < e.oldBase + size → t.isRetired p = true))

/-! ### Copies, tokens and barriers -/

/-- R358, R362, R363, R366, R368 to R373: COPY checks its descriptor and its barrier's owner, takes a poison or DEPTOK from its dependence inputs
in place of a copy (counted against its barrier as complete in poison, log entry 18), and otherwise sends its command with the key in hand and asks
at the entry of its tile. DTOKEN joins dependence tokens, of an input that it names twice one (log entry 18). TBARR initialises, seals or announces; TBWAIT and TBANY read the generation, and count TBPOIS for one that
closed with POIS set. NBAR and GBAR arrive: the first arrival claims the barrier and sets its count, and the last completes the instance, which
leaves 4, 900 or 5,250 cycles on (log entry 8); a pod barrier's arrival goes to every other package of the launch. -/
def Obligations.AsynchronousInstructions : Prop := ∀ (s : State) (d : Dst) (a : Src),
  let c := s.cur.cid
  let r := regionOf c
  (∀ (q : BitVec 2) (tben : BitVec 1) (tb : BitVec 6) (bulk : BitVec 1) (e2 e1 e0 : BitVec 4),
    let i : Instr := .copy d a q tben tb bulk e2 e1 e0
    let ds : BitVec 384 := BitVec.ofNat 384 (portDesc (s.srcVec a))
    let deps : List Nat := ([e0, e1, e2].filter fun x => x.getLsbD 3).map fun x => (x.extractLsb' 0 3).toNat
    let u : State := if tben = 1 then s.updTb r tb.toNat fun b => { b with owed := b.owed - 1, pois := true } else s
    (((ds.extractLsb' 160 32).toNat = 0 ∨ 2 ^ 20 < (ds.extractLsb' 160 32).toNat ∨ (ds.extractLsb' 128 32).toNat < 4
        ∨ 2 ^ 31 < (ds.extractLsb' 128 32).toNat ∨ (ds.extractLsb' 128 32).toNat % 4 ≠ 0 ∨ (ds.extractLsb' 0 64).toNat % 4 ≠ 0
        ∨ (ds.extractLsb' 64 64).toNat % 4 ≠ 0 ∨ ds.extractLsb' 283 101 ≠ 0) → exec i s = .next (s.takeTrap 0x0F))
    ∧ (s.copyBad c ds = true → exec i s = .next (s.takeTrap 0x0F))
    ∧ (s.copyBad c ds = false →
      (tben = 1 → (∃ o, (s.tb r tb.toNat).owner = some o ∧ o ≠ s.lidOf c) → exec i s = .next (s.takeTrap 0x0C))
      ∧ ((tben = 1 → ∀ o, (s.tb r tb.toNat).owner = some o → o = s.lidOf c) →
        (∀ pre k post, deps = pre ++ k :: post → (∀ j ∈ pre, (s.head j).kind ≠ kPOISON) → (s.head k).kind = kPOISON →
          s.GivesPoison u i d 1 (s.head k) deps)
        ∧ ((∀ k ∈ deps, (s.head k).kind ≠ kPOISON) → (∃ k ∈ deps, (s.head k).kind ≠ kDATA ∨ (s.head k).dep = false) →
          s.GivesPoison u i d 1 (s.poisonNew d 0x44) deps)
        ∧ ((∀ k ∈ deps, (s.head k).kind = kDATA ∧ (s.head k).dep = true) →
          (s.keyFault 5 = true → exec i s = .next (s.takeTrap 0x04))
          ∧ (s.keyFault 5 = false → ∃ cmd : CopyCmd,
            cmd.cid = c ∧ cmd.fcount = s.firing.toNat ∧ cmd.key = s.my.regs.kr ∧ cmd.d = ds ∧ cmd.q = q.toNat ∧ cmd.id = s.reqNo
            ∧ cmd.tb = (if tben = 1 then some tb.toNat else none) ∧ cmd.bulk = (bulk == 1) ∧ cmd.row = 0 ∧ cmd.piece = 0 ∧ cmd.finished = false
            ∧ cmd.arrives = s.cycle + 2 ∧ cmd.out = s.outTag d ∧ cmd.pend = (if d = .null then none else some s.pendNo)
            ∧ cmd.reqs = (s.my.point 5).reqs ∧ cmd.lid = s.lidOf c ∧ cmd.result = none ∧ cmd.cut = false
            ∧ let owed := match d with
                | .null => s
                | .v k => s.openPend c [k.toNat] [] []
                | .x k => s.openPend c [] [k.toNat] []
                | .out k => s.openPend c [] [] [k.toNat]
              let numbered : State := { owed with reqNo := s.reqNo + 1 }
              let asked := if cpDten ds = true then numbered.tileAsk r (cpTile ds) (.copy s.reqNo) else numbered
              s.EndsFrom ((asked.updRegion r fun g => { g with copyIn := g.copyIn ++ [cmd] }).stepKey 5) i deps)))))
  ∧ (∀ (k j l : BitVec 3) (m : BitVec 1),
    let one : Instr := .dtoken (.out k) (.inp j) .zero m
    let two : Instr := .dtoken (.out k) (.inp j) (.inp l) m
    let plan (ins : List Nat) (t : PTok) : Plan := { takes := ins, slot := s.slotNow, emits := [(k.toNat, t)] }
    let isDep (n : BitVec 3) : Prop := (s.head n.toNat).kind = kDATA ∧ (s.head n.toNat).dep = true
    let isBad (n : BitVec 3) : Prop := (s.head n.toNat).kind = kMARK ∨ (s.head n.toNat).kind = kDATA ∧ (s.head n.toNat).dep = false
    let out : PTok := .tok (depTok (s.my.otag k.toNat))
    s.Acts (.dtoken (.out k) .zero .zero m) 1 (plan [] out)
    ∧ ((s.headOpt j.toNat).isSome = true → (isDep j → s.Acts one 1 (plan [j.toNat] out)) ∧ (isBad j → s.Acts one 1 (plan [j.toNat] (.bad 0x44)))
      ∧ ((s.head j.toNat).kind = kPOISON → s.Acts one 1 (plan [j.toNat] (.tok (s.head j.toNat))))
      ∧ ((s.headOpt l.toNat).isSome = true →
        let ins := if j = l then [j.toNat] else [j.toNat, l.toNat]
        (isDep j ∧ isDep l → s.Acts two 1 (plan ins out))
        ∧ (isBad j ∧ (isDep l ∨ isBad l) ∨ isDep j ∧ isBad l → s.Acts two 1 (plan ins (.bad 0x44)))
        ∧ ((s.head j.toNat).kind = kPOISON → (s.head l.toNat).kind ≠ kEOS → (s.head l.toNat).kind ≠ kDRAIN → s.Acts two 1 (plan ins (.tok (s.head j.toNat))))
        ∧ (isDep j ∨ isBad j → (s.head l.toNat).kind = kPOISON → s.Acts two 1 (plan ins (.tok (s.head l.toNat)))))))
  ∧ (s.poisoned [a] = none → ∀ b : BitVec 6,
    let t := s.tb r b.toNat
    let w := s.srcSca a
    let n := (w.extractLsb' 0 16).toNat
    let m := (w.extractLsb' 0 32).toNat
    let wide (x : Int) : Prop := x < -(2 ^ 31) ∨ 2 ^ 31 - 1 < x
    let traps (i : Instr) (code : Nat) : Prop := exec i s = .next (s.takeTrap code)
    let sets (i : Instr) (t' : TBar) (e : List Eff) : Prop := s.GivesFrom (s.updTb r b.toNat fun _ => t') i 1 e
    ((∃ o, t.owner = some o ∧ o ≠ s.lidOf c) → (∀ k, traps (.tbarr d a b k) 0x0C) ∧ traps (.tbwait d a b) 0x0C)
    ∧ ((∀ o, t.owner = some o → o = s.lidOf c) →
      (t.nseal ≠ 0 ∧ (t.seals ≠ t.nseal ∨ t.owed ≠ 0) ∨ n = 0 → traps (.tbarr d a b 0) 0x0D)
      ∧ ((t.nseal = 0 ∨ t.seals = t.nseal ∧ t.owed = 0) → n ≠ 0 →
          sets (.tbarr d a b 0) { t with nseal := n, seals := n, owed := 0, owner := some (t.owner.getD (s.lidOf c)) } [])
      ∧ (t.nseal = 0 ∨ t.seals = 0 ∨ wide (t.owed + m) → traps (.tbarr d a b 1) 0x0D)
      ∧ (t.nseal ≠ 0 → t.seals ≠ 0 → ¬ wide (t.owed + m) →
          sets (.tbarr d a b 1) { t with owed := t.owed + m, seals := t.seals - 1 } (s.write d (.sca (BitVec.ofNat 64 t.gen)) 0))
      ∧ (t.nseal = 0 ∨ wide (t.owed + m) → traps (.tbarr d a b 2) 0x0D)
      ∧ (t.nseal ≠ 0 → ¬ wide (t.owed + m) → sets (.tbarr d a b 2) { t with owed := t.owed + m } [])
      ∧ (m ∉ t.poisGens → s.Gives (.tbwait d a b) 1 (s.write d (.sca (BitVec.ofNat 64 t.gen)) 0))
      ∧ (m ∈ t.poisGens → s.EndsFrom (s.countPoison c (s.myPoison 0x45)) (.tbwait d a b))))
  ∧ (let m := s.srcSca a
    let ready (b : Nat) : Prop := m.getLsbD b = true ∧ (s.tb r b).gen ≠ (SMap.get s.my.regs.seen b 0).toNat
    ((∃ b, b < 64 ∧ m.getLsbD b = true ∧ ∃ o, (s.tb r b).owner = some o ∧ o ≠ s.lidOf c) → exec (.tbany d a) s = .next (s.takeTrap 0x0C))
    ∧ ((∀ b, b < 64 → m.getLsbD b = true → ∀ o, (s.tb r b).owner = some o → o = s.lidOf c) → ∀ i, i < 64 →
      let b := (s.my.regs.rp + i) % 64
      let t := s.tb r b
      ready b → (∀ j, j < i → ¬ ready ((s.my.regs.rp + j) % 64)) →
      let u := s.updCtx c fun k => { k with regs := { k.regs with seen := SMap.set k.regs.seen b (BitVec.ofNat 32 t.gen), rp := (b + 1) % 64 } }
      s.GivesFrom (if (t.gen + 2 ^ 32 - 1) % 2 ^ 32 ∈ t.poisGens then u.countPoison c (s.myPoison 0x45) else u) (.tbany d a) 1
        (s.write d (.sca (BitVec.ofNat 64 (b * 2 ^ 32 + t.gen))) 0)))
  ∧ (s.poisoned [a] = none → ∀ (x : BitVec 5) (g : BitVec 3) (sync : Bool),
    let n := ((s.srcSca a).extractLsb' 0 32).toNat
    let o : Option Nat × State := match d with
      | .null => (none, s)
      | .v k => (some s.pendNo, s.openPend c [k.toNat] [] [])
      | .x k => (some s.pendNo, s.openPend c [] [k.toNat] [])
      | .out k => (some s.pendNo, s.openPend c [] [] [k.toNat])
    let owed : State := if sync = true then o.2 else s
    let me : List Arrival := if sync = true then [⟨c, o.1, s.outTag d, s.firing⟩] else []
    let arrives (i : Instr) (b limit wait : Nat) (also : State → State) : Prop :=
      let t := s.barrier b
      let ends (t' : Barrier) : Prop := s.EndsFrom (also (owed.updBarrier b fun _ => t')) i
      let whole (bad : Bool) : Barrier := { t with owner := some (s.lidOf c), inst := (t.inst + 1) % 2 ^ 32, count := 0, arrived := 0, bad := false,
                                                   syncs := [], leaving := t.leaving ++ [(s.cycle + wait, t.inst, bad, t.syncs ++ me)] }
      ((∃ l, t.owner = some l ∧ l ≠ s.lidOf c) → exec i s = .next (s.takeTrap 0x0E))
      ∧ ((∀ l, t.owner = some l → l = s.lidOf c) →
        (t.arrived = 0 → 2 ≤ n → n ≤ limit →
          ends { t with owner := some (s.lidOf c), syncs := t.syncs ++ me, count := n, arrived := 1, bad := false })
        ∧ (t.arrived = 0 → n ≤ 1 ∨ limit < n → ends (whole (decide (n = 0 ∨ limit < n))))
        ∧ (t.arrived ≠ 0 → t.arrived + 1 < t.count →
          ends { t with owner := some (s.lidOf c), syncs := t.syncs ++ me, arrived := t.arrived + 1, bad := t.bad || n != t.count })
        ∧ (t.arrived ≠ 0 → t.arrived + 1 = t.count → ends (whole (t.bad || n != t.count))))
    let others := match SMap.find s.pkg.sched.launches (s.lidOf c) with | some l => l.pkgs.filter (· ≠ s.pkg.pkgId) | none => []
    (∀ k : BitVec 3, (k = 0 ↔ sync = true) → r < 256 → arrives (.nbar d a x k) (32 * r + x.toNat) 384 4 id)
    ∧ ∀ k : BitVec 1, (k = 0 ↔ sync = true) → arrives (.gbar d a g 0 k) (8192 + g.toNat) 98304 900 id
      ∧ arrives (.gbar d a g 1 k) (8200 + g.toNat) (2 ^ 31) 5250 fun u => others.foldl (fun u q => u.forward q (.arrive g.toNat n (s.lidOf c))) u)

/-- R359, R360, R364, R367, R371, R372: what copies and barriers do on their own. The earliest command due for a queue enters it; the head of a
queue moves one piece of at most 256 bytes in an event (log entry 18), once nothing keeps it from its banks, reading all of it before it writes any,
and changes no other byte (here between two V-space sides); a failed check ends it in poison, a patch entry that awaits its repatch makes it wait, and a page that is not present stops its queue with one record, which names the
stopping point. Completion takes the command off its queue, lowers OWED, makes its tile
ready and delivers the token. A generation with nothing due closes; an instance whose departures are due leaves. -/
def Obligations.CopyAndBarrierEvents : Prop := ∀ (s : State) (r q : Nat),
  let z := SMap.get (s.region r).copyQ q {}
  let queue (t : State) : CopyQ := SMap.get (t.region r).copyQ q {}
  (∀ pre k post, (s.region r).copyIn = pre ++ k :: post → k.q = q → q < 4 → k.arrives ≤ s.cycle + 1 →
    (∀ x ∈ pre ++ post, x.id ≠ k.id ∧ (x.q = q → x.arrives ≤ s.cycle + 1 → k.arrives < x.arrives ∨ k.arrives = x.arrives ∧ k.cid < x.cid)) →
    ∃ t, exec (.copyQueueEntry r) s = .next t ∧ queue t = { z with cmds := z.cmds ++ [k] } ∧ t.mem = s.mem ∧ t.ctxs = s.ctxs ∧ t.reqs = s.reqs
      ∧ (∀ x ∈ (t.region r).copyIn, x.id ≠ k.id) ∧ ∀ g, g ≠ r → t.region g = s.region g)
  ∧ (∀ k rest, z.cmds = k :: rest →
    let n := min 256 (cpBytes k.d - 256 * k.piece)
    let more : Bool := decide (256 * k.piece + n < cpBytes k.d)
    let check : Side := (if k.piece = 0 then s.rowCheck r k k.row else .ok).both (s.pieceCheck k)
    (k.finished = false → (z.qstop = false ∨ k.piece ≠ 0) → k.arrives < s.cycle → s.engineTurn k.cid k.key k.reqs = true →
        (cpDten k.d = true → s.tileWaits r (cpTile k.d) (.copy k.id) = false) → k.cut = false →
      (cpSv k.d = true → cpDv k.d = true → cpDten k.d = false → check = .ok → (∀ x, s.isFrozen x = false ∧ s.isRetired x = false) →
        (∀ x ∈ pieceBytes (s.piecePlaces r k), s.linked x = true) → s.banksFree k.cid (pieceBytes (s.piecePlaces r k)) = true →
        s.vaultErrs = [] → cpBytes k.d % 4 = 0 → 256 * k.piece < cpBytes k.d →
        let from_ := s.vaultKey ((k.rowSrc k.row).toNat + 256 * k.piece)
        let to_ := s.vaultKey ((k.rowDst k.row).toNat + 256 * k.piece)
        ∃ t, exec (.copyRun r q) s = .next t ∧ t.ctxs = s.ctxs ∧ t.reqs = s.reqs
          ∧ (∀ x, memGet t.mem x = if to_ ≤ x ∧ x < to_ + n then memGet s.mem (from_ + (x - to_)) else memGet s.mem x)
          ∧ ∃ k', (queue t).cmds = k' :: rest ∧ k'.row = (if more then k.row else k.row + 1) ∧ k'.piece = (if more then k.piece + 1 else 0)
            ∧ k'.finished = decide (cpRows k.d ≤ k'.row) ∧ k'.result = k.result ∧ k'.d = k.d)
      ∧ (∀ code addr, check = .fail code addr → ∃ t k', exec (.copyRun r q) s = .next t ∧ t.mem = s.mem ∧ t.ctxs = s.ctxs
          ∧ (queue t).cmds = k' :: rest ∧ k'.result = some (BitVec.ofNat 8 code) ∧ k'.finished = true ∧ k'.row = k.row)
      ∧ (check = .wait → exec (.copyRun r q) s = .next s)
      ∧ (∀ va, check = .np va → z.reported = some va → exec (.copyRun r q) s = .next s)
      ∧ (∀ va, check = .np va → z.reported ≠ some va → ∃ t rec, exec (.copyRun r q) s = .next t ∧ t.mem = s.mem ∧ t.ctxs = s.ctxs
          ∧ queue t = { z with stop := some 0x25, reported := some va } ∧ (r = regionOf k.cid → (t.region r).trapIn = (s.region r).trapIn ++ [⟨s.cycle, rec⟩])
          ∧ rec.code = 0x25 ∧ rec.kind = 2 ∧ rec.slot = 0x1C + q ∧ rec.addr = va ∧ rec.key = k.key ∧ rec.fcount = k.fcount
          ∧ rec.detail = (t.copyPoint r q).toNat))
    ∧ (k.finished = true → k.arrives ≤ s.cycle → regionOf k.cid = r →
      ∃ t, exec (.copyCompletion r q) s = .next t ∧ t.mem = s.mem ∧ t.reqs = s.reqs ∧ queue t = { z with cmds := rest, done := z.done + 1 }
        ∧ (∀ b, k.tb = some b → t.tb r b = { s.tb r b with owed := (s.tb r b).owed - 1, pois := (s.tb r b).pois || k.result.isSome })
        ∧ (cpDten k.d = true → ∀ x, s.tile r (cpTile k.d) = some x → x.st = .filling →
            t.tile r (cpTile k.d) = some (({ x with st := .ready } : Tile).serve s.reqNo x.waitq))
        ∧ (∀ m o g, k.pend = some m → k.out = some (o, g) → k.dropTok = false → (t.ctx k.cid).pend = (s.ctx k.cid).pend.map fun p =>
            if p.id = m then { p with due := some (s.cycle + 1), effs := [.emit o (s.stamp k.cid (match k.result with
              | none => { kind := kDATA, tag := g, sc := true, scalar := 1, dep := true }
              | some code => { s.poison k.cid (BitVec.ofNat 48 k.fcount) code.toNat with tag := g }))] } else p)))
  ∧ (∀ b, let t := s.tb r b
    t.nseal ≠ 0 → t.seals = 0 → t.owed = 0 → ∃ u, exec (.generationClose r b) s = .next u ∧ u.mem = s.mem ∧ u.ctxs = s.ctxs
      ∧ (u.tb r b).gen = (t.gen + 1) % 2 ^ 32 ∧ (u.tb r b).seals = t.nseal ∧ (u.tb r b).owed = 0 ∧ (u.tb r b).pois = false
      ∧ (t.gen ∈ (u.tb r b).poisGens ↔ t.pois = true) ∧ (∀ g, g ≠ t.gen → (g ∈ (u.tb r b).poisGens ↔ g ∈ t.poisGens))
      ∧ ∀ x, x ≠ b → u.tb r x = s.tb r x)
  ∧ ∀ (b due inst : Nat) (bad : Bool) (l : List Arrival) (rest : List (Nat × Nat × Bool × List Arrival)),
    (s.barrier b).leaving = (due, inst, bad, l) :: rest → due ≤ s.cycle →
    ∃ u, exec (.barrierInstanceComplete b) s = .next u ∧ u.mem = s.mem ∧ u.reqs = s.reqs
      ∧ (l = [] ∨ bad = false → u.barrier b = { s.barrier b with leaving := rest })
      ∧ (∀ a k g n, l = [a] → a.out = some (k, g) → a.pend = some n → (u.ctx a.cid).pend = (s.ctx a.cid).pend.map fun p =>
          if p.id = n then { p with due := some s.cycle, effs := [.emit k (s.stamp a.cid (if bad then
              { s.poison a.cid a.fcount 0x46 with tag := g } else { kind := kDATA, tag := g, sc := true, scalar := 1, dep := true }))] } else p)
      ∧ (∀ a, l = [a] → a.out = none → a.pend = none →
          u = (if bad then (s.updBarrier b fun t => { t with leaving := rest }).countPoison a.cid (s.poison a.cid a.fcount 0x46)
            else s.updBarrier b fun t => { t with leaving := rest }))
      ∧ (∀ a pre p post x n, l = [a] → a.out = none → a.pend = some n → bad = false → (s.ctx a.cid).pend = pre ++ p :: post →
          (∀ y ∈ pre, y.id ≠ n) → p.id = n →
          p.xs = [x] → (u.ctx a.cid).pend = (s.ctx a.cid).pend.map fun y =>
            if y.id = n then { y with due := some s.cycle, effs := [.sreg x (BitVec.ofNat 64 inst)] } else y)

/-- R376 to R379: TIMER gives the counter, or the state, lock count and saturated offset of the clock. TIMEW takes a target no more than 2^36 ns
ahead, waits, and wakes with the counter less the target once the counter has reached it. RAND takes the unit of its element for 4 cycles and
writes blocks of SM4 under SEED and S1 of successive counters, or gives RANDRANGE where they pass CCOUNT (SM4 itself is log entry 9). On the
time master the offset reads 0. -/
def Obligations.TimeAndRandom : Prop := ∀ (s : State) (d : Dst) (a b : Src),
  let c := s.cur.cid
  let now := s.pkg.time.tsc
  let owed : State := match d with
    | .null => s
    | .v k => s.openPend c [k.toNat] [] []
    | .x k => s.openPend c [] [k.toNat] []
    | .out k => s.openPend c [] [] [k.toNat]
  s.Gives (.timer d 0) 1 (s.write d (.sca now) 0)
  ∧ (∃ w : Dword, s.Gives (.timer d 1) 1 (s.write d (.sca w) 0) ∧ w.extractLsb' 48 14 = 0
      ∧ (w.extractLsb' 62 2).toNat = (match s.pkg.time.disc with | .free => 0 | .acquiring => 1 | .locked => 2 | .holdover => 3)
      ∧ (w.extractLsb' 32 16).toNat = s.pkg.time.locks % 65536
      ∧ (w.extractLsb' 0 32).toInt = if s.pkg.time.tmaster = some s.pkg.pkgId then 0 else max (-(2 ^ 31)) (min (2 ^ 31 - 1) s.pkg.time.off))
  ∧ (s.poisoned [a] = none → ∀ rel : BitVec 1,
    let t : Dword := if rel = 1 then now + s.srcSca a else s.srcSca a
    (now.toNat + 2 ^ 36 < t.toNat → exec (.timew d a rel) s = .next (s.takeTrap 0x08))
    ∧ (t.toNat ≤ now.toNat + 2 ^ 36 → s.EndsFrom (owed.updCtx c fun k => { k with ctl := { k.ctl with
        wait := .timew t (if d = .null then none else some s.pendNo) } }) (.timew d a rel)))
  ∧ (∀ (e : Nat) (t : Dword) (m : Option Nat), (s.ctx e).ctl.wait = .timew t m →
    (now.toNat < t.toNat → exec (.timewWake e) s = .next s)
    ∧ (t.toNat ≤ now.toNat → ∃ u, exec (.timewWake e) s = .next u ∧ SameBut e s u
        ∧ { (u.ctx e) with ctl := (s.ctx e).ctl, pend := (s.ctx e).pend } = s.ctx e ∧ (u.ctx e).ctl = { (s.ctx e).ctl with wait := .none }
        ∧ ∀ n pre p post x, m = some n → (s.ctx e).pend = pre ++ p :: post → (∀ y ∈ pre, y.id ≠ n) → p.id = n → p.xs = [x] →
          (u.ctx e).pend = (s.ctx e).pend.map fun y => if y.id = n then { y with due := some s.cycle, effs := [.sreg x (now - t)] } else y))
  ∧ (∀ q, s.poisoned [a, b] = some q → s.GivesPoison (s.updElem (c / 8) fun e => { e with sm4Busy := some (s.cycle + 4) }) (.rand d a b) d 34 q)
  ∧ (s.poisoned [a, b] = none →
    let arg : Nat × Nat × Nat := match SMap.find s.pkg.sched.launches (s.lidOf c) with
      | some l => (l.pkt.seed.toNat, l.pkt.clo, l.pkt.ccount)
      | none => (0, 0, 0)
    let o := (s.srcSca b).toNat
    let block (j : Nat) : BitVec 128 := sm4 (BitVec.ofNat 128 (arg.1 * 2 ^ 64 + (s.srcSca a).toNat)) (BitVec.ofNat 128 (arg.2.1 + o + j))
    let busy := s.updElem (c / 8) fun e => { e with sm4Busy := some (s.cycle + 4) }
    let draws : Nat := match d with | .x _ => 1 | .null => 1 | .v _ => 48 | .out _ => 48
    (arg.2.2 < o + draws → s.GivesPoison busy (.rand d a b) d 34 (s.poisonNew d 0x48))
    ∧ (isScalar d = true → o + 1 ≤ arg.2.2 → s.GivesFrom busy (.rand d a b) 34 (s.write d (.sca ((block 0).extractLsb' 0 64)) s.my.regs.mask))
    ∧ (d = .null → o + 1 ≤ arg.2.2 → s.GivesFrom busy (.rand d a b) 34 [])
    ∧ (isScalar d = false → d ≠ .null → o + 48 ≤ arg.2.2 → ∃ v : Vec,
      (∀ j k, j < 48 → k < 4 → v.get (4 * j + k) = (block j).extractLsb' (32 * k) 32)
      ∧ s.GivesFrom busy (.rand d a b) 34 (s.write d (.vec v) s.my.regs.mask)))

/-! ### Launching and scheduling -/

/-- R396 to R403, R468: LAUNCH starts its read and waits for its last byte, 140 cycles from the firing out of HBM (log entry 8), in keyed mode once
its turn has come; there it judges its packet, lowers its priority and queues it as a child; one whose read meets poison is a precise trap, and one
whose read finds an uncorrectable error waits for the kill (log entry 20); JOINC gives a child's code and flags, or all ones or CHILDERR where there is none; CFGNEXT records a
choice or posts a word, which its queue takes at the end of the cycle; STRAND reads what its launch gives and takes the oldest posted word; RETIRE
marks the allocations it names; PRIO lowers the priority as its cycle ends, or reads it. -/
def Obligations.LaunchInstructions : Prop := ∀ (s : State) (d : Dst) (a : Src),
  let c := s.cur.cid
  let reading (n : Option Nat) (u : State) : State := u.updCtx c fun k => k.updCtl fun t => { t with readAt := n }
  let w := s.srcSca a
  let lid := s.lidOf c
  let gives (i : Instr) (v : Dword) : Prop := s.Gives i 1 (s.write d (.sca v) 0)
  (∀ v : BitVec 1,
    let i : Instr := .launch d a v
    (s.keyFault 5 = true → exec i s = .next (s.takeTrap 0x04))
    ∧ (s.keyFault 5 = false → s.my.ctl.readAt = none →
      (s.myTurn = false → exec i s = .next s.waitTurn)
      ∧ (s.myTurn = true → ∃ n, exec i s = .next (reading (some n) s).waitTurn ∧ (v = 0 → n = s.cycle + 139)))
    ∧ (∀ n, s.keyFault 5 = false → s.my.ctl.readAt = some n → s.cycle < n → exec i s = .next s.waitTurn)
    ∧ ∀ n, s.keyFault 5 = false → s.my.ctl.readAt = some n → n ≤ s.cycle →
      (s.packetAt c w.toNat (v == 1) = .wait → exec i s = .next s.waitTurn)
      ∧ (∀ e, s.packetAt c w.toNat (v == 1) = .found e → exec i s = .next (s.findFor c s.firing.toNat e s.my.regs.kr).waitTurn)
      ∧ (∀ code addr, s.packetAt c w.toNat (v == 1) = .fail code addr → exec i s = .next ((reading none s).takeTrap code (some addr)))
      ∧ ∀ b s1, s.packetAt c w.toNat (v == 1) = .ok b s1 →
        (pktSound b true 1 = false → exec i s = .next ((reading none s1).takeTrap 0x0A))
        ∧ (pktSound b true 1 = true → s.lidLive (leAt b 0 4) = true → exec i s = .next ((reading none s1).takeTrap 0x0B))
        ∧ (pktSound b true 1 = true → s.lidLive (leAt b 0 4) = false → 8 ≤ b.length → ∃ (u : State) (dl : Delivery),
            dl.source = (s.source c).toNat ∧ dl.asid = s.asidOf c ∧ dl.pkgs = [s.pkg.pkgId] ∧ dl.host = false
            ∧ dl.parent = (if lid = 0 then none else some lid) ∧ (∀ j, j ≠ 4 → dl.bytes[j]? = b[j]?)
            ∧ leAt dl.bytes 4 1 = leAt b 4 1 / 8 * 8 + min (leAt b 4 1 % 8) (match s.launch lid with | some l => l.basePrio | none => 7)
            ∧ s.GivesFrom u i 1 (s.write d (.sca (BitVec.ofNat 64 (leAt b 0 4))) 0)
            ∧ u.pkg = { s1.pkg with sched := { s1.pkg.sched with deliveries := s1.pkg.sched.deliveries ++ [dl] } } ∧ u.mem = s1.mem
            ∧ (u.ctx c).ctl = { (s1.ctx c).ctl with readAt := none } ∧ (u.ctx c).regs.kr = (s1.ctx c).regs.kr + 1))
  ∧ (let n := (w.extractLsb' 0 32).toNat
    (s.child c n = .none → (∀ k, d = .x k → gives (.joinc d a) (BitVec.allOnes 64))
      ∧ (∀ k, d = .out k → s.GivesPoison s (.joinc d a) d 1 (s.poisonNew d 0x4A)))
    ∧ ∀ code flags, s.child c n = .done code flags → (∀ k, d = .x k → gives (.joinc d a) (BitVec.ofNat 64 (code + flags * 256)))
      ∧ ∀ k, d = .out k → (code ≠ 0 → s.GivesPoison s (.joinc d a) d 1 (s.poisonNew d 0x4A))
        ∧ (code = 0 → s.Gives (.joinc d a) 1 [.emit k.toNat (s.stamp c { kind := kDATA, tag := s.my.otag k.toNat, sc := true, scalar := 1, dep := true })]))
  ∧ (∀ k : BitVec 4, s.EndsFrom (s.updRes c fun p => { p with choice := some (k.toNat + 1) }) (.cfgnextStep k))
  ∧ (∀ cfg : BitVec 12,
    ((∀ v, s.myRun = some v → v.image.candidate v.g cfg.toNat = false) → exec (.cfgnextPost a cfg) s = .next (s.takeTrap 0x09))
    ∧ ∀ v, s.myRun = some v → v.image.candidate v.g cfg.toNat = true →
      (SMap.get v.seq.queues cfg.toNat []).length + (v.seq.posted.filter fun p => p.1 = cfg.toNat).length < 1024 →
      s.EndsFrom (s.updSeq (regionOf c) (ctxOf c) fun q => { q with posted := q.posted ++ [(cfg.toNat, w)] }) (.cfgnextPost a cfg))
  ∧ (∀ (q : RegSeq) (n k : Nat), (q.land n).posted = []
    ∧ SMap.get (q.land n).queues k [] = SMap.get q.queues k [] ++ (q.posted.filter fun p => p.1 = k).map Prod.snd)
  ∧ (∀ g : BitVec 4,
    gives (.strand d a g 0) (match (s.launch lid).bind fun l => l.pkt.levels[g.toNat]? with | some e => BitVec.ofNat 64 (e.extractLsb' 0 32).toNat | none => 0)
    ∧ (∃ v, gives (.strand d a g 1) v ∧ (s.launch lid = none → v = 0) ∧ ∀ l p e, s.launch lid = some l → s.res c = some p →
        (l.pkt.levels[g.toNat]? = none → v = 0) ∧ (l.pkt.levels[g.toNat]? = some e → (e.extractLsb' 32 4).toNat < 3 → v = 0)
        ∧ (l.pkt.levels[g.toNat]? = some e → 3 ≤ (e.extractLsb' 32 4).toNat →
            v = BitVec.ofNat 64 ((s.podIndex l * l.pkt.regions + p.g) / ((l.pkt.levels.take g.toNat).filter fun x =>
              decide (3 ≤ levDomain x)).foldl (fun m x => m * levExtent x) 1 % levExtent e)))
    ∧ (∀ l, s.launch lid = some l → 8 * w.toNat < l.snapshot.length →
        s.Gives (.strand d a g 2) 40 (s.write d (.sca (BitVec.ofNat 64 (leAt l.snapshot (8 * w.toNat) 8))) 0))
    ∧ ((∀ l, s.launch lid = some l → l.snapshot.length ≤ 8 * w.toNat) → s.GivesPoison s (.strand d a g 2) d 40 (s.poisonNew d 0x49))
    ∧ gives (.strand d a g 3) (BitVec.ofNat 64 lid)
    ∧ ∀ k, d = .out k → ∀ p, s.res c = some p →
      (∀ v h t, s.myRun = some v → v.image.candidate v.g p.cfg.num = true → SMap.get v.seq.queues p.cfg.num [] = h :: t →
        s.GivesFrom (s.updSeq (regionOf c) (ctxOf c) fun q => { q with queues := SMap.set q.queues p.cfg.num t }) (.strand d a g 4) 1
          [.emit k.toNat (s.stamp c { kind := kDATA, tag := s.my.otag k.toNat, sc := true, scalar := h })])
      ∧ ((∀ v, s.myRun = some v → v.image.candidate v.g p.cfg.num = false ∨ SMap.get v.seq.queues p.cfg.num [] = []) →
        s.Gives (.strand d a g 4) 1 [.emit k.toNat (s.stamp c { kind := kEOS, tag := s.my.otag k.toNat })]))
  ∧ (∀ l : BitVec 1,
    let named (x : Alloc) : Prop := x ∈ s.myAllocs ∧ (l = 1 ∨ vaultVa x.vault x.offset = w.toNat)
    ((∀ x, ¬ named x) → l = 0 → exec (.retire d a l) s = .next (s.takeTrap 0x07))
    ∧ (s.myAllocs = [] → l = 1 → s.Gives (.retire d a l) 1 (match d with
        | .out k => [.emit k.toNat (s.stamp c { kind := kDATA, tag := s.my.otag k.toNat, sc := true, scalar := 1, dep := true })]
        | .v _ => [] | .x _ => [] | .null => []))
    ∧ ((∃ x, named x) → ∃ u, s.EndsFrom u (.retire d a l) ∧ u.mem = s.mem ∧ u.reqs = s.reqs
        ∧ u.pkg.allocs.length = s.pkg.allocs.length ∧ ∀ (i : Nat) (x : Alloc), s.pkg.allocs[i]? = some x →
          (named x → ∃ y : Alloc, u.pkg.allocs[i]? = some y ∧ y.retired = true ∧ y.freed = some s.reqNo)
          ∧ ((∀ y, named y → y.id ≠ x.id) → u.pkg.allocs[i]? = some x)))
  ∧ ∀ g : BitVec 4,
    (s.launch lid = none → s.Ends (.prio d a g 0) ∧ gives (.prio d a g 1) 0)
    ∧ ∀ l, s.launch lid = some l →
      s.EndsFrom (s.updSched fun k => { k with launches := SMap.set k.launches lid { l with nextPrio := some (min g.toNat l.pkt.prio) } }) (.prio d a g 0)
      ∧ gives (.prio d a g 1) (BitVec.ofNat 64 (l.effPrio + l.basePrio * 16))

/-! ### System instructions -/

/-- R421, R424 to R431: a target that fails its check is the trap SYSARG. CTXSW's write waits for cycle c + 2; QSTOP.STOP fires once the named
queues stand still, with the stopping point of every queue, and .GO frees those it stopped; ERRLOG pops the oldest record or declares granules;
MCMP names the first field that differs; ATTEST is queued; CFGLD writes the record again and checks it, and a copy that is lost kills the target's
launch; CFGSIG judges or gives its digest; SYSRD reads, the sinks as they stood when the cycle began. That 141, 173 and 200 cycles are exact is log
entry 8; that a queue another cause has stopped keeps its code under QSTOP is log entry 21. -/
def Obligations.SystemInstructions : Prop := ∀ (s : State) (d : Dst) (a : Src),
  let c := s.cur.cid
  let r := regionOf c
  let w := s.srcSca a
  (∀ k : BitVec 4,
    (k = 3 → s.target w = none → exec (.ctxsw a k) s = .next (s.takeTrap 0x17))
    ∧ (k ≠ 3 ∨ (s.target w).isSome = true →
      s.EndsFrom (s.updRegion r fun g => { g with ctlLater := g.ctlLater ++ [(s.cycle + 2, k.toNat, w)] }) (.ctxsw a k)))
  ∧ ((s.ctlWrite r 2 w).region r = { s.region r with mcctl := (w.extractLsb' 0 33).setWidth 64 }
    ∧ ∃ v : Dword, (s.ctlWrite r 1 w).region r = { s.region r with rfctl := v } ∧ v.extractLsb' 32 32 = w.extractLsb' 32 32
      ∧ v.getLsbD 31 = w.getLsbD 31 ∧ v.getLsbD 30 = ((s.region r).rfctl.getLsbD 30 && !w.getLsbD 30) ∧ v.getLsbD 16 = w.getLsbD 16
      ∧ v.extractLsb' 17 13 = 0 ∧ v.extractLsb' 0 8 = 0)
  ∧ (let old := (s.region r).rfctl
    let perm : Prop := ∀ n, n < 4 → ∃ i, i < 4 ∧ (w.extractLsb' (2 * i) 2).toNat = n
    (perm → ∃ v : Dword, (s.ctlWrite r 0 w).region r = { s.region r with rfctl := v } ∧ v.extractLsb' 8 8 = w.extractLsb' 0 8
        ∧ ∀ j, j < 64 → (j < 8 ∨ 16 ≤ j) → v.getLsbD j = old.getLsbD j)
    ∧ (¬ perm → (s.ctlWrite r 0 w).region r = s.region r)
    ∧ (s.ctlWrite r 0 w).ctxs = s.ctxs ∧ (s.ctlWrite r 0 w).pkg = s.pkg)
  ∧ (let t := (w.extractLsb' 0 18).toNat
    let u := s.ctlWrite r 3 w
    u.ctx t = { s.ctx t with regs := { (s.ctx t).regs with fstat := (s.ctx t).regs.fstat &&& ~~~ (w.extractLsb' 32 5).setWidth 32 } }
    ∧ (∀ c, c ≠ t → u.ctx c = s.ctx c) ∧ u.regions = s.regions ∧ u.mem = s.mem ∧ u.pkg = s.pkg)
  ∧ (let code (u : State) (q : Nat) : Option Nat := if q < 12 then (u.poolQ r q).stop else (u.copyQ r (q - 12)).stop
    let mark (u : State) (q : Nat) : Bool := if q < 12 then (u.poolQ r q).qstop else (u.copyQ r (q - 12)).qstop
    ((s.stopQueues r w).allStopped r w = true → ∃ (u : State) (v : Vec),
      s.GivesFrom u (.qstop d a 0) 1 ((vOf d).map fun k => .vec k (Mask.first 32) v) ∧ u.mem = s.mem ∧ u.ctxs = s.ctxs
      ∧ ∀ q, q < 16 → v.get (2 * q + 1) ++ v.get (2 * q) = u.queueStat r q
        ∧ (w.getLsbD q = true → code u q = some ((code s q).getD 0x86) ∧ (code s q = none → mark u q = true))
        ∧ (w.getLsbD q = false → code u q = code s q ∧ mark u q = mark s q))
    ∧ ∃ u, s.EndsFrom u (.qstop d a 1) ∧ u.mem = s.mem ∧ u.ctxs = s.ctxs ∧ ∀ q, q < 16 →
      code u q = (if w.getLsbD q = true ∧ mark s q = true ∧ code s q = some 0x86 then none else code s q)
      ∧ mark u q = (mark s q && !w.getLsbD q))
  ∧ (s.pkg.errLog.recs = [] → s.Gives (.errlog d a 0) 4 ((vOf d).map fun k => .vec k (Mask.first 16) ⟨[]⟩))
  ∧ (∀ rec rest, s.pkg.errLog.recs = rec :: rest → ∃ v : Vec, (∀ j, j < 16 → v.get j = BitVec.ofNat 32 (leAt rec.bytes (4 * j) 4))
      ∧ s.GivesFrom (s.updPkg fun p => { p with errLog := { p.errLog with recs := rest } }) (.errlog d a 0) 4 ((vOf d).map fun k => .vec k (Mask.first 16) v))
  ∧ (∀ n : BitVec 2,
    let off := (s.my.x n.toNat).toNat
    let len := (s.my.x (n.toNat + 1)).toNat
    let ours (g : Nat) : Prop := s.pkg.pkgId * 2 ^ 25 + off / 65536 ≤ g ∧ g < s.pkg.pkgId * 2 ^ 25 + off / 65536 + len / 65536
    let bad : Prop := off % 65536 ≠ 0 ∨ len % 65536 ≠ 0 ∨ 2 ^ 41 < off + len
    let closed : Prop := ∃ g, ours g ∧ (0 < SMap.get s.pkg.xlat.tableGran g 0 ∨ Config.inPatchStore (g % 2 ^ 25) = true)
    (bad → s.Gives (.errlog d (.x n) 1) 200 (s.write d (.sca 5) 0)) ∧ (bad ∨ closed → s.Gives (.errlog d (.x n) 2) 200 (s.write d (.sca 5) 0))
    ∧ (¬ bad → s.pkg.pkgId < 2 ^ 11 → ∃ u, s.GivesFrom u (.errlog d (.x n) 1) 200 (s.write d (.sca 0) 0) ∧ u.ctxs = s.ctxs ∧ u.reqs = s.reqs
        ∧ (∀ g, u.pkg.dead.contains g = true ↔ s.pkg.dead.contains g = true ∧ ¬ ours g)
        ∧ ∀ x, ¬ ours (x / 65536) → memGet u.mem x = memGet s.mem x)
    ∧ (¬ bad → ¬ closed → ∃ u, s.GivesFrom u (.errlog d (.x n) 2) 200 (s.write d (.sca 0) 0) ∧ u.ctxs = s.ctxs ∧ u.mem = s.mem
        ∧ ∀ g, u.pkg.dead.contains g = true ↔ s.pkg.dead.contains g = true ∨ ours g))
  ∧ (∀ (n : BitVec 2) (l : List (Nat × Nat × Nat)),
    let va := (s.my.x n.toNat).toNat
    let named := (s.my.x (n.toNat + 1)).toNat % 2 ^ 32
    s.reach (s.asidOf c) false false va 448 = .ok l →
    (∀ e, s.errIn false l = some e → exec (.mcmp d (.x n)) s = .next (s.findFor c s.firing.toNat e s.my.regs.kr).waitTurn) ∧
    (s.errIn false l = none → s.piecesCode c false l = none →
    let old := s.readPieces l
    let new := s.manifest named
    let differs (f : Nat × Nat × Nat) : Prop := (named ≠ 0 ∨ f.1 ≤ 9) ∧ (leAt old 12 4).testBit f.1 = true ∧ sliceB old f.2.1 f.2.2 ≠ sliceB new f.2.1 f.2.2
    ∃ (u : State) (v : Dword), s.GivesFrom u (.mcmp d (.x n)) 141 (s.write d (.sca v) 0) ∧ u.ctxs = s.ctxs ∧ (maniSound old = false → v = BitVec.allOnes 64)
      ∧ (maniSound old = true → (∀ f ∈ maniFields, ¬ differs f) → v = 0)
      ∧ (maniSound old = true → ∀ pre f post, maniFields = pre ++ f :: post → (∀ g ∈ pre, ¬ differs g) → differs f → v = BitVec.ofNat 64 (f.1 + f.2.1 * 65536))))
  ∧ (s.pkg.trust.attQ.length < 16 → ∃ (u : State) (q : AttReq), s.EndsFrom u (.attest d a) ∧ u.mem = s.mem
      ∧ u.pkg = { s.pkg with trust := { s.pkg.trust with attQ := s.pkg.trust.attQ ++ [q] } } ∧ q.va = w.toNat ∧ q.cid = c ∧ q.asid = s.asidOf c
      ∧ q.fcount = s.firing.toNat ∧ q.out = s.outTag d)
  ∧ (s.target w = none → exec (.cfgld d a) s = .next (s.takeTrap 0x17) ∧ (∀ k, exec (.cfgsig d a k) s = .next (s.takeTrap 0x17))
      ∧ exec (.sysrd d a 0) s = .next (s.takeTrap 0x17))
  ∧ (∀ t, s.target w = some t →
    let u := (s.reloadRecord t).updCtx t fun k => { k with ctl := { k.ctl with reload := s.cycle + 173 } }
    (s.copyLost t = false → u.storedDigest t = u.keptDigest t → (∀ k, d = .x k → s.GivesFrom u (.cfgld d a) 173 [.sreg k.toNat 0])
      ∧ ∀ k, d = .out k → s.GivesFrom u (.cfgld d a) 173
        [.emit k.toNat (s.stamp c { kind := kDATA, tag := s.my.otag k.toNat, sc := true, scalar := 1, dep := true })])
    ∧ (s.copyLost t = true ∨ u.storedDigest t ≠ u.keptDigest t →
      let v := u.killCtx t 0x83 0 none 0
      (∀ k, d = .x k → s.GivesFrom v (.cfgld d a) 173 [.sreg k.toNat 1])
      ∧ ∀ k, d = .out k → s.GivesPoison v (.cfgld d a) d 173 (s.poisonNew d 0x83))
    ∧ s.Gives (.cfgsig d a 0) 31 (s.write d (.sca (if s.storedDigest t = s.keptDigest t then 0 else 1)) 0)
    ∧ (∃ v : Vec, s.Gives (.cfgsig d a 1) 31 ((vOf d).map fun k => .vec k (Mask.first 8) v)
        ∧ ∀ j, j < 8 → v.get j = BitVec.ofNat 32 (leAt (s.storedDigest t) (4 * j) 4))
    ∧ s.Gives (.sysrd d a 0) 2 (s.write d (.sca ((s.ctx t).regs.fstat.setWidth 64)) 0))
  ∧ (let g := s.region r
    let gives (sel : BitVec 4) (v : Dword) : Prop := s.Gives (.sysrd d a sel) 2 (s.write d (.sca v) 0)
    let k := (SMap.find g.sinksSeen (w.extractLsb' 0 2).toNat).getD (SMap.get g.sinks (w.extractLsb' 0 2).toNat {})
    let n := (w.extractLsb' 0 9).toNat
    (383 < n → exec (.sysrd d a 1) s = .next (s.takeTrap 0x17))
    ∧ (n ≤ 383 → ∃ v : Vec, s.Gives (.sysrd d a 1) 4 ((vOf d).map fun k => .vec k (Mask.first 16) v)
        ∧ ∀ j, j < 16 → v.get j = BitVec.ofNat 32 (leAt (g.snap.getD n []) (4 * j) 4))
    ∧ gives 2 g.rfctl ∧ gives 3 g.mcctl ∧ gives 4 (BitVec.ofNat 64 (k.poison + k.stranded * 2 ^ 32))
    ∧ (k.origin = none → gives 5 0) ∧ (∀ o, k.origin = some o → gives 5 (BitVec.ofNat 64 (o.1.toNat + o.2.1.toNat * 2 ^ 29)))
    ∧ gives 6 (BitVec.ofNat 64 (g.trapQ.length + g.lost % 65536 * 2 ^ 16)))

/-! ### What contexts, links and regions do on their own -/

/-- R80, R86 to R88, R95, R96, R100, R128, R162, R232, R234, R379, R405, R406, R443: results that are due are written, oldest first; a countdown
ends; a shared unit comes free; a free link takes the token of the next context in rotation, which is a head n + 1 or n + 3 cycles on; a token
whose beats are in enters its buffer while it has room; the watchdog at its limit records a snapshot, sets DLK and raises DEADLOCK; a multicast
output held full raises MCAST_STALL; a record of an earlier cycle enters the queue at its place in the order of R419, and the head leaves it, 4 cycles
later for in7 of context S of P0.C0, or for the port, where it stands in that order too; a precise trap's is delivered once its context's results
are written (R92; log entry 20). A token of a reserved kind becomes BADTOK, whose origin is its producer (log entry 10). -/
def Obligations.ContextEvents : Prop := ∀ s : State,
  (∀ c, ∃ t, exec (.resultWriteback c) s = .next t ∧ SameBut c s t
    ∧ (∀ p, p ∈ (t.ctx c).pend ↔ p ∈ (s.ctx c).pend ∧ ∀ n, p.due = some n → s.cycle < n)
    ∧ ((∀ p ∈ (s.ctx c).pend, ∀ n, p.due = some n → s.cycle < n) → t.ctx c = s.ctx c)
    ∧ ∀ p, (s.ctx c).pend = [p] → p.due = some s.cycle →
      (∀ k m v, p.effs = [.vec k m v] → ∀ j, j < 192 → ((t.ctx c).v k).get j = if m.getLsbD j then v.get j else ((s.ctx c).v k).get j)
      ∧ (∀ k x, p.effs = [.sreg k x] → (t.ctx c).x k = x ∧ ∀ j, j ≠ k → (t.ctx c).x j = (s.ctx c).x j)
      ∧ (∀ k b, p.effs = [.pred k b] → k < 128 → (t.ctx c).p k = b ∧ ∀ j, j < 128 → j ≠ k → (t.ctx c).p j = (s.ctx c).p j)
      ∧ (∀ k x, p.effs = [.emit k x] → (t.ctx c).outReg k = some x ∧ ∀ j, j ≠ k → (t.ctx c).outReg j = (s.ctx c).outReg j))
  ∧ (∀ c n, (s.ctx c).ctl.wait = .idle n →
    (n ≤ s.cycle → exec (.idleExpiry c) s = .next (s.updCtx c fun k => { k with ctl := { k.ctl with wait := .none } }))
    ∧ (s.cycle < n → exec (.idleExpiry c) s = .next s))
  ∧ (∀ e u, ∃ t, exec (.sharedUnitFree e u) s = .next t ∧ t.ctxs = s.ctxs ∧ t.mem = s.mem ∧ t.regions = s.regions
    ∧ (∀ n, u = 0 → (s.elem e).divBusy = some n → (t.elem e).divBusy = if n ≤ s.cycle then none else some n)
    ∧ (∀ n, u = 1 → (s.elem e).sfuBusy = some n → (t.elem e).sfuBusy = if n ≤ s.cycle then none else some n)
    ∧ (∀ n, u = 2 → (s.elem e).sm4Busy = some n → (t.elem e).sm4Busy = if n ≤ s.cycle then none else some n)
    ∧ ∀ d, d ≠ e → t.elem d = s.elem d)
  ∧ (∀ e k i, SMap.get (s.elem e).link k 0 ≤ s.cycle → i < 5 →
    let at_ (j : Nat) : Nat := e * 8 + (SMap.get (s.elem e).rr k 4 + 1 + j) % 5
    let c := at_ i
    s.sendable c k = true → (∀ j, j < i → s.sendable (at_ j) k = false) → ∀ tok ws, (s.ctx c).outReg k = some tok → s.wiresOf c k = ws →
    ∃ t, exec (.tokenSend e k) s = .next t ∧ t.mem = s.mem ∧ t.reqs = s.reqs ∧ (t.ctx c).outReg k = none ∧ (∀ d, d ≠ c → t.ctx d = s.ctx d)
      ∧ SMap.get (t.elem e).rr k 4 = c % 8 ∧ SMap.get (t.elem e).link k 0 = s.cycle + tok.beats
      ∧ ∃ fs, t.flight = s.flight ++ fs ∧ fs.length = ws.length ∧ ∀ (j : Nat) (w : Wire) (f : Flight), ws[j]? = some w → fs[j]? = some f →
          f.src = c ∧ f.out = k ∧ f.tok = tok ∧ f.inp = w.din ∧ f.dst = c / 1024 * 1024 + w.delem * 8 + c % 8
          ∧ f.at_ = s.cycle + tok.beats + (if c / 8 % 128 / 8 = w.delem / 8 then 1 else 3))
  ∧ (∀ n f, s.flight.find? (fun g => decide (g.id = n)) = some f →
    (f.at_ ≤ s.cycle + 1 → (∀ g ∈ s.flight, g.dst = f.dst → g.inp = f.inp → n ≤ g.id) → s.beatsStop f.dst = false → ((s.ctx f.dst).buf f.inp).length < 8 →
      ∃ t, exec (.tokenArrival n) s = .next t ∧ t.mem = s.mem ∧ t.flight = s.flight.filter (fun g => g.id ≠ n) ∧ (∀ d, d ≠ f.dst → t.ctx d = s.ctx d)
        ∧ (∀ j, j ≠ f.inp → (t.ctx f.dst).buf j = (s.ctx f.dst).buf j)
        ∧ (f.tok.kind.toNat < 5 → (t.ctx f.dst).buf f.inp = (s.ctx f.dst).buf f.inp ++ [f.tok])
        ∧ (5 ≤ f.tok.kind.toNat → ∃ x, (t.ctx f.dst).buf f.inp = (s.ctx f.dst).buf f.inp ++ [x] ∧ x.kind = kPOISON ∧ x.pcode = 0x40 ∧ x.tag = f.tok.tag
            ∧ x.psrc = s.source f.src))
    ∧ (8 ≤ ((s.ctx f.dst).buf f.inp).length → exec (.tokenArrival n) s = .next s))
  ∧ (∀ r, let g := s.region r
    g.rfctl.getLsbD 31 = true → g.rfctl.getLsbD 30 = false → max 1024 (g.rfctl.extractLsb' 32 32).toNat ≤ g.wdCount →
    (s.deadHolds r = false → exec (.deadlock r) s = .next (s.updRegion r fun g => { g with wdCount := 0 }))
    ∧ (s.deadHolds r = true → ∃ t k, exec (.deadlock r) s = .next t ∧ t.mem = s.mem ∧ t.ctxs = s.ctxs ∧ (t.region r).rfctl.getLsbD 30 = true
        ∧ (t.region r).wdCount = 0 ∧ (t.region r).snap.length = 384 ∧ (t.region r).trapIn = g.trapIn ++ [⟨s.cycle, k⟩] ∧ k.code = 0x80 ∧ k.kind = 4
        ∧ k.lid = 0 ∧ k.source = (s.source (r * 1024)).toNat ∧ k.detail = (g.rfctl.extractLsb' 32 32).toNat))
  ∧ (∀ c k e, let w := (s.region (regionOf c)).mcctl
    let n := SMap.get (s.ctx c).ch.stall k 0
    let f := s.fan c k
    w.getLsbD 32 = true → max 256 (w.extractLsb' 0 32).toNat ≤ n → n < 2 ^ 40 → f.taken.find? (fun x => decide (x.2 = f.slowest)) = some e →
    ∃ t r, exec (.mcastStall c k) s = .next t ∧ t.mem = s.mem ∧ SMap.get (t.ctx c).ch.stall k 0 = 2 ^ 40
      ∧ (t.region (regionOf c)).trapIn = (s.region (regionOf c)).trapIn ++ [⟨s.cycle, r⟩] ∧ r.code = 0x81 ∧ r.kind = 4
      ∧ r.source = (s.source c).toNat ∧ r.detail = k + (s.source (e.1 / 8)).toNat * 2 ^ 32 + e.1 % 8 * 2 ^ 61)
  ∧ (∀ r, let g := s.region r
    let home := mkCid r 6 4
    let stays (k : Rec) : Prop := k.kind = 0 ∧ s.writesDue (k.source % 2 ^ 18) = true ∧ s.atAbsent (k.source % 2 ^ 18) = false
    (∀ k, g.trapIn = [k] → k.cycle < s.cycle → g.trapQ = [] → g.trapOut = [] → g.freeze = none → stays k.rec_ →
      ∃ t, exec (.trapQueueDelivery r) s = .next t ∧ t.mem = s.mem ∧ t.ctxs = s.ctxs ∧ t.region r = { g with trapIn := [], trapQ := [k.rec_] })
    ∧ (∀ k c t0, g.trapIn = [k] → k.cycle < s.cycle → g.freeze = some (c, t0) → t0 < s.cycle → g.trapQ.length < 64 →
      ∃ t pre post, exec (.trapQueueDelivery r) s = .next t ∧ t.mem = s.mem ∧ t.ctxs = s.ctxs ∧ t.pkg = s.pkg ∧ g.trapQ = pre ++ post
        ∧ t.region r = { g with trapIn := [], trapQ := pre ++ k.rec_ :: post }
        ∧ (∀ y ∈ pre, keyLess k.rec_.order y.order = false) ∧ ∀ y, post.head? = some y → keyLess k.rec_.order y.order = true)
    ∧ (∀ k, g.trapIn = [k] → k.cycle < s.cycle → ¬ stays k.rec_ →
      g.trapQ = [] → g.trapOut = [] → g.freeze = none → ∃ t, exec (.trapQueueDelivery r) s = .next t ∧ t.mem = s.mem
      ∧ (t.region r).trapIn = []
      ∧ (s.viaPort r k.rec_ = true → (t.region r).trapQ = [] ∧ (t.region r).trapOut = [] ∧ ∃ pre post, s.pkg.port.pending = pre ++ post
          ∧ t.pkg.port.pending = pre ++ k.rec_.bytes :: post)
      ∧ (s.viaPort r k.rec_ = false → ((s.ctx home).buf 7).length < 8 → (t.region r).trapQ = [] ∧ (t.region r).trapOut = [(s.cycle + 4, k.rec_)])
      ∧ (s.viaPort r k.rec_ = false → 8 ≤ ((s.ctx home).buf 7).length → (t.region r).trapQ = [k.rec_]))
    ∧ ∀ n rec, g.trapIn = [] → g.trapQ = [] → g.trapOut = [(n, rec)] → n ≤ s.cycle → g.freeze = none → (s.res home).isSome = true →
      ∃ t x, exec (.trapQueueDelivery r) s = .next t ∧ t.mem = s.mem ∧ (t.region r).trapOut = [] ∧ (t.ctx home).buf 7 = (s.ctx home).buf 7 ++ [x]
        ∧ x.kind = kDATA ∧ x.tag = 15 ∧ x.sys = true ∧ x.mask = Mask.first 16
        ∧ ∀ j, j < 16 → x.lanes.get j = BitVec.ofNat 32 (leAt rec.bytes (4 * j) 4))
  ∧ ∃ t, exec .traprec s = .next t ∧ t.mem = s.mem ∧ t.ctxs = s.ctxs ∧ t.regions = s.regions ∧ t.pkg.port.pending = []
    ∧ t.pkg.port.sent = s.pkg.port.sent ++ s.pkg.port.pending.map fun b =>
        { port := if s.pkg.port.linkUp then 0 else 1, cmd := 0x80, seq := 0, time := s.pkg.time.tsc, status := 0, payload := b }

/-! ### What the pool does on its own -/

/-- R185, R188, R191 to R193, R199, R201, R204, R224: a command that is due enters its queue with its stamp and number; a word at the head of the
carve queue is staged; a commit waits for an older carving, is checked for 8 + ceil(N / 32) cycles and installs the staged set, or is refused and
leaves the carving whole; a spent old group is released with all its parts and its leaves join 4 cycles on with stationary values zero; a gathered
row is fetched once the table grants its tile, and stands in its latch, poisoned where its read meets an error; a soft error stops a queue or sets a
group's flag. A command that comes to the head of a queue runs from the next cycle on. The place of a sorus is within the package (R13). -/
def Obligations.PoolCarvingEvents : Prop := ∀ (s : State) (r so : Nat), r < 256 → so < 4 →
  let n := s.node r so
  let same (t : State) : Prop := t.mem = s.mem ∧ t.reqs = s.reqs
  let next (l : List PoolCmd) : List PoolCmd := match l with | k :: t => { k with arrives := max k.arrives (s.cycle + 1) } :: t | [] => []
  (∀ k, (s.region r).poolIn = [k] → k.arrives ≤ s.cycle + 1 → k.sori = [so] →
    ∃ t, exec (.poolQueueEntry r) s = .next t ∧ same t ∧ t.ctxs = s.ctxs ∧ (t.region r).poolIn = [] ∧
      let m := t.node r so
      match k.op with
      | .carve _ => m = { n with cq := { n.cq with cmds := n.cq.cmds ++ [{ k with stamp := n.gen, num := n.opsIn }] } }
      | .map _ => m = { n with cq := { n.cq with cmds := n.cq.cmds ++ [{ k with stamp := n.gen, num := n.opsIn }] } }
      | .commit => m = { n with gen := n.gen + 1, cq := { n.cq with cmds := n.cq.cmds ++ [{ k with stamp := n.gen + 1, num := n.opsIn }] } }
      | .gather l rows => m.gen = n.gen ∧ m.opsIn = n.opsIn + 1 ∧ (SMap.get m.latch l []).length = (SMap.get n.latch l []).length + rows.length
          ∧ m.oq.cmds = n.oq.cmds ++ [{ k with stamp := n.gen, num := n.opsIn + 1 }] ∧ m.groups = n.groups
      | .issue _ _ _ => m.gen = n.gen ∧ m.opsIn = n.opsIn + 1 ∧ m.latch = n.latch ∧ m.groups = n.groups
          ∧ m.oq.cmds = n.oq.cmds ++ [{ k with stamp := n.gen, num := n.opsIn + 1 }]
      | .drain _ _ _ _ => m = { n with dq := { n.dq with cmds := n.dq.cmds ++ [{ k with stamp := n.gen, num := n.opsIn }] } }
      | .clear _ _ => m = { n with dq := { n.dq with cmds := n.dq.cmds ++ [{ k with stamp := n.gen, num := n.opsIn }] } }
      | .sort _ _ => m = { n with dq := { n.dq with cmds := n.dq.cmds ++ [{ k with stamp := n.gen, num := n.opsIn }] } }
      | .sortk _ _ _ => m = { n with dq := { n.dq with cmds := n.dq.cmds ++ [{ k with stamp := n.gen, num := n.opsIn }] } })
  ∧ (∀ k rest, n.cq.cmds = k :: rest → k.arrives ≤ s.cycle → n.cq.stop = none → n.cq.qstop = false →
    (∀ w, k.op = .carve w → exec (.carveStage r so) s = .next (s.updNode r so fun n =>
      { n with staged := n.staged ++ [w], cq := { n.cq with cmds := next rest, done := n.cq.done + 1 } }))
    ∧ (∀ w, k.op = .map w → exec (.carveStage r so) s = .next (s.updNode r so fun n =>
      { n with stagedMaps := n.stagedMaps ++ [w], cq := { n.cq with cmds := next rest, done := n.cq.done + 1 } }))
    ∧ (k.op = .commit → k.startAt = none →
      ((∃ p ∈ n.groups, p.gTo.isSome = true ∧ p.released = false) → exec (.commitCheck r so) s = .next s)
      ∧ ((∀ p ∈ n.groups, p.gTo.isSome = true → p.released = true) → ∃ t, exec (.commitCheck r so) s = .next t ∧ same t ∧ t.ctxs = s.ctxs
          ∧ t.node r so = { n with cq := { n.cq with cmds := { k with startAt := some s.cycle } :: rest } }))
    ∧ (∀ b, k.op = .commit → k.startAt = some b → b + 8 + (n.staged.length + n.stagedMaps.length + 31) / 32 ≤ s.cycle →
        (∀ p ∈ n.groups, p.gTo = none → p.released = false) →
      ∃ t, exec (.commitCheck r so) s = .next t ∧ same t ∧ (t.node r so).staged = [] ∧ (t.node r so).stagedMaps = []
        ∧ (t.node r so).installed = k.stamp ∧ (t.node r so).cq.cmds = next rest ∧ (t.node r so).cq.done = n.cq.done + 1
        ∧ (t.node r so).lstat = stagedStatus n.staged n.stagedMaps
        ∧ (stagedStatus n.staged n.stagedMaps = 0 → SMap.get (t.node r so).maps k.stamp [] = n.stagedMaps
            ∧ ∀ w, (∃ p ∈ (t.node r so).groups, p.gTo = none ∧ p.word = w) ↔ w ∈ n.staged)
        ∧ (stagedStatus n.staged n.stagedMaps ≠ 0 → SMap.get (t.node r so).maps k.stamp [] = SMap.get n.maps n.installed []
            ∧ ∀ w, (∃ p ∈ (t.node r so).groups, p.gTo = none ∧ p.word = w) ↔ ∃ p ∈ n.groups, p.gTo = none ∧ p.word = w)))
  ∧ (∀ (pre mid post : List Dword) (x y : Dword), n.staged = pre ++ x :: (mid ++ y :: post) → n.staged.length ≤ 1024 →
    n.stagedMaps.length ≤ 32 → (cwStart x < cwStart y + cwCount y ∧ cwStart y < cwStart x + cwCount x) → stagedStatus n.staged n.stagedMaps = 1)
  ∧ (∀ p0 ∈ n.groups, p0.gTo.isSome = true → p0.released = false → s.spent r so p0 = true →
    (∀ p ∈ n.groups, ∀ q ∈ n.groups, p.gFrom = q.gFrom → cwGid p.word = cwGid q.word → p = q) →
    ∃ t, exec (.groupRelease r so (cwGid p0.word)) s = .next t ∧ same t ∧ t.ctxs = s.ctxs ∧ ∀ q ∈ (t.node r so).groups, ∃ p ∈ n.groups,
      q = { p with released := q.released, joinAt := q.joinAt } ∧ q.released = (p.released || (p.gTo.isSome && s.spent r so p))
      ∧ (q.joinAt = p.joinAt ∨ p.joinAt = none ∧ p.gTo = none ∧ p.joined = false ∧ q.joinAt = some (s.cycle + 4)))
  ∧ (∀ gid, ∃ t, exec (.leafJoin r so gid) s = .next t ∧ same t ∧ t.ctxs = s.ctxs ∧ (t.node r so).groups.length ≤ n.groups.length
    ∧ ∀ p ∈ n.groups, p.released = false →
      (∀ a, cwGid p.word = gid → p.joined = false → p.joinAt = some a → a ≤ s.cycle → { p with joined := true, stat := [] } ∈ (t.node r so).groups)
      ∧ (cwGid p.word ≠ gid ∨ p.joined = true ∨ p.joinAt = none → p ∈ (t.node r so).groups))
  ∧ (∀ x l, (s.region r).gather = [x] → x.so = so → x.lane = l →
    (∀ d, x.due = some d → d ≤ s.cycle → x.last = false → s.engineTurn x.cid x.key x.reqs = true → s.openTo (s.rowPieces r x) = true →
        s.banksFree x.cid (blocksOf (s.rowPieces r x)) = true → s.errIn false (s.rowPieces r x) = none →
      ∀ y rest, SMap.get n.latch l [] = y :: rest → y.here = false → y.num = x.num →
      ∃ t, exec (.gatherRowFetch r so l) s = .next t ∧ same t ∧ t.ctxs = s.ctxs ∧ (t.region r).gather = []
        ∧ let v := s.tileRow r x
          let got := { y with here := true, fmt := v.1, blk := v.2.1, entry := (x.ix.extractLsb' 16 12).toNat }
          (s.piecesCode x.cid false (s.rowPieces r x) = none →
            SMap.get (t.node r so).latch l [] = { got with code := v.2.2.1, elems := v.2.2.2.1, scales := v.2.2.2.2 } :: rest)
          ∧ ∀ e, s.piecesCode x.cid false (s.rowPieces r x) = some e →
            SMap.get (t.node r so).latch l [] = { got with code := e.1, elems := [], scales := [] } :: rest)
    ∧ (x.due = none → s.tileWaits r x.tile (.gather x.id) = false → ((SMap.get n.latch l []).filter LatchRow.here).length < 16 →
        (((SMap.get n.latch l []).filter LatchRow.here).map LatchRow.width).sum + x.width ≤ 1024 →
      ∃ t, exec (.gatherRowFetch r so l) s = .next t ∧ same t ∧ t.ctxs = s.ctxs
        ∧ (t.region r).gather = [{ x with due := some (s.cycle + 19 + (x.width + 63) / 64) }]))
  ∧ (∀ q gid, q < 3 → ∃ t, exec (.poolecc r so q gid) s = .next t ∧ same t ∧ t.ctxs = s.ctxs ∧ ((t.node r so).q q).stop = some 0x66
    ∧ ((t.node r so).q q).cmds = (n.q q).cmds
    ∧ ∀ k rest, (n.q q).cmds = k :: rest → regionOf k.cid = r → ∃ rec, (t.region r).trapIn = (s.region r).trapIn ++ [⟨s.cycle, rec⟩]
        ∧ rec.code = 0x66 ∧ rec.kind = 2 ∧ rec.slot = 0x10 + 3 * so + q ∧ rec.fcount = k.fcount ∧ rec.key = k.key
        ∧ rec.detail = (((t.node r so).q q).stat q).toNat)
  ∧ ∀ gid pre p post, n.groups = pre ++ p :: post → p.released = false → cwGid p.word = gid → (∀ q ∈ pre ++ post, cwGid q.word ≠ gid) →
    cwLo p.word = false → cwHi p.word = false → ∃ t, exec (.poolecc r so (if p.gTo = none then 3 else 4) gid) s = .next t ∧ same t ∧ t.ctxs = s.ctxs
      ∧ (t.node r so).groups = pre ++ { p with poison := if p.poison = 0 then 0x66 else p.poison } :: post

/-- R195, R202, R203, R208, R211 to R219, R225: a pass consumes the head row of every lane it names, loads the stationary values of a load map and
sends the products of a multiply map to the root; a complete pass of holes or with a flag counts 12 cycles after its start, or 13 when streaming, and
a sum stands in its entry 2 cycles later. A drain reads its entries, which are
then no longer owed (and with CLR are clear), and makes its packet or its tile, or POOLGID or its group's poison. A clear, a sort's append and a
sorted stream, whose group is empty once its last token has left. A tile write performs at its turn, or stops its queue. A command that comes to
the head of its queue may start in the next cycle. Groups that span a boundary are another statement's concern. -/
def Obligations.PoolPassAndDrainEvents : Prop := ∀ (s : State) (r so : Nat), r < 256 → so < 4 →
  let n := s.node r so
  let same (t : State) : Prop := t.mem = s.mem ∧ t.reqs = s.reqs
  let part (t : State) (p : Group) : Option Group := (t.node r so).groups.find? fun q => q.gFrom == p.gFrom && cwGid q.word == cwGid p.word
  let alone (p : Group) : Prop := part s p = some p ∧ cwLo p.word = false ∧ cwHi p.word = false
  let token (g : BitVec 4) : Token := { kind := kDATA, tag := g, sc := true, scalar := 1, dep := true }
  let next (l : List PoolCmd) : List PoolCmd := match l with | k :: t => { k with arrives := max k.arrives s.cycle } :: t | [] => []
  let settled (t : State) (c m at_ : Nat) (e : Eff) : Prop :=
    (t.ctx c).pend = (s.ctx c).pend.map fun q => if q.id = m then { q with due := some at_, effs := [e] } else q
  (∀ k rest load ex cnt, n.oq.cmds = k :: rest → k.op = .issue load ex cnt → k.arrives ≤ s.cycle → n.oq.stop = none → n.oq.qstop = false →
    (∀ x ∈ n.runs, x.started = false) → s.passReady r so k load ex = true →
    let ms := n.passMaps k.stamp load ex
    ∃ t, exec (.passStart r so) s = .next t ∧ same t ∧ t.ctxs = s.ctxs
      ∧ (ms = [] → ex = none → (t.node r so).groups = n.groups ∧ (t.node r so).latch = n.latch)
      ∧ (t.node r so).passFree = s.cycle + (if ex = none then 1 else 2)
      ∧ (k.prog + 1 < cnt → (t.node r so).oq.cmds = { k with prog := k.prog + 1, startAt := some s.cycle } :: rest)
      ∧ (cnt ≤ k.prog + 1 → (t.node r so).oq.cmds = next rest)
      ∧ (∀ l, SMap.get (t.node r so).latch l [] = if l ∈ passLanes ex ms ∧ (n.headRow k.num l).isSome = true then (SMap.get n.latch l []).drop 1
          else SMap.get n.latch l [])
      ∧ ∀ m p, ms = [(m, [p])] → alone p → s.broken r so p = false → ∀ y, n.headRow k.num (passLane ex m) = some y →
          (mwLoad m = true → y.code = 0 → y.fmt = cwBfmt p.word → ∃ q, part t p = some q ∧ q = { p with npass := p.npass + 1, stat := q.stat }
            ∧ q.stat = (List.range (cwCount p.word)).map fun x => (x, y.chunk (mwChunk m 0 + x)))
          ∧ (mwLoad m = false → ∃ q, part t p = some q ∧ q = { p with npass := p.npass + 1, sends := q.sends }
            ∧ SMap.get q.sends p.npass [] = SMap.get p.sends p.npass [] ++ 
                [{ node := 4 * r + so, num := k.num, due := s.cycle + (if ex = none then 12 else 13), send := sendOf p m 0 (some y) }]))
  ∧ (∀ pre p post num x older newer, n.groups = pre ++ p :: post → (∀ q ∈ pre ++ post, cwGid q.word ≠ cwGid p.word) → cwLo p.word = false → cwHi p.word = false →
    p.sends = older ++ (num, [x]) :: newer → (∀ y ∈ older ++ newer, y.1 ≠ num ∧ p.passDone 1 s.cycle y.2 = false) →
    x.due + (match x.send with | .hole => 0 | .flag _ => 0 | .prods e _ _ _ _ _ _ => if e < min 4096 (64 * cwCount p.word) then 2 else 0) ≤ s.cycle →
    ∃ t q, exec (.passRootApply r so (cwGid p.word)) s = .next t ∧ t.mem = s.mem ∧ t.reqs = s.reqs ∧ part t p = some q
      ∧ q = { p with sends := older ++ newer, poison := q.poison, entries := q.entries }
      ∧ (∀ code, x.send = .flag code → code ≠ 0 → q.entries = p.entries ∧ q.poison = if p.poison = 0 then code else p.poison)
      ∧ (x.send = .hole → q.entries = p.entries ∧ q.poison = p.poison)
      ∧ ∀ e nan inv pi ni nz ts, x.send = .prods e nan inv pi ni nz ts →
          (min 4096 (64 * cwCount p.word) ≤ e → q.entries = p.entries ∧ q.poison = if p.poison = 0 then 0x62 else p.poison)
          ∧ (e < min 4096 (64 * cwCount p.word) → q.poison = p.poison
            ∧ SMap.get q.entries e {} = (SMap.get p.entries e {}).add (passSum (productClass (cwAfmt p.word) (cwBfmt p.word)) nan inv pi ni nz ts)
            ∧ ∀ j, j ≠ e → SMap.get q.entries j {} = SMap.get p.entries j {}))
  ∧ (∀ k rest, n.dq.cmds = k :: rest → k.arrives ≤ s.cycle → n.dq.stop = none → n.dq.qstop = false → k.startAt = none → s.drainReady r so k = true →
    let fails (i : Instr) (code lat : Nat) : Prop := ∃ t, exec i s = .next t ∧ same t ∧ (t.node r so).dq.cmds = next rest ∧ (t.node r so).dq.done = n.dq.done + 1
      ∧ (∀ l, s.launch (s.lidOf k.cid) = some l → ∃ l', t.launch (s.lidOf k.cid) = some l' ∧ l'.headErr = true)
      ∧ ∀ o g m, k.out = some (o, g) → k.pend = some m →
          settled t k.cid m (s.cycle + lat - 1) (.emit o (s.stamp k.cid { s.poison k.cid (BitVec.ofNat 48 k.fcount) code with tag := g }))
    let completes (t : State) (late : Nat) : Prop := (t.node r so).dq.cmds = next rest ∧ (t.node r so).dq.done = n.dq.done + 1
      ∧ ∀ o g m, k.out = some (o, g) → k.pend = some m → settled t k.cid m (s.cycle + late) (.emit o (s.stamp k.cid (token g)))
    (∀ w clr gid, k.op = .drain w clr false gid → n.packets = [] → n.tileWrites = [] → k.prog = 0 → k.got = [] → k.fl = 0 →
      (s.drainGroup r so k gid (dsFirst w + dsCount w) = none → fails (.drainStart r so) 0x64 1)
      ∧ ∀ p, s.drainGroup r so k gid (dsFirst w + dsCount w) = some p → dsCount w ≤ 16 →
        let ix := rangeFrom (dsFirst w) (dsCount w)
        let vals := ix.map fun i => (SMap.get p.entries i {}).value
        (p.poison ≠ 0 → fails (.drainStart r so) p.poison 5)
        ∧ (p.poison = 0 → ∃ t q, exec (.drainStart r so) s = .next t ∧ same t ∧ t.ctxs = s.ctxs ∧ (t.node r so).dq.cmds = next rest
            ∧ part t p = some q ∧ (∀ i, i ∈ ix → (clr = true → SMap.get q.entries i {} = {})
                ∧ (clr = false → SMap.has p.entries i = true → SMap.get q.entries i {} = { SMap.get p.entries i {} with owed := false }))
            ∧ (∀ i, i ∉ ix → SMap.get q.entries i {} = SMap.get p.entries i {})
            ∧ ∀ o g, k.out = some (o, g) →
              let d := drainPacket w (vals.map Prod.fst) ((vals.map Prod.snd).foldl (· ||| ·) 0)
              (t.node r so).packets = [{ cid := k.cid, out := o, pend := k.pend, due := s.cycle + 4, holds := false,
                                         toks := scaTok g (BitVec.ofNat 64 d.1) :: payloadTokens g d.2 }]))
    ∧ (∀ w gid, k.op = .clear w gid → k.prog = 0 →
      (n.groupAt k.stamp gid = none → fails (.clearStart r so) 0x64 1)
      ∧ ∀ p, n.groupAt k.stamp gid = some p → part s p = some p →
        (cwSort p.word = true → p.keys.length ≤ 64 → ∃ t, exec (.clearStart r so) s = .next t ∧ same t ∧ completes t (if p.keys = [] then 0 else 1)
          ∧ part t p = some { p with keys := [], poison := 0 })
        ∧ (cwSort p.word = true → 64 < p.keys.length → ∃ t, exec (.clearStart r so) s = .next t ∧ same t
          ∧ part t p = some { p with keys := p.keys.drop 64 } ∧ (t.node r so).dq.cmds = { k with prog := 64, startAt := some s.cycle } :: rest)
        ∧ (cwSort p.word = false → cwLo p.word = false → (w.extractLsb' 52 12).toNat + (w.extractLsb' 40 12).toNat + 1 ≤ p.entryCount →
            (w.extractLsb' 40 12).toNat < 64 → ∃ t q, exec (.clearStart r so) s = .next t ∧ same t ∧ completes t 1 ∧ part t p = some q
              ∧ q.poison = (if w.getLsbD 0 then 0 else p.poison) ∧ ∀ i, SMap.get q.entries i {} =
                if (w.extractLsb' 52 12).toNat ≤ i ∧ i ≤ (w.extractLsb' 52 12).toNat + (w.extractLsb' 40 12).toNat then {} else SMap.get p.entries i {}))
    ∧ (∀ l gid, k.op = .sort l gid →
      ((∀ p, n.groupAt k.stamp gid = some p → cwSort p.word = false) → fails (.sortAppend r so) 0x64 1)
      ∧ ∀ p, n.groupAt k.stamp gid = some p → cwSort p.word = true → part s p = some p →
        let room := 16 * cwCount p.word - p.keys.length
        let held (w : Word) : Word := if cwAfmt p.word = 1 ∨ cwAfmt p.word = 2 then (w.setWidth 16).setWidth 32 else w
        let flag := if room < l.length ∧ p.poison = 0 then 0x65 else p.poison
        ∃ t, exec (.sortAppend r so) s = .next t ∧ same t ∧ completes t 0
          ∧ part t p = some { p with keys := p.keys ++ (l.take room).map held, poison := flag })
    ∧ (∀ idx desc gid, k.op = .sortk idx desc gid →
      ((∀ p, n.groupAt k.stamp gid = some p → cwSort p.word = false) → fails (.sortEmit r so) 0x64 1)
      ∧ ∀ p o g, n.groupAt k.stamp gid = some p → cwSort p.word = true → part s p = some p → k.out = some (o, g) → p.poison = 0 →
        ∃ t pk toks, exec (.sortEmit r so) s = .next t ∧ same t ∧ t.ctxs = s.ctxs ∧ (t.node r so).groups = n.groups
          ∧ (t.node r so).dq.cmds = { k with startAt := some s.cycle } :: rest
          ∧ (t.node r so).packets = n.packets ++ [pk] ∧ pk.cid = k.cid ∧ pk.out = o ∧ pk.pend = k.pend ∧ pk.holds = true
          ∧ pk.due = s.cycle + 4 + sortCycles p.keys.length
          ∧ pk.toks = toks ++ [markTok 0 true (BitVec.ofNat 64 p.keys.length)] ∧ (p.keys = [] → toks = [])))
  ∧ (∀ p tok rest, n.packets = [p] → p.toks = tok :: rest → p.due ≤ s.cycle → (s.ctx p.cid).outReg p.out = none →
    (p.holds = true → n.dq.stopped 2 = false) →
    ∃ t, exec (.drainPacketEmit r so) s = .next t ∧ same t ∧ (t.ctx p.cid).outReg p.out = some (s.stamp p.cid tok) ∧ (∀ c, c ≠ p.cid → t.ctx c = s.ctx c)
      ∧ (rest ≠ [] → (t.node r so).packets = [{ p with toks := rest }] ∧ (t.ctx p.cid).pend = (s.ctx p.cid).pend)
      ∧ (p.holds = false → (t.node r so).dq.cmds = n.dq.cmds ∧ (t.node r so).groups = n.groups)
      ∧ (∀ k cs idx desc gid g, p.holds = true → n.dq.cmds = k :: cs → k.op = .sortk idx desc gid → n.groupAt k.stamp gid = some g → part s g = some g →
          (rest ≠ [] → (t.node r so).groups = n.groups)
          ∧ (rest = [] → (t.node r so).dq.cmds = next cs ∧ part t g = some { g with keys := [] }))
      ∧ (rest = [] → (t.node r so).packets = [] ∧ (t.node r so).dq.done = n.dq.done + 1
          ∧ ∀ m, p.pend = some m → (t.ctx p.cid).pend = (s.ctx p.cid).pend.filter fun q => q.id ≠ m))
  ∧ ∀ w rest x k cs, n.tileWrites = w :: rest → n.dq.cmds = k :: cs → w.due ≤ s.cycle → s.tile r w.tile = some x → x.st = .filling →
    n.dq.stopped 2 = false → s.engineTurn w.cid k.key k.reqs = true →
    let base := s.vaultKey (vaultVa r x.offset)
    let pl := s.redirected [(base, 0, w.bytes.length)]
    s.openTo pl = true → s.banksFree w.cid (blocksOf pl) = true →
    (∀ a, (blocksOf pl).find? s.vaultBad = some a → ∃ t, exec (.drainTileWriteDone r so) s = .next t ∧ same t ∧ t.ctxs = s.ctxs
      ∧ (t.node r so).tileWrites = n.tileWrites ∧ (t.node r so).dq = { n.dq with stop := some 0x2A } ∧ t.vaultBad a = false
      ∧ (regionOf k.cid = r → ∃ rec, (t.region r).trapIn = (s.region r).trapIn ++ [⟨s.cycle, rec⟩] ∧ rec.code = 0x2A ∧ rec.kind = 2
          ∧ rec.slot = 0x12 + 3 * so ∧ rec.addr = a % 2 ^ 52 ∧ rec.flags / 2 % 2 = 1 ∧ rec.fcount = k.fcount ∧ rec.key = k.key))
    ∧ ((∀ a ∈ blocksOf pl, s.vaultBad a = false) → (∀ a, s.redirect (a, 0) = (a, 0)) → s.piecesCode w.cid true pl = none →
      ∃ t, exec (.drainTileWriteDone r so) s = .next t ∧ t.reqs = s.reqs
        ∧ t.tile r w.tile = some (({ x with st := .ready } : Tile).serve s.reqNo x.waitq)
        ∧ (t.node r so).tileWrites = rest ∧ (t.node r so).dq.cmds = next cs ∧ (t.node r so).dq.done = n.dq.done + 1
        ∧ (∀ a, memGet t.mem a = if base ≤ a ∧ a < base + w.bytes.length then w.bytes.getD (a - base) 0 else memGet s.mem a)
        ∧ ∀ o g m, w.out = some (o, g) → w.pend = some m → settled t w.cid m s.cycle (.emit o (s.stamp w.cid (token g))))

/-! ### The package scheduler and the sequencers -/

/-- R340, R378, R384 to R390, R411, R338: a packet that is unsound is refused with code 22H, one whose LID is live in the pod with 23H, and any
other is queued; one refused at another position than 0 leaves nothing there, since the package at position 0 refuses it too; a queued launch that
waits for nothing is accepted, with its parameter block as it stands, or ends with 24H, or waits while a migration has frozen the block; its RAND range overlaps another's where some
counter lies in both; the first of the grant order takes P regions, each with an empty user context, in one step, or waits; RANK orders the
residents and is written only when something changes. That an eligible region gives its lowest empty context is log entry 13. A read or a record's
store that finds an uncorrectable error waits for the kill (log entry 20). -/
def Obligations.QueueingAndGrants : Prop := ∀ s : State,
  (∀ d, s.pkg.sched.deliveries = [d] →
    let p := pktOf d.bytes
    let s0 := s.updSched fun k => { k with deliveries := [] }
    let sound := pktSound d.bytes (!d.host) d.pkgs.length
    let here : Prop := d.pkgs.head? = some s.pkg.pkgId
    (sound = false → s0.recordReach d.asid p.compVa = .hold → exec .packetDelivery s = .next s)
    ∧ (sound = false → s0.recordReach d.asid p.compVa ≠ .hold →
      (∀ e, s0.recordErr d.asid p.compVa = some e →
        exec .packetDelivery s = .next ((s0.findErr 0 none 0 e 0).updSched fun k => { k with deliveries := [d] }))
      ∧ (s0.recordErr d.asid p.compVa = none →
        (here → exec .packetDelivery s = .next (s0.giveRecord 0 d.asid p.compVa (completionBytes 0x22 0 p.lid 0 0 0 s.now)))
        ∧ (¬here → exec .packetDelivery s = .next s0)))
    ∧ (sound = true → s.inPod p.lid = true →
      (here → exec .packetDelivery s = .next (s0.toPort (completionBytes 0x23 0 p.lid 0 0 0 s.now))) ∧ (¬here → exec .packetDelivery s = .next s0))
    ∧ (sound = true → s.inPod p.lid = false → ∃ t l, exec .packetDelivery s = .next t ∧ t.launch p.lid = some l ∧ l.st = .queued ∧ l.pkt = p
        ∧ l.asid = d.asid ∧ l.parent = d.parent ∧ l.pkgs = d.pkgs ∧ l.basePrio = p.prio ∧ l.order = s.pkg.sched.nextOrder
        ∧ (∀ q, q ∈ l.waits ↔ q ∈ p.preds ∧ q ≠ 0 ∧ s.inPod q = true)
        ∧ t.pkg.sched.deliveries = [] ∧ (∀ q, q ≠ p.lid → t.launch q = s.launch q)
        ∧ t.mem = s.mem ∧ t.regions = s.regions ∧ t.ctxs = s.ctxs ∧ t.reqs = s.reqs))
  ∧ (∀ lid l, s.launch lid = some l →
    let meets (seed : Dword) (clo ccount : Nat) : Prop :=
      l.pkt.seed = seed ∧ ∃ x, l.pkt.clo ≤ x ∧ x < l.pkt.clo + l.pkt.ccount ∧ clo ≤ x ∧ x < clo + ccount
    let acc (snap : List Byte) (t : State) : Prop := ∃ m, t.launch lid = some m
      ∧ m = { l with st := .accepted, accTime := s.now, order := s.pkg.sched.nextOrder, randOvl := m.randOvl, snapshot := snap }
      ∧ (m.randOvl = true ↔ (∃ e ∈ s.pkg.sched.launches, e.1 ≠ lid ∧ e.2.st ≠ .queued ∧ meets e.2.pkt.seed e.2.pkt.clo e.2.pkt.ccount)
          ∨ ∃ e ∈ s.pkg.sched.away, e.1 ≠ lid ∧ e.2.accepted = true ∧ meets e.2.seed e.2.clo e.2.ccount)
    ((l.st ≠ .queued ∨ l.waits ≠ []) → exec (.packetAcceptance lid) s = .next s)
    ∧ (l.st = .queued → l.waits = [] →
      (l.pkt.paramLen = 0 → ∃ t, exec (.packetAcceptance lid) s = .next t ∧ acc [] t ∧ t.mem = s.mem ∧ t.regions = s.regions ∧ t.ctxs = s.ctxs)
      ∧ (∀ q, l.pkt.paramLen ≠ 0 → s.reachClear l.asid true false l.pkt.paramVa (64 * l.pkt.paramLen) = .ok q →
          (s.errIn false q = none → ∃ t, exec (.packetAcceptance lid) s = .next t ∧ acc (s.readPieces q) t)
          ∧ ∀ e, s.errIn false q = some e → exec (.packetAcceptance lid) s = .next (s.findErr lid none 0 e 0))
      ∧ (l.pkt.paramLen ≠ 0 → s.reachClear l.asid true false l.pkt.paramVa (64 * l.pkt.paramLen) = .hold → exec (.packetAcceptance lid) s = .next s)
      ∧ (l.pkt.paramLen ≠ 0 → ((∃ e v, s.reachClear l.asid true false l.pkt.paramVa (64 * l.pkt.paramLen) = .fail e v)
            ∨ ∃ v, s.reachClear l.asid true false l.pkt.paramVa (64 * l.pkt.paramLen) = .np v) →
          ∃ t m, exec (.packetAcceptance lid) s = .next t ∧ t.launch lid = some m ∧ m.st = .ending ∧ m.code = 0x24
          ∧ t.mem = s.mem ∧ ((∀ v, s.reachClear l.asid true false l.pkt.paramVa (64 * l.pkt.paramLen) ≠ .fail 0x28 v) → t.regions = s.regions))))
  ∧ (∀ lid l rest, s.grantOrder = (lid, l) :: rest → s.launch lid = some l →
    (s.grantFor l = none → exec (.regionGrant lid) s = .next s)
    ∧ (∀ k, k ≠ lid → exec (.regionGrant k) s = .next s)
    ∧ ∀ rs, s.grantFor l = some rs → rs.length = l.pkt.regions ∧ (∀ r ∈ rs, ∃ x, s.freeCtx r = some x ∧ x < 4 ∧ SMap.find (s.region r).res x = none)
      ∧ ∃ t m, exec (.regionGrant lid) s = .next t ∧ t.launch lid = some m ∧ t.mem = s.mem ∧ t.ctxs = s.ctxs ∧ t.reqs = s.reqs
        ∧ (l.image = none → m.st = .granted) ∧ (l.image.isSome = true → m.st = .loaded)
        ∧ ∀ g, g < rs.length → ∃ q, SMap.find m.seqs g = some q ∧ q.region = rs.getD g 0 ∧ s.freeCtx q.region = some q.x
            ∧ (l.image = none → q.pos = none ∧ q.queues = []))
  ∧ (∀ r, let k := s.ranking r
    let order := k.map Prod.fst ++ (List.range 4).filter fun x => !(k.map Prod.fst).contains x
    (k = (s.region r).ranked → exec (.priorityRankUpdate r) s = .next s)
    ∧ (k ≠ (s.region r).ranked → ∃ t w, exec (.priorityRankUpdate r) s = .next t ∧ t = s.updRegion r (fun g => { g with ranked := k, rfctl := w })
        ∧ (∀ i, i < 4 → fld w (15 - 2 * i) (14 - 2 * i) = order.getD i 0) ∧ ∀ j, j < 64 → (j < 8 ∨ 16 ≤ j) → w.getLsbD j = (s.region r).rfctl.getLsbD j))
  ∧ ∀ r, (64 ≤ (s.region r).quiet → exec (.quiescentPoint r) s = .next (s.updRegion r fun g => { g with quiet := 64 }))
      ∧ ((s.region r).quiet < 64 → exec (.quiescentPoint r) s = .next s)

/-- R27, R71, R73 to R75, R332, R338, R342, R392 to R394: an image that cannot be read (BADHDR and IMAGEID 0, log entry 11) or that a check refuses
ends its launch and changes nothing else, but that an access that reached a retired frame is reported; one that passes has its data written, its
regions' sequences begun and the ports of all its configurations patched at its load, but for one with a port that fails with EXTENT, shown there (log
entry 20); it waits for launches accepted before it, for migrations, and for the kill where a read finds an error. A step is placed with its generators and its tiles entered, or ends its region's sequence where its configuration failed; its
records, once written, give every context its slots, rules, predicates, mask and key, with everything else clear. A finished configuration drains:
its token removes the tokens at each element, each one stranded, and waits there for that element's commands and results; then its context is empty,
but for FSTAT, which stands until the next load (R147). That a placement beside a stopped generator waits for a
quiescent point is log entry 20. -/
def Obligations.LoadingAndSteps : Prop := ∀ s : State,
  (∀ lid l, s.launch lid = some l → (l.st ≠ .granted ∨ s.loadsBefore l = true) → exec (.imageLoad lid) s = .next s)
  ∧ (∀ lid l, s.launch lid = some l → l.st = .granted → s.loadsBefore l = false →
    let args : LoadArgs := ⟨false, l.pkt.keyed, l.pkt.regions, s.pkg.trust.keys, s.dataBad l.asid l.snapshot⟩
    let ends (e : LoadErr) (id : Dword) (clean : Prop) : Prop := ∃ t, exec (.imageLoad lid) s = .next t ∧ t.mem = s.mem ∧ (clean → t.regions = s.regions)
      ∧ t.ctxs = s.ctxs ∧ t.launch lid = some { l with st := .ending, code := e.code, refusal := e.bytes id s.now } ∧ ∀ q, q ≠ lid → t.launch q = s.launch q
    (∀ k v, s.readImage l.asid l.pkt.imageVa = .bad k v → ends { code := 1 } 0 (k ≠ 0x28))
    ∧ (∀ v, s.readImage l.asid l.pkt.imageVa = .found v → exec (.imageLoad lid) s = .next (s.findErr lid none 0 v 0))
    ∧ (s.readImage l.asid l.pkt.imageVa = .wait → exec (.imageLoad lid) s = .next s)
    ∧ ∀ b, s.readImage l.asid l.pkt.imageVa = .bytes b →
      (∀ e, imageErr args b = some e → ends e (BitVec.ofNat 64 (leAt b 8 8)) (e.code ≠ 0xF))
      ∧ (imageErr args b = none →
        let im := imageOf b
        let vault (g : Nat) : Nat := match SMap.find l.seqs g with | some q => q.region | none => 0
        let written := im.data.foldl (fun u d => u.writeData lid l.asid l.snapshot vault d) s
        let waits : Prop := ∃ d ∈ im.data, s.dataWaits l.asid l.snapshot vault d = true
        let begun := written.updLaunch lid fun l => { l with
          st := .loaded, image := some im, seqs := l.seqs.map fun q => (q.1, q.2.at im q.1 (im.start q.1)) }
        (waits → exec (.imageLoad lid) s = .next s)
        ∧ (¬ waits → ∀ v, im.data.findSome? (s.dataErr l.asid l.snapshot) = some v → exec (.imageLoad lid) s = .next (s.findErr lid none 0 v 0))
        ∧ (¬ waits → (∀ d ∈ im.data, s.dataErr l.asid l.snapshot d = none) → ∃ t, exec (.imageLoad lid) s = .next t
            ∧ t = (l.seqs.foldl (fun u q => (im.cfgNums q.1).foldl (fun u c => u.patchCfg lid l.asid l.snapshot im q.1 q.2 c) u) begun).shareAsid l.asid
            ∧ (im.data = [] → im.ports = [] → t.mem = s.mem ∧ t.regions = s.regions ∧ t.ctxs = s.ctxs))))
  ∧ (∀ lid l asid snap im g q c, s.launch lid = some l → SMap.find l.seqs g = some q → lid ≠ 0 →
    let ports := im.ports.filter fun (p : PortRec) => p.cfg = c
    let bad (p : PortRec) : Bool := match genOf snap p with | some g => !g.extentOk | none => true
    let gs := ports.filterMap fun p => (genOf snap p).map fun g => (4 * p.pinna + p.sport, g)
    let t := s.patchCfg lid asid snap im g q c
    ((∃ p ∈ ports, bad p = true) → t.mem = s.mem ∧ t.ctxs = s.ctxs ∧ t.launch lid = some { l with headErr := true }
      ∧ ∃ k, (t.region q.region).trapIn = (s.region q.region).trapIn ++ [⟨s.cycle, k⟩] ∧ k.code = 0x16 ∧ k.kind = 4 ∧ k.lid = lid ∧ k.asid = asid)
    ∧ ((∀ p ∈ ports, bad p = false) → ∃ m, t.launch lid = some m ∧ m = { l with seqs := m.seqs }
      ∧ SMap.find m.seqs g = some { q with gens := SMap.set q.gens c (s.patchAll asid gs []).1 }
      ∧ ∀ h, h ≠ g → SMap.find m.seqs h = SMap.find l.seqs h))
  ∧ (∀ r x v i cand st c, s.runOf r x = some v → SMap.has (s.region r).res x = false → s.loadBusy r = false →
      (v.lid ≠ 0 → s.evicting v.lid = false ∧ s.launchWaits v.lid = false) → v.due s.cycle = some (i, cand) → (v.image.stepsOf v.g)[i]? = some st → v.image.cfgs.find? (fun c => c.num = st.cfg) = some c →
    (s.maySwap r = false ∨ s.tilesCollide r c = true → exec (.stepPlacement r x) s = .next s)
    ∧ (s.maySwap r = true → s.tilesCollide r c = false → SMap.find v.seq.gens c.num = none →
        ∃ t, exec (.stepPlacement r x) s = .next t ∧ t.mem = s.mem ∧ t.ctxs = s.ctxs ∧ t.regions = s.regions
          ∧ t.runOf r x = some { v with seq := { v.seq.at v.image v.g none with queues := [] } })
    ∧ (∀ gens, s.maySwap r = true → s.tilesCollide r c = false → SMap.find v.seq.gens c.num = some gens → (c.tiles.map TileRec.tile).Nodup →
        ∃ t p, exec (.stepPlacement r x) s = .next t ∧ SMap.find (t.region r).res x = some p ∧ p.lid = v.lid ∧ p.asid = v.asid ∧ p.keyed = v.keyed
          ∧ p.g = v.g ∧ p.cfg = c ∧ p.pos = i ∧ p.step = st.step ∧ p.pick = cand ∧ p.choice = none ∧ p.tags = []
          ∧ p.phase = .loading (s.cycle + 171 + 15 * c.elems.length)
          ∧ p.gens = gens ∧ t.mem = s.mem ∧ t.ctxs = s.ctxs
          ∧ (∀ u ∈ c.tiles, ∃ y, SMap.find (t.region r).tiles u.tile = some y ∧ y.owner = x ∧ y.offset = u.offset ∧ y.bytes = u.bytes
              ∧ y.st = (if u.state = 2 then TileState.ready else TileState.empty))
          ∧ t.runOf r x = some { v with seq := { v.seq.at v.image v.g none with
              since := SMap.set v.seq.since c.num s.cycle, gens := SMap.del v.seq.gens c.num } }))
  ∧ (∀ r x p n, SMap.find (s.region r).res x = some p → p.phase = .loading n →
    (s.cycle + 1 < n → exec (.configurationLoad r x) s = .next s)
    ∧ (n ≤ s.cycle + 1 → (p.cfg.elems.map ElemRec.elem).Nodup → (x = 4 → s.pkg.port.sysloads = []) →
      ∃ t, exec (.configurationLoad r x) s = .next t ∧ t.mem = s.mem ∧ t.reqs = s.reqs ∧ SMap.find (t.region r).res x = some { p with phase := .running }
        ∧ (∀ e ∈ p.cfg.elems, let k := t.ctx (mkCid r e.elem x)
            k.slots = e.slots ∧ k.rules = e.rules ∧ k.ch = {} ∧ k.slotSt = [] ∧ k.pend = [] ∧ k.ports = [] ∧ k.chain = {}
            ∧ k.regs = { p := e.preds, mask := e.mask, kr := BitVec.ofNat 64 (p.step * 2 ^ 48) } ∧ k.ctl = { released := true })
        ∧ ∀ c, (∀ e ∈ p.cfg.elems, c ≠ mkCid r e.elem x) → t.ctx c = s.ctx c)
    ∧ (n ≤ s.cycle + 1 → x = 4 → ∀ fr, s.pkg.port.sysloads = [(fr, [r])] → s.heldResp fr.seq = none → ∃ t, exec (.configurationLoad r x) s = .next t
        ∧ t.pkg.port.sysloads = [] ∧ t.pkg.port.sent = s.pkg.port.sent ++ [{ port := fr.port, cmd := 7, seq := fr.seq, time := s.now, status := 0, payload := [] }]))
  ∧ ∀ r x p, SMap.find (s.region r).res x = some p → x < 8 →
    let stays (q : ResPhase) : Prop := ∃ t, exec (.stepDrain r x) s = .next t
      ∧ t = s.updRegion r (fun g => { g with res := SMap.set g.res x { p with phase := q } })
    let ready : Prop := s.settled r x p = true ∧ p.stAck = 0
    let there (e : Nat) : State := s.strandAt r x e
    let passes (e : Nat) : Prop := let c := mkCid r e x
      (there e).cmdsFor r (fun k => k == c) = false ∧ ((there e).ctx c).gathers = false ∧ (there e).settledAt c = true
    (p.phase = .running → s.cfgFinished r x p = false → exec (.stepDrain r x) s = .next s)
    ∧ (p.phase = .running → s.cfgFinished r x p = true → ¬ready → stays .finished)
    ∧ ((p.phase = .running ∧ s.cfgFinished r x p = true ∨ p.phase = .finished) → ready → stays (.draining 0))
    ∧ (∀ e, e < 96 → r < 256 → let c := mkCid r e x
        let n := s.tokensAt c
        ((there e).ctx c).ch.inb = (if n = 0 then (s.ctx c).ch.inb else []) ∧ ((there e).ctx c).ch.outr = (if n = 0 then (s.ctx c).ch.outr else [])
        ∧ (there e).flight = (if n = 0 then s.flight else s.flight.filter fun f => f.dst != c) ∧ (∀ d, d ≠ c → (there e).ctx d = s.ctx d)
        ∧ (there e).mem = s.mem ∧ (there e).reqs = s.reqs
        ∧ (x < 4 → n ≠ 0 → (SMap.get ((there e).region r).sinks x {}).stranded = min ((SMap.get (s.region r).sinks x {}).stranded + n) (2 ^ 32 - 1)))
    ∧ (∀ e, p.phase = .draining e → ¬ passes e → exec (.stepDrain r x) s = .next (there e))
    ∧ (∀ e, p.phase = .draining e → passes e → e < 95 →
        exec (.stepDrain r x) s = .next ((there e).updRegion r fun g => { g with res := SMap.set g.res x { p with phase := .draining (e + 1) } }))
    ∧ ∀ e, p.phase = .draining e → passes e → e = 95 → (there e).cmdsOf r x = false →
      ∃ t, exec (.stepDrain r x) s = .next t ∧ t.mem = s.mem ∧ t.reqs = s.reqs ∧ SMap.find (t.region r).res x = none
        ∧ (∀ c, t.ctx c = if regionOf c = r ∧ ctxOf c = x then { regs := { fstat := (s.ctx c).regs.fstat } } else s.ctx c)
        ∧ (∀ v, s.runOf r x = some v →
            t.runOf r x = some { v with seq := { v.seq.at v.image v.g (v.image.after v.g p) with
              since := SMap.set v.seq.since p.cfg.num s.cycle, gens := SMap.set v.seq.gens p.cfg.num (p.gens.map fun g => (g.1, g.2.idle)) } })

/-- R28, R73, R387, R390, R412, R413, R444: a launch that is over in every package of its list ends with its record, which counts what the sinks of
all of them counted, and frees what it held; at another position its package reports instead, once. That any other code a package reports makes
the launch ERROR, but for KILLED, is log entry 13. A record's store that finds an uncorrectable error waits for the kill (log entry 20). An evicted configuration's sources emit DRAIN, its state is saved when it has quiesced, its
context is empty, and its launch waits for a grant; a restore gives it the saved state in its new place, with its starvation count at 0 (R82), once
nothing keeps its vaults from it. -/
def Obligations.CompletionAndEviction : Prop := ∀ s : State,
  (∀ lid l, s.launch lid = some l → s.partDone lid l = true →
    let m := s.sinkSums l
    let flags (ovl child : Bool) (poi str : Nat) : Nat := (if ovl then 1 else 0) + (if 0 < poi then 2 else 0) + (if 0 < str then 4 else 0) + (if child then 8 else 0)
    let code (killed head : Bool) (poi str : Nat) : Nat := if killed then 0x21 else if l.code ≠ 0 then l.code
      else if 0 < poi ∨ 0 < str ∨ head = true then 0x20 else 0
    let held : Prop := s.recordReach l.asid l.pkt.compVa = .hold
    let sound : Prop := s.recordErr l.asid l.pkt.compVa = none
    let all : Prop := l.pkgs.length ≤ l.reports.length + 1
    let poi := l.reports.foldl (fun n r => n + r.2.2.2.1) m.1
    let str := l.reports.foldl (fun n r => n + r.2.2.2.2) m.2
    let told (k : Nat) : Bool := l.reports.any fun r => r.2.2.1 / 2 ^ k % 2 == 1
    (s.podIndex l = 0 → ¬all ∨ held → exec (.launchCompletion lid) s = .next s)
    ∧ (∀ e, s.podIndex l = 0 → all → ¬held → s.recordErr l.asid l.pkt.compVa = some e → exec (.launchCompletion lid) s = .next (s.findErr lid none 0 e 0))
    ∧ (s.podIndex l = 0 → all → ¬held → sound → l.refusal ≠ [] → exec (.launchCompletion lid) s = .next (s.endLaunch lid l l.refusal true))
    ∧ (s.podIndex l = 0 → all → ¬held → sound → l.refusal = [] → exec (.launchCompletion lid) s = .next (s.endLaunch lid l
        (completionBytes (code (l.killed.isSome || l.reports.any fun r => r.2.1 == 0x21)
            (l.headErr || l.reports.any fun r => r.2.1 != 0 && r.2.1 != 0x21) poi str)
          (flags (l.randOvl || told 0) (l.childErr || told 3) poi str) lid poi str l.accTime s.now) false))
    ∧ (∀ b f, (s.endLaunch lid l b f).launch lid = none)
    ∧ (s.podIndex l ≠ 0 → l.reported = true → exec (.completionReport lid) s = .next s)
    ∧ (s.podIndex l ≠ 0 → l.reported = false → ∃ t, exec (.completionReport lid) s = .next t ∧ t.launch lid = some { l with reported := true }
        ∧ t.mem = s.mem ∧ t.ctxs = s.ctxs ∧ t.regions = s.regions
        ∧ (l.refusal = [] → t.pkg.port.pending = s.pkg.port.pending)
        ∧ (l.refusal ≠ [] → ∃ pre post, s.pkg.port.pending = pre ++ post ∧ t.pkg.port.pending = pre ++ l.refusal :: post)
        ∧ t.pkg.fabric = (s.forward (l.pkgs.getD 0 0) (.report lid s.pkg.pkgId (code l.killed.isSome l.headErr m.1 m.2)
            (flags l.randOvl l.childErr m.1 m.2) m.1 m.2)).pkg.fabric))
  ∧ (∀ r x p, SMap.find (s.region r).res x = some p → (p.phase = .evicting ∨ p.phase = .running ∧ p.lid ∈ s.victims ∧ s.maySwap r = true) →
      ∃ t, exec (.eviction r x) s = .next t ∧ t.mem = s.mem ∧ t.reqs = s.reqs ∧ SMap.find (t.region r).res x = some { p with phase := .evicting }
        ∧ ∀ e j o, p.cfg.elems = [e] → (s.ctx (mkCid r e.elem x)).undrained e = [(j, o)] → ((s.ctx (mkCid r e.elem x)).drainPorts).accepts o = true →
            let k := s.ctx (mkCid r e.elem x)
            let t' := t.ctx (mkCid r e.elem x)
            t'.outReg o = some (s.stamp (mkCid r e.elem x) { kind := kDRAIN, tag := k.otag o }) ∧ SMap.get t'.drained j false = true)
  ∧ (∀ r x p l, SMap.find (s.region r).res x = some p → p.phase = .evicting → s.quiesced r x p = true → s.launch p.lid = some l →
      (∀ y ∈ (s.region r).tiles, y.2.owner = x → s.vaultOpen r y.2.offset y.2.bytes = true) →
      ∃ t m v, exec (.evictionSave r x) s = .next t ∧ t.mem = s.mem ∧ SMap.find (t.region r).res x = none
        ∧ (∀ c, t.ctx c = if regionOf c = r ∧ ctxOf c = x then { regs := { fstat := (s.ctx c).regs.fstat } } else s.ctx c)
        ∧ t.launch p.lid = some m ∧ m.saved = l.saved ++ [v] ∧ v.g = p.g ∧ v.region = r ∧ v.res = { p with phase := .running }
        ∧ v.ctxs = p.cfg.elems.map (fun e => (e.elem, s.ctx (mkCid r e.elem x))) ∧ v.sink = SMap.get (s.region r).sinks x {}
        ∧ v.tiles = (s.region r).tiles.filter (fun y => y.2.owner == x) ∧ v.nodes = (s.region r).nodes.filter (fun n => n.2.owner == some x)
        ∧ (t.residentsOf p.lid = [] → m.st = .accepted ∧ m.evicted = true) ∧ (t.residentsOf p.lid ≠ [] → m.st = l.st ∧ m.evicted = l.evicted))
  ∧ ∀ lid l v q, s.launch lid = some l → l.st = .loaded → l.evicted = true → l.saved = [v] → SMap.find l.seqs v.g = some q →
      (v.ctxs.map Prod.fst).Nodup →
      (s.maySwap q.region = false ∨ (∃ b ∈ v.bytes, s.vaultOpen q.region b.1 b.2.length = false) → exec (.restore lid) s = .next s)
      ∧ (∀ (k : Ctx) n, (k.replace n).regs = k.regs ∧ (k.replace n).ch = k.ch ∧ (k.replace n).slotSt = k.slotSt ∧ (k.replace n).chain = k.chain
          ∧ (k.replace n).slots = k.slots ∧ (k.replace n).rules = k.rules ∧ (k.replace n).ctl = { k.ctl with starve := 0 }) ∧
      (s.maySwap q.region = true → (∀ b ∈ v.bytes, s.vaultOpen q.region b.1 b.2.length = true) →
      ∃ t p, exec (.restore lid) s = .next t ∧ SMap.find (t.region q.region).res q.x = some p ∧ p = { v.res with gens := p.gens }
        ∧ SMap.get (t.region q.region).sinks q.x {} = v.sink
        ∧ (v.res.gens = [] → v.bytes = [] → p.gens = [] ∧ t.launch lid = some { l with saved := [], evicted := false }
            ∧ (∀ k ∈ v.ctxs, t.ctx (mkCid q.region k.1 q.x) = k.2.replace (s.source (mkCid q.region k.1 q.x)).toNat)
            ∧ ∀ c, (∀ k ∈ v.ctxs, c ≠ mkCid q.region k.1 q.x) → t.ctx c = if regionOf c = q.region ∧ ctxOf c = q.x then {} else s.ctx c))

/-! ### Kills and errors -/

/-- R405, R414 to R418, R426, R428, R432: a kill raises its record, numbered and time-stamped, in a region and in the error log, ends its launch,
empties the contexts its residents hold and no other, but for FSTAT (R147), and goes to every other package of the launch that can be reached; CFGECC
freezes its region, whose record, or whose wire records, are written again 222 cycles on, or 177 and 3 for each block of wires, or whose launch is
killed when the copy cannot be read or does not match; STATEECC kills the owner's launch; in context S, which has no launch, each raises its record and
kills nothing (log entry 13). A quote is written and its token sent, or the request stops on an absent page, reported once (log entry 21), or waits
for the kill where its reads find an error. -/
def Obligations.KillsAndErrors : Prop := ∀ s : State,
  let family (lid c : Nat) : Prop := ∃ k ∈ s.familyOf lid, ∃ e ∈ s.residentsOf k, e.1 = regionOf c ∧ e.2.1 = ctxOf c
  let ended (lid code : Nat) (t : State) : Prop :=
    (∀ l, s.launch lid = some l → l.st ≠ .ending → ∃ m, t.launch lid = some m ∧ m.st = .ending ∧ m.killed = some code ∧ m.pkt = l.pkt)
    ∧ (∀ l, s.launch lid = some l → l.st ≠ .ending → ∀ r x p, SMap.find (s.region r).res x = some p → p.lid = lid →
        SMap.find (t.region r).res x = none ∧ ∀ c, regionOf c = r → ctxOf c = x → t.ctx c = { regs := { fstat := (s.ctx c).regs.fstat } })
    ∧ (s.pkg.sched.deliveries = [] → t.mem = s.mem ∧ ∀ c, ¬ family lid c → t.ctx c = s.ctx c)
  let sentTo (lid code : Nat) (t : State) : Prop := s.pkg.sched.deliveries = [] → ∀ l, s.launch lid = some l → t.pkg.fabric.sent = s.pkg.fabric.sent ++
    (l.pkgs.filter (· ≠ s.pkg.pkgId)).filterMap fun q => (s.pkg.fabric.portFor q).map fun k => (k, q, .kill lid code)
  let raised (r code kind : Nat) (t : State) (k : Rec) : Prop := (t.region r).trapIn = (s.region r).trapIn ++ [⟨s.cycle, k⟩] ∧ k.code = code ∧ k.kind = kind
    ∧ k.seq = (s.region r).recSeq % 65536 ∧ k.time = s.now ∧ t.pkg.errLog = s.pkg.errLog.push k
  let killed (i : Instr) (c code : Nat) : Prop := ∃ t k, exec i s = .next t ∧ (s.pkg.sched.deliveries = [] → raised (regionOf c) code 5 t k) ∧ k.lid = s.lidOf c ∧ k.source = (s.source c).toNat
    ∧ ended (s.lidOf c) code t ∧ sentTo (s.lidOf c) code t
  (∀ lid code, ∃ t, exec (.killPropagation lid code) s = .next t ∧ ended lid code t ∧ (s.pkg.sched.deliveries = [] → t.pkg.fabric = s.pkg.fabric))
  ∧ (∀ c, ((s.res c).isSome = true → killed (.stateecc c) c 0x84) ∧ (s.res c = none → exec (.stateecc c) s = .next s))
  ∧ (∀ c, (s.res c).isSome = true → (s.region (regionOf c)).freeze = none → (elemOf c < 96 ∨ elemOf c = 127) →
      exec (.cfgecc c) s = .next (s.updRegion (regionOf c) fun g => { g with freeze := some (c, s.cycle) }))
  ∧ (∀ c t0, (s.region (regionOf c)).freeze = some (c, t0) →
    (∀ p e, s.res c = some p → p.cfg.elems.find? (fun e => e.elem = elemOf c) = some e → elemOf c < 96 → s.copyLost c = false →
      (s.cycle < t0 + 222 → exec (.cfgeccThaw (regionOf c) true) s = .next s)
      ∧ (t0 + 222 ≤ s.cycle → ∃ t k, exec (.cfgeccThaw (regionOf c) true) s = .next t ∧ t.ctx c = { s.ctx c with slots := e.slots, rules := e.rules }
          ∧ (t.region (regionOf c)).freeze = none ∧ raised (regionOf c) 0x83 4 t k ∧ t.mem = s.mem ∧ t.pkg.sched = s.pkg.sched ∧ ∀ d, d ≠ c → t.ctx d = s.ctx d))
    ∧ (elemOf c < 96 → s.copyLost c = true → t0 + 222 ≤ s.cycle →
        exec (.cfgeccThaw (regionOf c) true) s = .next (((s.reloadRecord c).thaw (regionOf c)).killCtx c 0x83 0 none 0))
    ∧ (elemOf c = 127 → s.copyLost c = false →
      let due := t0 + 177 + 3 * ((s.region (regionOf c)).res.map fun p => (8 * p.2.cfg.wires.length + 63) / 64).foldl (· + ·) 0
      (s.cycle < due → exec (.cfgeccThaw (regionOf c) true) s = .next s)
      ∧ (due ≤ s.cycle → ∃ t k, exec (.cfgeccThaw (regionOf c) true) s = .next t ∧ t.ctxs = s.ctxs ∧ (t.region (regionOf c)).freeze = none
          ∧ raised (regionOf c) 0x83 4 t k ∧ k.source = (s.source (mkCid (regionOf c) 0 (ctxOf c))).toNat ∧ t.mem = s.mem ∧ t.pkg.sched = s.pkg.sched))
    ∧ (t0 < s.cycle → killed (.cfgeccThaw (regionOf c) false) c 0x83 ∧ ∀ t, exec (.cfgeccThaw (regionOf c) false) s = .next t →
        s.pkg.sched.deliveries = [] → (t.region (regionOf c)).freeze = none))
  ∧ (s.pkg.trust.attQ = [] → exec .attestQuoteDone s = .next s)
  ∧ ∀ q rest, s.pkg.trust.attQ = q :: rest →
    (s.cycle < q.due → exec .attestQuoteDone s = .next s)
    ∧ (q.due ≤ s.cycle → ∀ l m, s.reach q.asid false false q.va 64 = .ok l → s.reach q.asid false true (q.va + 64) 256 = .ok m →
      (∀ e, (s.errIn false l = some e ∨ s.errIn false l = none ∧ s.errIn true m = some e) →
        exec .attestQuoteDone s = .next (s.findFor q.cid q.fcount e q.key))
      ∧ (s.errIn false l = none → s.errIn true m = none → s.piecesCode q.cid false l = none → s.piecesCode q.cid true m = none →
        let b := s.readPieces l
        let u := (({ s with pkg := { s.pkg with trust := { s.pkg.trust with attQ := rest } } } : State).quote (b.take 32) (leAt b 32 4))
        let w := ((u.2.touch q.asid false q.va 64).touch q.asid true (q.va + 64) 256).writePieces m u.1
        u.2.pkg.trust.quotes = s.pkg.trust.quotes + 1 ∧ u.2.pkg.trust.attQ = rest
        ∧ (q.out.isSome = true → exec .attestQuoteDone s = .next (w.deliverWord q.cid q.pend q.out 1 true 1))
        ∧ (q.out = none → exec .attestQuoteDone s = .next (w.deliverWord q.cid q.pend none 1 false 256)))
      ∧ (∀ k, s.errIn false l = none → s.errIn true m = none → s.piecesCode q.cid false l = some k → reports k.1 = true → ∃ t rec, exec .attestQuoteDone s = .next t ∧ t.pkg.trust.attQ = rest
          ∧ t.pkg.trust.quotes = s.pkg.trust.quotes ∧ t.mem = s.mem ∧ raised (regionOf q.cid) k.1 3 t rec ∧ rec.fcount = q.fcount))
    ∧ (q.due ≤ s.cycle → ∀ v, s.reach q.asid false false q.va 64 = .np v →
      (q.reported = true → exec .attestQuoteDone s = .next s)
      ∧ (q.reported = false → ∃ t k, exec .attestQuoteDone s = .next t ∧ t.pkg.trust.attQ = { q with reported := true } :: rest ∧ t.ctxs = s.ctxs ∧ t.mem = s.mem
          ∧ (t.region (regionOf q.cid)).trapIn = (s.region (regionOf q.cid)).trapIn ++ [⟨s.cycle, k⟩] ∧ k.code = 0x25 ∧ k.kind = 2))

/-! ### The control port -/

/-- R340 to R342, R384, R414, R423, R434 to R436, R438 to R440, R442 to R445, R448, R449, R451: a command whose response is held gets that response
again and does nothing; one that the bring-up state does not allow gets BADSTATE; else each has its effect and its response, which is sent on the
port it came in on and kept. One that accesses memory a migration has frozen is tried again. A transfer whose MAGIC or CRC is wrong is dropped, one
with another bad field gets BADFRAME, and a good one is its command. The order and widths of payload fields, the payloads of RESUME and KSNEW, what a
reset keeps, the answer to an unknown LID or target, BADARG for fields of SYSLOAD, MEMRD and SETPKG out of their range, REJECTED without a record for
a barred SYSLOAD and OK for an enrolled key are log entry 15; that RESUME takes context S is log entry 21. -/
def Obligations.PortCommands : Prop := ∀ (s : State) (fr : Frame),
  let fresh : Prop := s.heldResp fr.seq = none ∧ ∀ e ∈ s.pkg.port.sysloads, e.1.seq ≠ fr.seq
  let at_ (cmd : Nat) : Prop := fresh ∧ cmdAllowed s.pkg.bring.step cmd = true
  let gives (i : Instr) (u : State) (cmd status : Nat) (b : List Byte) : Prop := exec i s = .next (u.respond fr cmd status b)
  let trust (f : Trust → Trust) : State := { s with pkg := { s.pkg with trust := f s.pkg.trust } }
  let t0 := s.pkg.trust
  (∀ (u : State) (cmd status : Nat) (b : List Byte),
    let f : FrameOut := { port := fr.port, cmd := cmd, seq := fr.seq, time := u.now, status := status, payload := b }
    ∃ l, u.respond fr cmd status b = { u with pkg := { u.pkg with port := { u.pkg.port with sent := u.pkg.port.sent ++ [f], resp := l } } }
      ∧ (u.pkg.port.resp.length < 65536 → l = u.pkg.port.resp ++ [f]) ∧ (u.pkg.port.resp.length = 65536 → l = u.pkg.port.resp.drop 1 ++ [f]))
  ∧ (∀ n, 1 ≤ n → (∀ c ∈ [1, 2, 3], cmdAllowed n c = decide (2 ≤ n)) ∧ cmdAllowed n 0x36 = decide (3 ≤ n) ∧ cmdAllowed n 4 = decide (n = 6)
      ∧ (∀ c ∈ [7, 0x10], cmdAllowed n c = decide (8 ≤ n))
      ∧ ∀ c ∈ [5, 6, 0x11, 0x12, 0x20, 0x21, 0x30, 0x31, 0x32, 0x33, 0x34, 0x35, 0x37], cmdAllowed n c = decide (7 ≤ n))
  ∧ (∀ (img : List Byte) (l : List Nat) (id n j : Nat), ∀ p ∈ [(1, Instr.ident fr), (2, .fwload fr img), (3, .reset fr), (4, .setpkg fr id), (5, .route fr l), (6, .tmaster fr id),
        (0x10, .submit fr l id img), (0x11, .resume fr id n), (0x12, .kill fr id), (0x30, .keyadd fr img), (0x31, .keydel fr img), (0x32, .ksnew fr id), (0x33, .ksdel fr id),
        (0x34, .quote fr img id), (0x35, .manif fr id), (0x36, .rmap fr id), (0x37, .repair fr id true)]
          ++ (if s.rangeFrozen id n = false then [(7, .sysload fr id n j j j), (0x20, .memrd fr id n)] else [])
          ++ (if s.rangeFrozen id img.length = false then [(0x21, .memwr fr id img)] else []),
      (∀ f, s.heldResp fr.seq = some f → exec p.2 s = .next (s.sendFrame { f with port := fr.port }))
      ∧ (fresh → cmdAllowed s.pkg.bring.step p.1 = false → gives p.2 s p.1 2 []))
  ∧ (∀ pa len, s.rangeFrozen pa len = true → len ≠ 0 →
      (len ≤ 2 ^ 20 → exec (.memrd fr pa len) s = .next (s.again (.read fr pa len)))
      ∧ (∀ b : List Byte, b.length = len → exec (.memwr fr pa b) s = .next (s.again (.write fr pa b)))
      ∧ ∀ asid fl regs, len ≤ 2 ^ 32 → exec (.sysload fr pa len asid fl regs) s = .next (s.again (.sysload fr pa len asid fl regs)))
  ∧ (∀ pa len b, (s.pkg.retries = [.read fr pa len] → exec (.memrd fr pa len) { s with pkg := { s.pkg with retries := [] } } = .next s.retryAll)
      ∧ (s.pkg.retries = [.write fr pa b] → exec (.memwr fr pa b) { s with pkg := { s.pkg with retries := [] } } = .next s.retryAll))
  ∧ (at_ 1 → gives (.ident fr) s 1 0 (devId ++ [Config.form] ++ bytesLE 2 s.pkg.pkgId ++ bytesLE 1 (stepName s.pkg.bring.step) ++ bytesLE 1 s.pkg.time.disc.code))
  ∧ (∀ img, at_ 2 →
    let p := Config.firmwareParts img
    let valid := Config.sm2Verify Config.krabetricKey imageIdent (sm3 p.1) p.2.1 p.2.2
    (2 ^ 20 < img.length → gives (.fwload fr img) s 2 1 [])
    ∧ (img.length ≤ 2 ^ 20 → (valid = true → gives (.fwload fr img) (trust fun t => { t with fwNext := img }) 2 0 [])
      ∧ (valid = false → gives (.fwload fr img) s 2 4 [])))
  ∧ (at_ 3 → ∃ t, exec (.reset fr) s = .next t ∧ t.ctxs = [] ∧ t.elems = [] ∧ t.flight = [] ∧ t.fans = [] ∧ t.reqs = [] ∧ t.mem = [] ∧ t.agenda = []
      ∧ ((s.regions.map Prod.fst).Nodup → ∀ r, t.region r = { withdrawn := (s.region r).withdrawn }) ∧ t.pkg.bring = { step := 2 } ∧ t.pkg.time = {} ∧ t.pkg.xlat = {} ∧ t.pkg.sched = {} ∧ t.pkg.pkgId = 0 ∧ t.pkg.errLog = {} ∧ t.pkg.fabric.route = []
      ∧ t.pkg.trust = { fwNext := t0.fwNext, resets := t0.resets + 1, draws := t0.draws, tests := t0.tests }
      ∧ t.pkg.port = { linkUp := s.pkg.port.linkUp, resp := (s.respond fr 3 0 []).pkg.port.resp, sent := (s.respond fr 3 0 []).pkg.port.sent })
  ∧ (∀ id, at_ 4 → gives (.setpkg fr id) (if id < 2048 then { s with pkg := { s.pkg with pkgId := id, bring := { step := 7 } } } else s) 4 (if id < 2048 then 0 else 3) [])
  ∧ (∀ l, at_ 5 → l.length = 2048 → (∀ e ∈ l, e < 2 ^ 48) →
      (Config.fabricFar l = true → gives (.route fr l) s 5 3 [])
      ∧ (Config.fabricFar l = false → gives (.route fr l) { s with pkg := { s.pkg with fabric := { s.pkg.fabric with route := l } } } 5 0 []))
  ∧ (∀ l, at_ 5 → (l.length ≠ 2048 ∨ ∃ e ∈ l, 2 ^ 48 ≤ e) → gives (.route fr l) s 5 1 [])
  ∧ (∀ id, at_ 6 → gives (.tmaster fr id) (if id < 2048 then { s with pkg := { s.pkg with time := { s.pkg.time with tmaster := some id } } } else s) 6
      (if id < 2048 then 0 else 3) [])
  ∧ (∀ pa len asid fl regs, at_ 7 → let i : Instr := .sysload fr pa len asid fl regs
    let i_ : Retry := .sysload fr pa len asid fl regs
    let bad : Prop := 2 ≤ fl ∨ 4096 ≤ asid ∨ 2 ^ 32 < len ∨ 2 ^ 256 ≤ regs
    let rs := (List.range 256).filter fun r => regs.testBit r
    let l := s.redirected [(pa, 0, len)]
    let b := s.readPieces l
    let err := imageErr ⟨true, false, rs.length, t0.keys, fun _ => false⟩ b
    s.rangeFrozen pa len = false →
    (bad → gives i s 7 3 []) ∧ (¬ bad → (len ≠ 0 ∧ s.hostBarred pa len = true) → gives i s 7 4 [])
    ∧ (¬ bad → ¬ (len ≠ 0 ∧ s.hostBarred pa len = true) →
      (∀ e, s.errIn false l = some e → exec i s = .next ((s.findErr 0 none 0 e 0).again i_))
      ∧ (∀ k, s.errIn false l = none → s.piecesCode 4 false l = some k → gives i s 7 4 (({ code := 1 } : LoadErr).bytes 0 s.now)))
    ∧ (¬ bad → ¬ (len ≠ 0 ∧ s.hostBarred pa len = true) → s.errIn false l = none → s.piecesCode 4 false l = none →
      (∀ e, err = some e → gives i s 7 4 (e.bytes (BitVec.ofNat 64 (leAt b 8 8)) s.now))
      ∧ (err = none → fl = 0 → (∃ r ∈ rs, SMap.has (s.region r).res 4 = true) → gives i s 7 2 [])
      ∧ (err = none → (fl = 1 ∨ ∀ r ∈ rs, SMap.has (s.region r).res 4 = false) → (∃ r ∈ rs, s.sysPending r = true) →
          exec i s = .next ((rs.foldl State.haltSys s).again i_))
      ∧ (err = none → (fl = 1 ∨ ∀ r ∈ rs, SMap.has (s.region r).res 4 = false) → (∀ r ∈ rs, s.sysPending r = false) →
          (imageOf b).data = [] → ∃ t, exec i s = .next t ∧ ((imageOf b).ports = [] → t.mem = s.mem)
          ∧ (∀ r ∈ rs, SMap.find (t.region r).res 4 = none ∧ (∀ c, regionOf c = r → ctxOf c = 4 → t.ctx c = { regs := { fstat := (s.ctx c).regs.fstat } })
              ∧ ∃ g y, rs[g]? = some r ∧ SMap.find t.pkg.sched.sys r = some y ∧ y.asid = asid ∧ y.g = g ∧ y.image = imageOf b ∧ y.seq.pos = (imageOf b).start g)
          ∧ ∀ c, ¬ (regionOf c ∈ rs ∧ ctxOf c = 4) → t.ctx c = s.ctx c)))
  ∧ (∀ pkgs asid pkt, at_ 0x10 → let i : Instr := .submit fr pkgs asid pkt
    let ok : Prop := pkgs.head? = some s.pkg.pkgId ∧ pkgs.length ≤ 2048 ∧ pkgs.Nodup ∧ (∀ q ∈ pkgs, q < 2048) ∧ pkt.length = 128 ∧ asid < 4096
    let others := pkgs.filter (· ≠ s.pkg.pkgId)
    let full : Prop := 1024 ≤ s.queued true ∨ ∃ q ∈ others, Config.remoteFull q s.free = true
    (¬ ok → gives i s 0x10 3 [])
    ∧ (ok → full → gives i { s with free := s.free + 1 } 0x10 4 [])
    ∧ (ok → ¬ full →
      let d : Delivery := { source := 0, asid := asid, bytes := pkt, pkgs := pkgs, parent := none, host := true }
      let u := s.updSched fun k => { k with deliveries := k.deliveries ++ [d] }
      gives i { others.foldl (fun u q => u.forward q (.packet asid pkt pkgs)) u with free := s.free + 1 } 0x10 0 []))
  ∧ (∀ src act, at_ 0x11 → (s.portTarget src = none → gives (.resume fr src act) s 0x11 3 [])
    ∧ ∀ c, s.portTarget src = some c → (2 < act → gives (.resume fr src act) s 0x11 3 [])
      ∧ (act < 2 → ((s.ctx c).ctl.trap = none → gives (.resume fr src act) s 0x11 0 [1])
        ∧ ((s.ctx c).ctl.trap.isSome = true → gives (.resume fr src act) (s.returnTrap c (act == 1)) 0x11 0 [0]))
      ∧ (act = 2 → gives (.resume fr src act) (if s.lidOf c = 0 then s else s.killCtx c 0x85 0 none 0) 0x11 (if s.lidOf c = 0 then 3 else 0)
          (if s.lidOf c = 0 then [] else [0])))
  ∧ (∀ lid, at_ 0x12 → (s.launch lid = none → gives (.kill fr lid) s 0x12 3 [])
    ∧ ∀ l, s.launch lid = some l → ∃ k : Rec, k.code = 0x85 ∧ k.kind = 5 ∧ k.lid = lid ∧ k.asid = l.asid
        ∧ gives (.kill fr lid) (s.startKill lid 0x85 ((SMap.find l.seqs 0).map RegSeq.region) k) 0x12 0 [])
  ∧ (∀ pa len, at_ 0x20 → s.rangeFrozen pa len = false → (2 ^ 20 < len → gives (.memrd fr pa len) s 0x20 3 [])
    ∧ (len ≤ 2 ^ 20 → len ≠ 0 → s.hostBarred pa len = true → gives (.memrd fr pa len) s 0x20 4 [])
    ∧ (len ≤ 2 ^ 20 → (len = 0 ∨ s.hostBarred pa len = false) →
        gives (.memrd fr pa len) { s.findAll pa len with free := s.free + 1 } 0x20 0 ((rangeFrom pa len).map s.rawByte)))
  ∧ (s.hbmErrs = [] → ∀ pa len, s.findAll pa len = s)
  ∧ (∀ x, s.granLive x = true → s.blockTag (x / 64) = 0 → s.redirect (x, 0) = (x, 0) → s.rawByte x = memGet s.mem x)
  ∧ (∀ pa (b : List Byte), at_ 0x21 → s.rangeFrozen pa b.length = false →
    (2 ^ 20 - 8 < b.length → gives (.memwr fr pa b) s 0x21 1 [])
    ∧ (b.length ≤ 2 ^ 20 - 8 → b ≠ [] → s.hostBarred pa b.length = true → gives (.memwr fr pa b) s 0x21 4 [])
    ∧ (b.length ≤ 2 ^ 20 - 8 → (b = [] ∨ s.hostBarred pa b.length = false) → s.pkg.dead = [] → s.pkg.marked = [] → s.pkg.encTag = [] → s.hbmErrs = [] →
      (∀ x, s.redirect (x, 0) = (x, 0)) → ∃ u, gives (.memwr fr pa b) u 0x21 0 []
        ∧ u.ctxs = s.ctxs ∧ u.regions = s.regions ∧ u.reqs = s.reqs ∧ u.pkg = s.pkg
        ∧ ∀ x, memGet u.mem x = if pa ≤ x ∧ x < pa + b.length then b.getD (x - pa) 0 else memGet s.mem x))
  ∧ (∀ key, at_ 0x30 → (t0.keys.contains key = true → gives (.keyadd fr key) s 0x30 0 [])
    ∧ (t0.keys.contains key = false → 16 ≤ t0.keys.length → gives (.keyadd fr key) s 0x30 4 [])
    ∧ (t0.keys.contains key = false → t0.keys.length < 16 → gives (.keyadd fr key) (trust fun t => { t with keys := t0.keys ++ [key] }) 0x30 0 []))
  ∧ (∀ id, at_ 0x31 → ((∀ k ∈ t0.keys, sm3 k ≠ id) → gives (.keydel fr id) s 0x31 4 [])
    ∧ ((∃ k ∈ t0.keys, sm3 k = id) → gives (.keydel fr id) (trust fun t => { t with keys := t0.keys.filter fun k => sm3 k != id }) 0x31 0 []))
  ∧ (∀ asid, at_ 0x32 → (4096 ≤ asid → gives (.ksnew fr asid) s 0x32 3 [])
    ∧ (asid < 4096 → (∀ k, 1 ≤ k → k < 4096 → SMap.has t0.kslots k = true) → gives (.ksnew fr asid) s 0x32 4 [])
    ∧ (asid < 4096 → ∀ k, 1 ≤ k → k < 4096 → SMap.has t0.kslots k = false → (∀ j, 1 ≤ j → j < k → SMap.has t0.kslots j = true) →
        gives (.ksnew fr asid) (trust fun t => { t with kslots := SMap.set t0.kslots k { asid := asid, serial := t0.draws + 1, refs := 0 }, draws := t0.draws + 1 })
          0x32 0 (bytesLE 2 k)))
  ∧ (∀ n, at_ 0x33 → (SMap.find t0.kslots n = none → gives (.ksdel fr n) s 0x33 4 [])
    ∧ ∀ k, SMap.find t0.kslots n = some k → (0 < k.refs ∨ s.slotAwaited n k.asid = true → gives (.ksdel fr n) s 0x33 4 [])
      ∧ (k.refs = 0 → s.slotAwaited n k.asid = false → gives (.ksdel fr n) (trust fun t => { t with kslots := SMap.del t0.kslots n }) 0x33 0 []))
  ∧ (∀ nonce lid, at_ 0x34 → gives (.quote fr nonce lid) (trust fun t => { t with quotes := t0.quotes + 1 }) 0x34 0 (s.quote nonce lid).1)
  ∧ (∀ lid, at_ 0x35 → gives (.manif fr lid) s 0x35 0 (s.manifest lid))
  ∧ (∀ n, at_ 0x36 → gives (.rmap fr n) s 0x36 (if 3 ≤ n ∧ n ≤ 7 then 0 else 3) (if 3 ≤ n ∧ n ≤ 7 then Config.repairMap n t0.tests else []))
  ∧ (∀ f e, at_ 0x37 → gives (.repair fr f e) (if f < 16 then trust (fun t => { t with windows := SMap.set t0.windows f (e, false) }) else s) 0x37 (if f < 16 then 0 else 3) [])
  ∧ (∀ b : List Byte,
    let n := leAt b 12 4
    let cmd := leAt b 4 2
    let f : Frame := { port := fr.port, seq := BitVec.ofNat 32 (leAt b 8 4) }
    let body := sliceB b 32 n
    let whole : Prop := 32 + n ≤ b.length ∧ leAt b 0 4 = 0x4E4F4C44 ∧ crc32c (b.take 28 ++ [0, 0, 0, 0] ++ body) = BitVec.ofNat 32 (leAt b 28 4)
    let fair : Prop := n ≤ 2 ^ 20 ∧ (∀ j, j ∈ [6, 7] ∨ 16 ≤ j ∧ j < 28 ∨ 32 + n ≤ j → ∀ x, b[j]? = some x → x = 0) ∧ b.length = 32 + (n + 31) / 32 * 32
    let runs (i : Instr) : Prop := exec (.badframe fr.port b) s = exec i s
    (¬ whole → exec (.badframe fr.port b) s = .next s)
    ∧ (whole → ¬ fair → s.heldResp f.seq = none → exec (.badframe fr.port b) s = .next (s.respond f cmd 1 []))
    ∧ (whole → fair → (cmd = 1 → n = 0 → runs (.ident f)) ∧ (cmd = 2 → runs (.fwload f body)) ∧ (cmd = 3 → n = 0 → runs (.reset f))
      ∧ (cmd = 4 → n = 2 → runs (.setpkg f (leAt body 0 2)))
      ∧ (cmd = 5 → n = 12288 → runs (.route f ((List.range 2048).map fun i => leAt body (6 * i) 6))) ∧ (cmd = 6 → n = 2 → runs (.tmaster f (leAt body 0 2)))
      ∧ (cmd = 7 → n = 51 → runs (.sysload f (leAt body 0 8) (leAt body 8 8) (leAt body 16 2) (leAt body 18 1) (leAt body 19 32)))
      ∧ (∀ pk : List Nat, cmd = 0x10 → pk.length = leAt body 0 2 → n = 132 + 2 * pk.length → (∀ i q, pk[i]? = some q → leAt body (2 + 2 * i) 2 = q) →
          runs (.submit f pk (leAt body (130 + 2 * pk.length) 2) (sliceB body (2 + 2 * pk.length) 128)))
      ∧ (cmd = 0x11 → n = 5 → runs (.resume f (leAt body 0 4) (leAt body 4 1))) ∧ (cmd = 0x12 → n = 4 → runs (.kill f (leAt body 0 4)))
      ∧ (cmd = 0x20 → n = 16 → runs (.memrd f (leAt body 0 8) (leAt body 8 8))) ∧ (cmd = 0x21 → 8 ≤ n → runs (.memwr f (leAt body 0 8) (body.drop 8)))
      ∧ (cmd = 0x30 → n = 64 → runs (.keyadd f body)) ∧ (cmd = 0x31 → n = 32 → runs (.keydel f body)) ∧ (cmd = 0x32 → n = 2 → runs (.ksnew f (leAt body 0 2)))
      ∧ (cmd = 0x33 → n = 2 → runs (.ksdel f (leAt body 0 2))) ∧ (cmd = 0x34 → n = 36 → runs (.quote f (body.take 32) (leAt body 32 4)))
      ∧ (cmd = 0x35 → n = 4 → runs (.manif f (leAt body 0 4))) ∧ (cmd = 0x36 → n = 1 → runs (.rmap f (leAt body 0 1)))
      ∧ (cmd = 0x37 → n = 2 → leAt body 1 1 < 2 → runs (.repair f (leAt body 0 1) (leAt body 1 1 == 1)))
      ∧ (cmd ∉ [1, 2, 3, 4, 5, 6, 7, 0x10, 0x11, 0x12, 0x20, 0x21, 0x30, 0x31, 0x32, 0x33, 0x34, 0x35, 0x36, 0x37] → s.heldResp f.seq = none →
          exec (.badframe fr.port b) s = .next (s.respond f cmd 1 []))))
  ∧ (∀ up, exec (.controlPortLinkChange up) s = .next { s with pkg := { s.pkg with port := { s.pkg.port with linkUp := up } } })
  ∧ ∀ f, SMap.has t0.windows f = true → (s.frondHeld f = true → exec (.repairWindowStart f) s = .next s)
    ∧ (s.frondHeld f = false → ∃ t, exec (.repairWindowStart f) s = .next t ∧ t.mem = s.mem ∧ t.ctxs = s.ctxs
        ∧ t.pkg.trust = { t0 with tests := t0.tests + 1, windows := SMap.del t0.windows f }
        ∧ (∀ r, (t.region r).withdrawn = if frondOf r = f then !Config.regionSound r (t0.tests + 1) else (s.region r).withdrawn))

/-! ### Bring-up, time and the fabric -/

/-- R374, R435, R446 to R451: each bring-up step leads to the next, or the device stays where a step failed; firmware that does not verify stops
it; in step 7 it enters RUN once the fabric has trained. A Sync is taken in from step 7 on, except by the master, and the counter in LOCKED slews
against it; offsets within 8 ns in 64 consecutive intervals lock, the first time with a step of the counter, and 16 intervals without one unlock; a boundary
clock and the master send one in each interval. A flit for another package leaves by the lowest port of its route that has trained; one for this
package takes effect, unless a migration has frozen what it accesses, or it brings a packet before step 8. That the step is by the offset last
measured, and when a run of intervals grows, are log entry 15; what messages there are and what they do is log entry 1; that an arrival's instance
leaves 5,250 cycles on is log entry 8. -/
def Obligations.BringUpAndTime : Prop := ∀ s : State,
  let p := s.pkg
  let bring (b : Bring) : State := { s with pkg := { p with bring := b } }
  let time (t : Time) : State := { s with pkg := { p with time := t } }
  let off : Prop := p.bring.failed = true
  let runs (i : Instr) (n : Nat) : Prop := p.bring.step ≠ n ∨ off → exec i s = .next s
  (runs .powerOn 1 ∧ (p.bring = { step := 1 } → exec .powerOn s = .next (bring { step := 2 })))
  ∧ (runs .firmwareVerify 2 ∧ (p.bring = { step := 2 } →
      let img := if p.trust.fwNext = [] then Config.firmware else p.trust.fwNext
      let parts := Config.firmwareParts img
      let ok := Config.sm2Verify Config.krabetricKey imageIdent (sm3 parts.1) parts.2.1 parts.2.2
      exec .firmwareVerify s = .next { s with pkg := { p with
        trust := { p.trust with fwOk := ok, fwRun := if ok then img else [] }, bring := if ok then { step := 3 } else { step := 2, failed := true } } }))
  ∧ (∀ (ok : Bool) (e : Nat × Instr), e ∈ [(3, .hbmTraining ok), (4, .vaultRowTest ok), (5, .ucieTraining ok)] →
      runs e.2 e.1 ∧ (p.bring = { step := e.1 } → exec e.2 s = .next { s with pkg := { p with
        trust := { p.trust with tests := p.trust.tests + 1 }, bring := if ok then { step := e.1 + 1 } else { step := e.1, failed := true } } }))
  ∧ (∀ ports, (p.bring.step ≠ 7 ∨ p.bring.trained = true → exec (.fabricTraining ports) s = .next s)
      ∧ (p.bring = { step := 7 } → exec (.fabricTraining ports) s = .next { s with pkg := { p with bring := { step := 7, trained := true }, fabric := { p.fabric with up := ports } } }))
  ∧ (p.bring.step = 7 → p.bring.trained = true → exec .regionRelease s = .next (bring { step := 8 }))
  ∧ ((p.bring.step ≠ 7 ∨ p.bring.trained = false) → exec .regionRelease s = .next s)
  ∧ (∀ x : Int,
    ((p.bring.step < 7 ∨ p.time.tmaster = none ∨ p.time.tmaster = some p.pkgId) → exec (.ptpSync x) s = .next s)
    ∧ (7 ≤ p.bring.step → ∀ m, p.time.tmaster = some m → m ≠ p.pkgId →
      let run := if 2 * syncNs ≤ p.time.sinceSync then 0 else p.time.inBound
      let near : Prop := -8 ≤ x ∧ x ≤ 8
      let grows : Prop := near ∧ (run = 0 ∨ syncNs ≤ 2 * p.time.sinceIn)
      exec (.ptpSync x) s = .next (time { p.time with
        disc := if p.time.disc = .free then .acquiring else p.time.disc, off := x, sinceSync := 0,
        slew := if p.time.disc = .locked then -x else p.time.slew,
        inBound := if grows then run + 1 else if near then run else 0, sinceIn := if grows then 0 else p.time.sinceIn })))
  ∧ (((p.time.disc = .acquiring ∨ p.time.disc = .holdover) → 64 ≤ p.time.inBound →
        (p.time.locks = 0 → exec .lockedEntry s = .next (time { p.time with
          disc := .locked, locks := 1, tsc := p.time.tsc - BitVec.ofInt 64 p.time.off, slew := 0 }))
        ∧ (p.time.locks ≠ 0 → exec .lockedEntry s = .next (time { p.time with disc := .locked, locks := p.time.locks + 1, slew := -p.time.off })))
    ∧ ((p.time.disc = .free ∨ p.time.disc = .locked ∨ p.time.inBound < 64) → exec .lockedEntry s = .next s))
  ∧ ((p.time.disc = .locked → p.time.tmaster ≠ some p.pkgId → 16 * syncNs ≤ p.time.sinceSync →
        exec .holdoverEntry s = .next (time { p.time with disc := .holdover, inBound := 0 }))
    ∧ ((p.time.disc ≠ .locked ∨ p.time.tmaster = some p.pkgId ∨ p.time.sinceSync < 16 * syncNs) → exec .holdoverEntry s = .next s))
  ∧ (let due : Prop := 7 ≤ p.bring.step ∧ p.time.tmaster.isSome = true ∧ syncNs ≤ p.time.sinceTx
    let out := p.fabric.sent ++ p.fabric.trained.map fun q => (q, 2048, .sync 0)
    (¬ due → exec .syncTransmit s = .next s)
    ∧ (due → ∃ t, exec .syncTransmit s = .next t ∧ t.pkg.fabric = { p.fabric with sent := out } ∧ t.pkg.time.sinceTx = 0 ∧ t.ctxs = s.ctxs ∧ t.mem = s.mem
        ∧ (p.time.tmaster ≠ some p.pkgId ∨ p.fabric.trained = [] → t.pkg.time = { p.time with sinceTx := 0 })))
  ∧ (∀ on, exec (.coreCurrentPeak on) s = .next { s with pkg := { p with stretch := on } })
  ∧ (∀ dst m, p.bring.step < 7 → exec (.fabricFlit dst m) s = .next s)
  ∧ (7 ≤ p.bring.step → (∀ dst m, dst ≠ p.pkgId →
      (∀ q, p.fabric.portFor dst = some q → p.fabric.up.getLsbD q = true ∧ (p.fabric.route.getD dst 0).testBit q = true
        ∧ (∀ k, k < q → (p.fabric.up.getLsbD k && (p.fabric.route.getD dst 0).testBit k) = false)
        ∧ exec (.fabricFlit dst m) s = .next { s with pkg := { p with fabric := { p.fabric with sent := p.fabric.sent ++ [(q, dst, m)] } } })
      ∧ (p.fabric.portFor dst = none → exec (.fabricFlit dst m) s = .next s))
    ∧ (∀ m, (flitRange m).2 ≠ 0 → s.rangeFrozen (flitRange m).1 (flitRange m).2 = true → exec (.fabricFlit p.pkgId m) s = .next (s.again (.flit m)))
    ∧ (let here (m : FabMsg) (t : State) : Prop := s.rangeFrozen (flitRange m).1 (flitRange m).2 = false → exec (.fabricFlit p.pkgId m) s = .next t
      let at_ (pa k n : Nat) : List (Nat × Nat × Nat) := s.redirected [(pa, k, n)]
      (∀ pa k b src tag e, s.errIn true (at_ pa k b.length) = some e → here (.store pa k b src tag) ((s.findErr 0 none 0 e 0).forward src (.fail tag 0x2C)))
      ∧ (∀ pa k b src tag c, s.errIn true (at_ pa k b.length) = none → s.piecesCode 0 true (at_ pa k b.length) = some c →
          here (.store pa k b src tag) ((s.metCode c).forward src (.fail tag c.1)))
      ∧ (∀ pa b src tag, s.errIn true (at_ pa 0 b.length) = none → s.piecesCode 0 true (at_ pa 0 b.length) = none → (∀ x, s.redirect (x, 0) = (x, 0)) →
          p.dead = [] → p.marked = [] → p.encTag = [] → ∃ t, here (.store pa 0 b src tag) t ∧ t.ctxs = s.ctxs ∧ t.reqs = s.reqs
          ∧ t.regions = s.regions ∧ ∀ x, memGet t.mem x = if pa ≤ x ∧ x < pa + b.length then b.getD (x - pa) 0 else memGet s.mem x)
      ∧ (∀ pa k n src tag (sys : Bool), let l := at_ pa k n
        let c := if sys = true then 4 else 0
        (∀ e, s.errIn false l = some e → here (.load pa k n src tag sys) ((s.findErr 0 none 0 e 0).forward src (.fail tag 0x2C)))
        ∧ (∀ d, s.errIn false l = none → s.piecesCode c false l = some d → here (.load pa k n src tag sys) ((s.metCode d).forward src (.fail tag d.1)))
        ∧ (s.errIn false l = none → s.piecesCode c false l = none → here (.load pa k n src tag sys) (s.forward src (.data tag (s.readPieces l)))))
      ∧ (∀ tag b, here (.data tag b) s) ∧ (∀ tag c, here (.fail tag c) s)
      ∧ (∀ asid pkt pkgs, p.bring.step ≠ 8 → here (.packet asid pkt pkgs) (s.again (.flit (.packet asid pkt pkgs))))
      ∧ (∀ asid pkt pkgs, p.bring.step = 8 → here (.packet asid pkt pkgs) { s with pkg := { p with sched := { p.sched with deliveries := p.sched.deliveries ++
          [{ source := 0, asid := asid, bytes := pkt, pkgs := pkgs, parent := none, host := true }] } } })
      ∧ (∀ lid code, here (.kill lid code) (s.killAll lid code false))
      ∧ (∀ lid, (s.launch lid = none → here (.ended lid) (s.endWaits lid)) ∧ ∀ l, s.launch lid = some l → here (.ended lid) (s.freeLaunch lid l))
      ∧ (∀ lid seed lo n pkgs prio preds, p.pkgId ∉ pkgs → s.inPod lid = false → 
          let a : Away := { seed := BitVec.ofNat 64 seed, clo := lo, ccount := n, prio := prio, preds := preds }
          here (.launched lid seed lo n pkgs prio preds) { s with pkg := { p with sched := { p.sched with away := SMap.set p.sched.away lid a } } })
      ∧ (∀ lid src code fl po st l, s.launch lid = some l → ∃ t, here (.report lid src code fl po st) t ∧ t.mem = s.mem
          ∧ t.launch lid = some { l with reports := l.reports ++ [(src, code, fl, po, st)] })
      ∧ (∀ b cnt lid, ∃ t, here (.arrive b cnt lid) t ∧ t.mem = s.mem ∧ t.ctxs = s.ctxs
          ∧ SMap.get t.pkg.gbar (8 + b) {} = (SMap.get p.gbar (8 + b) {}).arrive lid cnt (2 ^ 31) s.cycle 5250 none)
      ∧ ∀ x, here (.sync x) (s.syncIn x)))

/-! ### Encoding -/

/-- R30, R32 to R36, R49: whatever words the encoder gives a well-formed instruction, the decoder reads that instruction back from them, with every
operand at every value; its TRIG field is the rule index it was given, its literal slot is none of the rules', and an instruction that has no
literal is read the same whatever stands in the slot after it. No two well-formed instructions share their words. -/
def Obligations.EncodeDecodeAgree : Prop :=
  (∀ (t : BitVec 6) (i : Instr) (w : Word) (nx : Option Word), i.wf = true → encode t i = some (w, nx) →
    decode w nx = .ok i ∧ w.extractLsb' 26 6 = t ∧ (∀ u, nx = some u → u.extractLsb' 26 6 = 63) ∧ (nx = none → ∀ u, decode w (some u) = .ok i))
  ∧ ∀ (t u : BitVec 6) (i j : Instr) (w : Word × Option Word), i.wf = true → j.wf = true → encode t i = some w → encode u j = some w → t = u ∧ i = j

/-- R32 to R36, R39, R49: words the manual prints beside their assembly text decode to those instructions; a word of each unassigned opcode is
refused with BADOP at field 18. -/
def Obligations.PrintedWordsDecode : Prop :=
  decode 0x1100722A#32 none = .ok (.fadd (.v 3) (.inp 2) (.v 5) 2)
  ∧ decode 0x0C808489#32 none = .ok (.iadd (.v 4) (.v 4) (.inp 1) 1)
  ∧ decode 0x08040028#32 none = .ok (.idle 40)
  ∧ decode 0x150822F0#32 (some 0xFE3FC000#32) = .ok (.fmul (.v 1) (.v 2) (.lit 0x23FC000#26) 0)
  ∧ decode 0x0024403F#32 (some 0xFC800001#32) = .ok (.lit (.v 2) 0 0x3F 0x800001)
  ∧ decode 0x01C39900#32 none = .ok (.pcarve (.x 1))
  ∧ decode 0x1626108B#32 none = .ok (.isect (.out 0) (.inp 0) (.inp 1) 1 1)
  ∧ decode 0x06805900#32 none = .ok (.vld (.v 2) (.x 1))
  ∧ decode 0x0F28A818#32 none = .ok (.afmax (.v 5) (.v 8) 0 0 1 2)
  ∧ decode 0x0AC39D32#32 none = .ok (.fence 3 2)
  ∧ decode 0x0B463830#32 (some 0xFC01C000#32) = .ok (.unmap (.out 1) (.x 0) 0 3 7)
  ∧ decode 0x0B626601#32 (some 0xFE280009#32) = .ok (.copy (.out 3) (.v 6) 1 1 5 0 0 0 9)
  ∧ decode 0x07A33A00#32 none = .ok (.launch (.x 1) (.x 2) 0)
  ∧ decode 0x0FC01921#32 none = .ok (.trap (.x 1) 33)
  ∧ decode 0x09D79D00#32 none = .error ⟨7, 26⟩
  ∧ ∀ op ∈ [0x12, 0x1F, 0x38, 0x3F, 0x5E, 0x6F, 0x7E, 0x94, 0x9F, 0xB6, 0xBF, 0xCE, 0xE2, 0xEE, 0xFA, 0xFF], ∀ nx,
      decode (BitVec.ofNat 32 (op * 2 ^ 18)) nx = .error ⟨3, 18⟩

/-! ### The step, reset and memory -/

/-- R76, R79, R92: with nothing left to do a cycle begins; an event that is next on the agenda is executed, and a firing takes the first of its slots that still has
what it needs. Where that slot's words decode to a well-formed instruction, the step is exec of it, with the slot in hand and its rule entry, its
context waiting for nothing; an unassigned opcode is the trap BADOP and freezes its region. -/
def Obligations.StepRunsDecoded : Prop := ∀ (s : State),
  (s.agenda = [] → step s = .next s.tick)
  ∧ ∀ a rest, s.agenda = a :: rest →
    let u : State := { s with agenda := rest }
    (∀ i, a = .ev i → step s = exec i u)
    ∧ ∀ l held, a = .fire l held →
      (u.takes l = none → step s = .next u)
      ∧ ∀ c j, u.takes l = some (c, j) →
        let k := s.ctx c
        let w := k.slots.getD j 0xFC000000#32
        let nx := if j = 31 then none else some (k.slots.getD (j + 1) 0xFC000000#32)
        let b := u.begin_ c j held
        (b.cur = { cid := c, slot := j, rule := k.rules.getD (w.extractLsb' 26 6).toNat 0 } ∧ b.mem = s.mem ∧ b.reqs = s.reqs ∧ b.pkg = s.pkg ∧ b.agenda = rest
          ∧ b.ctx c = { k with ctl := { k.ctl with wait := .none, starve := (b.ctx c).ctl.starve } }
          ∧ (∀ d, d ≠ c → b.ctx d = { s.ctx d with ctl := { (s.ctx d).ctl with starve := (b.ctx d).ctl.starve } })
          ∧ ∀ d, d ≠ c → d ∉ held → b.ctx d = s.ctx d)
        ∧ (∀ i, decode w nx = .ok i → i.wf = true → step s = exec i b)
        ∧ (decode w nx = .error ⟨3, 18⟩ →
            step s = .next ((b.takeTrap 0x03).updRegion (regionOf c) fun g => { g with freeze := some (c, s.cycle) }))

/-- R8, R51, R89, R92: every instruction and every event answers a next state in every state: whatever the manual calls a trap, a break, poison, a stop,
a kill or a refused command is a state the machine goes on from. -/
def Obligations.ExecAlwaysAnswers : Prop := ∀ (i : Instr) (s : State), ∃ t, exec i s = .next t

/-- Memory's canonical form (the model's own, log entry 7): addresses strictly rising, and no byte listed that reads as an unlisted one does. Every
step keeps it. -/
def Obligations.MemoryStaysCanonical : Prop := Kept fun s => Memory.wf s.mem = true

/-- R94, R233, R374, R384, R405, R451: the machine right after reset. The manual gives RFCTL, MCCTL, the counter and its discipline, and that nothing
is loaded; that every other register and every byte of memory reads zero are log entries 3 and 7. -/
def Obligations.ResetValues : Prop :=
  Memory.wf State.reset.mem = true
  ∧ (∀ a, memGet State.reset.mem a = 0)
  ∧ State.reset.pkg.bring = { step := 1 } ∧ State.reset.pkg.time.tsc = 0 ∧ State.reset.pkg.time.disc = .free
  ∧ State.reset.pkg.sched.launches = [] ∧ State.reset.pkg.sched.sys = [] ∧ State.reset.pkg.trust.keys = [] ∧ State.reset.reqs = []
  ∧ (∀ r, (State.reset.region r).rfctl = 0x0001000080001B00#64 ∧ (State.reset.region r).mcctl = 0x0000000100010000#64
      ∧ (State.reset.region r).res = [] ∧ (State.reset.region r).trapQ = [] ∧ (State.reset.region r).snap = [])
  ∧ (∀ c, (State.reset.ctx c).regs = {} ∧ (State.reset.ctx c).ch = {} ∧ (State.reset.ctx c).ctl.released = false ∧ (State.reset.ctx c).pend = [])
  ∧ ∀ c i, (State.reset.ctx c).x i = 0 ∧ ((State.reset.ctx c).v i).get 0 = 0 ∧ (State.reset.ctx c).p i = false ∧ (State.reset.ctx c).otag i = 0
end

