-- ==== Sys2Proof/Laws/Crypto.lean ====
section
/-! SUPPORT. How long the byte strings of a number and of a digest are, and that SM4 and XTS deciphered give back what was enciphered. -/

namespace Sys2Proof.Machine

theorem bytesLE_length (n v : Nat) : (bytesLE n v).length = n := by
  induction n generalizing v with
  | zero => rfl
  | succ n ih => simp [bytesLE, ih]

theorem sm3Rounds_length (w : List Word) (f j : Nat) (v : List Word) (h : v.length = 8) : (sm3Rounds w f j v).length = 8 := by
  induction f generalizing j v with
  | zero => exact h
  | succ f ih => exact ih _ _ rfl

theorem sm3Block_length (v : List Word) (b : List Byte) (h : v.length = 8) : (sm3Block v b).length = 8 := by
  simp [sm3Block, sm3Rounds_length _ _ _ v h, h]

theorem sm3_length (m : List Byte) : (sm3 m).length = 32 := by
  have k : ∀ (l : List (List Byte)) (v : List Word), v.length = 8 → (l.foldl sm3Block v).length = 8 := by
    intro l
    induction l with
    | nil => exact fun _ h => h
    | cons b t ih => exact fun v h => ih _ (sm3Block_length v b h)
  unfold sm3
  rw [List.length_flatMap]
  have c : ∀ l : List Word, (l.map fun x => (bytesBE 4 x.toNat).length).sum = 4 * l.length := by
    intro l
    induction l with
    | nil => rfl
    | cons x t ih => simp [bytesBE, bytesLE_length] at ih ⊢; omega
  rw [c, k _ _ rfl]

/-! ### SM4 and XTS -/

/-- Four words in the reverse order. -/
def sm4Turn (x : Word × Word × Word × Word) : Word × Word × Word × Word := (x.2.2.2, x.2.2.1, x.2.1, x.1)

theorem sm4Rounds_append (a b : List Word) (x : Word × Word × Word × Word) : sm4Rounds (a ++ b) x = sm4Rounds b (sm4Rounds a x) := by
  induction a generalizing x with
  | nil => rfl
  | cons r t ih => exact ih _

/-- A round undone: the same round on the words in the reverse order. -/
theorem sm4Rounds_undo (r : Word) (x : Word × Word × Word × Word) : sm4Rounds [r] (sm4Turn (sm4Rounds [r] x)) = sm4Turn x := by
  obtain ⟨a, b, c, d⟩ := x
  have h : d ^^^ c ^^^ b = b ^^^ c ^^^ d := by rw [BitVec.xor_comm, BitVec.xor_comm d c, BitVec.xor_assoc]
  simp only [sm4Rounds, sm4Turn, h, BitVec.xor_assoc, BitVec.xor_self, BitVec.xor_zero]

theorem sm4Rounds_reverse (ks : List Word) (x : Word × Word × Word × Word) : sm4Rounds ks.reverse (sm4Turn (sm4Rounds ks x)) = sm4Turn x := by
  induction ks generalizing x with
  | nil => rfl
  | cons r t ih =>
    have e : sm4Rounds (r :: t) x = sm4Rounds t (sm4Rounds [r] x) := sm4Rounds_append [r] t x
    rw [List.reverse_cons, sm4Rounds_append, e, ih, sm4Rounds_undo]

theorem wordOf_blockOf (x : Word × Word × Word × Word) :
    wordOf (blockOf x) 0 = x.1 ∧ wordOf (blockOf x) 1 = x.2.1 ∧ wordOf (blockOf x) 2 = x.2.2.1 ∧ wordOf (blockOf x) 3 = x.2.2.2 := by
  refine ⟨?_, ?_, ?_, ?_⟩ <;>
  · apply BitVec.eq_of_getLsbD_eq
    intro i hi
    simp only [wordOf, blockOf, BitVec.getLsbD_setWidth, BitVec.getLsbD_ushiftRight, BitVec.getLsbD_append, hi, decide_true, Bool.true_and]
    grind

theorem blockOf_wordOf (b : BitVec 128) : blockOf (wordOf b 0, wordOf b 1, wordOf b 2, wordOf b 3) = b := by
  apply BitVec.eq_of_getLsbD_eq
  intro i hi
  simp only [wordOf, blockOf, BitVec.getLsbD_setWidth, BitVec.getLsbD_ushiftRight, BitVec.getLsbD_append]
  grind

/-- What SM4 enciphers, it deciphers. -/
theorem sm4Inv_sm4 (key b : BitVec 128) : sm4Inv key (sm4 key b) = b := by
  have h := sm4Rounds_reverse (sm4Schedule key) (wordOf b 0, wordOf b 1, wordOf b 2, wordOf b 3)
  unfold sm4Inv sm4 sm4Run
  simp only [wordOf_blockOf]
  unfold sm4Turn at h
  rw [h]
  exact blockOf_wordOf b

theorem natLE_bytesLE (n v : Nat) : natLE (bytesLE n v) = v % 256 ^ n := by
  induction n generalizing v with
  | zero => simp [bytesLE, natLE, Nat.mod_one]
  | succ n ih => simp only [bytesLE, natLE, ih, BitVec.toNat_ofNat, Nat.pow_succ, Nat.mul_comm (256 ^ n), Nat.mod_mul]; omega

theorem bytesLE_natLE (l : List Byte) : bytesLE l.length (natLE l) = l := by
  induction l with
  | nil => rfl
  | cons b t ih =>
    have h : (natLE (b :: t)) / 256 = natLE t := by simp only [natLE]; have := b.isLt; omega
    have k : BitVec.ofNat 8 (natLE (b :: t)) = b := by
      apply BitVec.eq_of_toNat_eq
      have := b.isLt
      simp only [natLE, BitVec.toNat_ofNat]
      omega
    rw [List.length_cons, bytesLE, h, k, ih]

theorem natBE_bytesBE (n v : Nat) : natBE (bytesBE n v) = v % 256 ^ n := by simp [natBE, bytesBE, natLE_bytesLE]
theorem bytesBE_natBE (l : List Byte) : bytesBE l.length (natBE l) = l := by
  have h := bytesLE_natLE l.reverse
  rw [List.length_reverse] at h
  simp [natBE, bytesBE, h]
theorem bytesBE_length (n v : Nat) : (bytesBE n v).length = n := by simp [bytesBE, bytesLE_length]
theorem natBE_lt (l : List Byte) : natBE l < 256 ^ l.length := by
  have h := natBE_bytesBE l.length (natBE l)
  rw [bytesBE_natBE] at h
  exact h ▸ Nat.mod_lt _ (Nat.pow_pos (by decide))

/-- The bytes of a cipher's blocks, read back part by part. -/
theorem xtsParts_undo {c d : BitVec 128 → BitVec 128} (h : ∀ b, d (c b) = b) (f : Nat) (x : BitVec 128) (l : List Byte) (k : l.length = 16 * f) :
    xtsParts d f x (xtsParts c f x l) = l := by
  induction f generalizing x l with
  | zero => exact (List.eq_nil_of_length_eq_zero k).symm
  | succ f ih =>
    have n : (l.take 16).length = 16 := by simp; omega
    have e (v : Nat) (t : List Byte) : (bytesBE 16 v ++ t).take 16 = bytesBE 16 v := by simp [bytesBE_length]
    have g (v : Nat) (t : List Byte) : (bytesBE 16 v ++ t).drop 16 = t := by simp [bytesBE_length]
    have m : natBE (l.take 16) < 2 ^ 128 := by have := natBE_lt (l.take 16); rwa [n] at this
    simp only [xtsParts, e, g, natBE_bytesBE]
    rw [ih _ _ (by simp; omega)]
    have q (y : BitVec 128) : BitVec.ofNat 128 (y.toNat % 256 ^ 16) = y := by
      apply BitVec.eq_of_toNat_eq
      have := y.isLt
      simp only [BitVec.toNat_ofNat]
      omega
    simp only [q, BitVec.xor_assoc, BitVec.xor_self, BitVec.xor_zero, h]
    have w := bytesBE_natBE (l.take 16)
    rw [n] at w
    rw [BitVec.toNat_ofNat, Nat.mod_eq_of_lt m, w, List.take_append_drop]

/-- A 64-byte block that XTS enciphered is deciphered as it was (R436). -/
theorem xtsInv_xts (key tweakKey : BitVec 128) (blk : Nat) (l : List Byte) (h : l.length = 64) :
    xtsInv key tweakKey blk (xts key tweakKey blk l) = l := xtsParts_undo (sm4Inv_sm4 key) 4 _ l h

end Sys2Proof.Machine
end

