-- ==== Sys2Proof/Laws/Tables.lean ====
section
/-! SUPPORT. What reading a table gives after a write, a removal or a filter, and that each keeps the keys rising. -/

namespace Sys2Proof

variable {α : Type}

@[simp] theorem SMap.get_nil (k : Nat) (d : α) : SMap.get [] k d = d := rfl
@[simp] theorem SMap.find_nil (k : Nat) : SMap.find ([] : SMap α) k = none := rfl

theorem SMap.get_eq_find (m : SMap α) (k : Nat) (d : α) : SMap.get m k d = (SMap.find m k).getD d := by
  induction m with
  | nil => rfl
  | cons p t ih => obtain ⟨j, v⟩ := p; by_cases h : j = k <;> simp [SMap.get, SMap.find, h, ih]

@[simp] theorem SMap.find_set_self (m : SMap α) (k : Nat) (v : α) : SMap.find (SMap.set m k v) k = some v := by
  induction m with
  | nil => simp [SMap.set, SMap.find]
  | cons p t ih =>
    obtain ⟨j, w⟩ := p
    simp only [SMap.set]
    split
    · simp [SMap.find]
    · split
      · simp [SMap.find]
      · rename_i h; simp [SMap.find, Ne.symm h, ih]

theorem SMap.find_set_ne (m : SMap α) (k j : Nat) (v : α) (h : j ≠ k) : SMap.find (SMap.set m k v) j = SMap.find m j := by
  induction m with
  | nil => simp [SMap.set, SMap.find, Ne.symm h]
  | cons p t ih =>
    obtain ⟨i, w⟩ := p
    simp only [SMap.set]
    split
    · simp [SMap.find, Ne.symm h]
    · split
      · rename_i hk; subst hk; simp [SMap.find, Ne.symm h]
      · simp only [SMap.find, ih]

theorem SMap.find_set (m : SMap α) (k j : Nat) (v : α) : SMap.find (SMap.set m k v) j = if j = k then some v else SMap.find m j := by
  by_cases h : j = k
  · simp [h]
  · simp [h, SMap.find_set_ne m k j v h]

theorem SMap.get_set (m : SMap α) (k j : Nat) (v d : α) : SMap.get (SMap.set m k v) j d = if j = k then v else SMap.get m j d := by
  simp only [SMap.get_eq_find, SMap.find_set]; split <;> rfl

@[simp] theorem SMap.get_set_self (m : SMap α) (k : Nat) (v d : α) : SMap.get (SMap.set m k v) k d = v := by simp [SMap.get_set]

theorem SMap.get_set_ne (m : SMap α) (k j : Nat) (v d : α) (h : j ≠ k) : SMap.get (SMap.set m k v) j d = SMap.get m j d := by
  simp [SMap.get_set, h]

theorem SMap.find_del (m : SMap α) (k j : Nat) : SMap.find (SMap.del m k) j = if j = k then none else SMap.find m j := by
  induction m with
  | nil => simp [SMap.del, SMap.find]
  | cons p t ih =>
    obtain ⟨i, w⟩ := p
    simp only [SMap.del]
    split
    · rename_i h; subst h; rw [ih]; by_cases hj : j = k <;> simp [SMap.find, hj]; intro h; exact absurd h.symm hj
    · rename_i h
      simp only [SMap.find]
      by_cases hi : i = j
      · subst hi; simp [Ne.symm h]
      · simp [hi, ih]

theorem SMap.get_del (m : SMap α) (k j : Nat) (d : α) : SMap.get (SMap.del m k) j d = if j = k then d else SMap.get m j d := by
  simp only [SMap.get_eq_find, SMap.find_del]; split <;> rfl

/-! ### Rising keys -/

/-- Every key of a table lies above a bound. -/
def SMap.above (b : Nat) (m : SMap α) : Prop := ∀ p ∈ m, b < p.1

theorem SMap.ordered_cons (j : Nat) (v : α) (t : SMap α) : SMap.ordered ((j, v) :: t) = true ↔ SMap.above j t ∧ SMap.ordered t = true := by
  induction t generalizing j v with
  | nil => simp [SMap.ordered, SMap.above]
  | cons p t ih =>
    obtain ⟨k, w⟩ := p
    simp only [SMap.ordered, Bool.and_eq_true, decide_eq_true_eq]
    rw [ih k w]
    constructor
    · rintro ⟨hjk, ha, ho⟩
      refine ⟨?_, ha, ho⟩
      intro q hq
      rcases List.mem_cons.mp hq with rfl | hq
      · exact hjk
      · exact Nat.lt_trans hjk (ha q hq)
    · rintro ⟨ha, hk, ho⟩
      exact ⟨ha _ (List.mem_cons_self ..), hk, ho⟩

theorem SMap.mem_set {m : SMap α} {k : Nat} {v : α} {p : Nat × α} (h : p ∈ SMap.set m k v) : p = (k, v) ∨ p ∈ m := by
  induction m with
  | nil => simpa [SMap.set] using h
  | cons q t ih =>
    obtain ⟨j, w⟩ := q
    simp only [SMap.set] at h
    split at h
    · rcases List.mem_cons.mp h with h | h
      · exact .inl h
      · exact .inr h
    · split at h
      · rcases List.mem_cons.mp h with h | h
        · exact .inl h
        · exact .inr (List.mem_cons_of_mem _ h)
      · rcases List.mem_cons.mp h with h | h
        · exact .inr (by simp [h])
        · exact (ih h).imp id (List.mem_cons_of_mem _)

theorem SMap.ordered_set {m : SMap α} (k : Nat) (v : α) (h : SMap.ordered m = true) : SMap.ordered (SMap.set m k v) = true := by
  induction m with
  | nil => rfl
  | cons p t ih =>
    obtain ⟨j, w⟩ := p
    have ⟨ha, ho⟩ := (SMap.ordered_cons j w t).mp h
    simp only [SMap.set]
    split
    · rename_i hk
      refine (SMap.ordered_cons k v _).mpr ⟨?_, h⟩
      intro q hq
      rcases List.mem_cons.mp hq with rfl | hq
      · exact hk
      · exact Nat.lt_trans hk (ha q hq)
    · split
      · rename_i hk; subst hk; exact (SMap.ordered_cons k v t).mpr ⟨ha, ho⟩
      · rename_i h1 h2
        refine (SMap.ordered_cons j w _).mpr ⟨?_, ih ho⟩
        intro q hq
        rcases SMap.mem_set hq with rfl | hq
        · simp only; omega
        · exact ha q hq

theorem SMap.ordered_filter {m : SMap α} (f : Nat × α → Bool) (h : SMap.ordered m = true) : SMap.ordered (m.filter f) = true := by
  induction m with
  | nil => rfl
  | cons p t ih =>
    obtain ⟨j, w⟩ := p
    have ⟨ha, ho⟩ := (SMap.ordered_cons j w t).mp h
    simp only [List.filter_cons]
    split
    · exact (SMap.ordered_cons j w _).mpr ⟨fun q hq => ha q (List.mem_filter.mp hq).1, ih ho⟩
    · exact ih ho

theorem SMap.del_eq_filter (m : SMap α) (k : Nat) : SMap.del m k = m.filter fun p => !decide (k = p.1) := by
  induction m with
  | nil => rfl
  | cons p t ih =>
    obtain ⟨j, w⟩ := p
    by_cases h : k = j
    · subst h; simp [SMap.del, ih]
    · simp [SMap.del, h, ih]

theorem SMap.ordered_del {m : SMap α} (k : Nat) (h : SMap.ordered m = true) : SMap.ordered (SMap.del m k) = true := by
  rw [SMap.del_eq_filter]; exact SMap.ordered_filter _ h

end Sys2Proof
end

