-- ==== Sys2Proof/Laws/State.lean ====
section
/-! SUPPORT. One lemma for each field of the state and each basic update: what the update leaves of the field, so that no proof unfolds a
record update; and what reading a context, a region or an element gives after one. -/

namespace Sys2Proof.Machine

variable (s : State)

/-! ### Fields -/

@[simp] theorem State.setCtx_elems (c : Nat) (k : Ctx) : (s.setCtx c k).elems = s.elems := rfl
@[simp] theorem State.setCtx_regions (c : Nat) (k : Ctx) : (s.setCtx c k).regions = s.regions := rfl
@[simp] theorem State.setCtx_flight (c : Nat) (k : Ctx) : (s.setCtx c k).flight = s.flight := rfl
@[simp] theorem State.setCtx_fans (c : Nat) (k : Ctx) : (s.setCtx c k).fans = s.fans := rfl
@[simp] theorem State.setCtx_reqs (c : Nat) (k : Ctx) : (s.setCtx c k).reqs = s.reqs := rfl
@[simp] theorem State.setCtx_mem (c : Nat) (k : Ctx) : (s.setCtx c k).mem = s.mem := rfl
@[simp] theorem State.setCtx_pkg (c : Nat) (k : Ctx) : (s.setCtx c k).pkg = s.pkg := rfl
@[simp] theorem State.setCtx_cur (c : Nat) (k : Ctx) : (s.setCtx c k).cur = s.cur := rfl
@[simp] theorem State.setCtx_agenda (c : Nat) (k : Ctx) : (s.setCtx c k).agenda = s.agenda := rfl
@[simp] theorem State.setCtx_env (c : Nat) (k : Ctx) : (s.setCtx c k).env = s.env := rfl
@[simp] theorem State.setCtx_vaultErrs (c : Nat) (k : Ctx) : (s.setCtx c k).vaultErrs = s.vaultErrs := rfl
@[simp] theorem State.setCtx_hbmErrs (c : Nat) (k : Ctx) : (s.setCtx c k).hbmErrs = s.hbmErrs := rfl
@[simp] theorem State.setCtx_badCopies (c : Nat) (k : Ctx) : (s.setCtx c k).badCopies = s.badCopies := rfl
@[simp] theorem State.setCtx_cycle (c : Nat) (k : Ctx) : (s.setCtx c k).cycle = s.cycle := rfl
@[simp] theorem State.setCtx_free (c : Nat) (k : Ctx) : (s.setCtx c k).free = s.free := rfl
@[simp] theorem State.setCtx_pendNo (c : Nat) (k : Ctx) : (s.setCtx c k).pendNo = s.pendNo := rfl
@[simp] theorem State.setCtx_reqNo (c : Nat) (k : Ctx) : (s.setCtx c k).reqNo = s.reqNo := rfl

@[simp] theorem State.updCtx_elems (c : Nat) (f : Ctx → Ctx) : (s.updCtx c f).elems = s.elems := rfl
@[simp] theorem State.updCtx_regions (c : Nat) (f : Ctx → Ctx) : (s.updCtx c f).regions = s.regions := rfl
@[simp] theorem State.updCtx_flight (c : Nat) (f : Ctx → Ctx) : (s.updCtx c f).flight = s.flight := rfl
@[simp] theorem State.updCtx_fans (c : Nat) (f : Ctx → Ctx) : (s.updCtx c f).fans = s.fans := rfl
@[simp] theorem State.updCtx_reqs (c : Nat) (f : Ctx → Ctx) : (s.updCtx c f).reqs = s.reqs := rfl
@[simp] theorem State.updCtx_mem (c : Nat) (f : Ctx → Ctx) : (s.updCtx c f).mem = s.mem := rfl
@[simp] theorem State.updCtx_pkg (c : Nat) (f : Ctx → Ctx) : (s.updCtx c f).pkg = s.pkg := rfl
@[simp] theorem State.updCtx_cur (c : Nat) (f : Ctx → Ctx) : (s.updCtx c f).cur = s.cur := rfl
@[simp] theorem State.updCtx_agenda (c : Nat) (f : Ctx → Ctx) : (s.updCtx c f).agenda = s.agenda := rfl
@[simp] theorem State.updCtx_env (c : Nat) (f : Ctx → Ctx) : (s.updCtx c f).env = s.env := rfl
@[simp] theorem State.updCtx_vaultErrs (c : Nat) (f : Ctx → Ctx) : (s.updCtx c f).vaultErrs = s.vaultErrs := rfl
@[simp] theorem State.updCtx_hbmErrs (c : Nat) (f : Ctx → Ctx) : (s.updCtx c f).hbmErrs = s.hbmErrs := rfl
@[simp] theorem State.updCtx_badCopies (c : Nat) (f : Ctx → Ctx) : (s.updCtx c f).badCopies = s.badCopies := rfl
@[simp] theorem State.updCtx_cycle (c : Nat) (f : Ctx → Ctx) : (s.updCtx c f).cycle = s.cycle := rfl
@[simp] theorem State.updCtx_free (c : Nat) (f : Ctx → Ctx) : (s.updCtx c f).free = s.free := rfl
@[simp] theorem State.updCtx_pendNo (c : Nat) (f : Ctx → Ctx) : (s.updCtx c f).pendNo = s.pendNo := rfl
@[simp] theorem State.updCtx_reqNo (c : Nat) (f : Ctx → Ctx) : (s.updCtx c f).reqNo = s.reqNo := rfl

@[simp] theorem State.setRegion_ctxs (r : Nat) (g : Region) : (s.setRegion r g).ctxs = s.ctxs := rfl
@[simp] theorem State.setRegion_elems (r : Nat) (g : Region) : (s.setRegion r g).elems = s.elems := rfl
@[simp] theorem State.setRegion_flight (r : Nat) (g : Region) : (s.setRegion r g).flight = s.flight := rfl
@[simp] theorem State.setRegion_fans (r : Nat) (g : Region) : (s.setRegion r g).fans = s.fans := rfl
@[simp] theorem State.setRegion_reqs (r : Nat) (g : Region) : (s.setRegion r g).reqs = s.reqs := rfl
@[simp] theorem State.setRegion_mem (r : Nat) (g : Region) : (s.setRegion r g).mem = s.mem := rfl
@[simp] theorem State.setRegion_pkg (r : Nat) (g : Region) : (s.setRegion r g).pkg = s.pkg := rfl
@[simp] theorem State.setRegion_cur (r : Nat) (g : Region) : (s.setRegion r g).cur = s.cur := rfl
@[simp] theorem State.setRegion_agenda (r : Nat) (g : Region) : (s.setRegion r g).agenda = s.agenda := rfl
@[simp] theorem State.setRegion_env (r : Nat) (g : Region) : (s.setRegion r g).env = s.env := rfl
@[simp] theorem State.setRegion_vaultErrs (r : Nat) (g : Region) : (s.setRegion r g).vaultErrs = s.vaultErrs := rfl
@[simp] theorem State.setRegion_hbmErrs (r : Nat) (g : Region) : (s.setRegion r g).hbmErrs = s.hbmErrs := rfl
@[simp] theorem State.setRegion_badCopies (r : Nat) (g : Region) : (s.setRegion r g).badCopies = s.badCopies := rfl
@[simp] theorem State.setRegion_cycle (r : Nat) (g : Region) : (s.setRegion r g).cycle = s.cycle := rfl
@[simp] theorem State.setRegion_free (r : Nat) (g : Region) : (s.setRegion r g).free = s.free := rfl
@[simp] theorem State.setRegion_pendNo (r : Nat) (g : Region) : (s.setRegion r g).pendNo = s.pendNo := rfl
@[simp] theorem State.setRegion_reqNo (r : Nat) (g : Region) : (s.setRegion r g).reqNo = s.reqNo := rfl

@[simp] theorem State.updRegion_ctxs (r : Nat) (f : Region → Region) : (s.updRegion r f).ctxs = s.ctxs := rfl
@[simp] theorem State.updRegion_elems (r : Nat) (f : Region → Region) : (s.updRegion r f).elems = s.elems := rfl
@[simp] theorem State.updRegion_flight (r : Nat) (f : Region → Region) : (s.updRegion r f).flight = s.flight := rfl
@[simp] theorem State.updRegion_fans (r : Nat) (f : Region → Region) : (s.updRegion r f).fans = s.fans := rfl
@[simp] theorem State.updRegion_reqs (r : Nat) (f : Region → Region) : (s.updRegion r f).reqs = s.reqs := rfl
@[simp] theorem State.updRegion_mem (r : Nat) (f : Region → Region) : (s.updRegion r f).mem = s.mem := rfl
@[simp] theorem State.updRegion_pkg (r : Nat) (f : Region → Region) : (s.updRegion r f).pkg = s.pkg := rfl
@[simp] theorem State.updRegion_cur (r : Nat) (f : Region → Region) : (s.updRegion r f).cur = s.cur := rfl
@[simp] theorem State.updRegion_agenda (r : Nat) (f : Region → Region) : (s.updRegion r f).agenda = s.agenda := rfl
@[simp] theorem State.updRegion_env (r : Nat) (f : Region → Region) : (s.updRegion r f).env = s.env := rfl
@[simp] theorem State.updRegion_vaultErrs (r : Nat) (f : Region → Region) : (s.updRegion r f).vaultErrs = s.vaultErrs := rfl
@[simp] theorem State.updRegion_hbmErrs (r : Nat) (f : Region → Region) : (s.updRegion r f).hbmErrs = s.hbmErrs := rfl
@[simp] theorem State.updRegion_badCopies (r : Nat) (f : Region → Region) : (s.updRegion r f).badCopies = s.badCopies := rfl
@[simp] theorem State.updRegion_cycle (r : Nat) (f : Region → Region) : (s.updRegion r f).cycle = s.cycle := rfl
@[simp] theorem State.updRegion_free (r : Nat) (f : Region → Region) : (s.updRegion r f).free = s.free := rfl
@[simp] theorem State.updRegion_pendNo (r : Nat) (f : Region → Region) : (s.updRegion r f).pendNo = s.pendNo := rfl
@[simp] theorem State.updRegion_reqNo (r : Nat) (f : Region → Region) : (s.updRegion r f).reqNo = s.reqNo := rfl

@[simp] theorem State.updElem_ctxs (e : Nat) (f : Elem → Elem) : (s.updElem e f).ctxs = s.ctxs := rfl
@[simp] theorem State.updElem_regions (e : Nat) (f : Elem → Elem) : (s.updElem e f).regions = s.regions := rfl
@[simp] theorem State.updElem_flight (e : Nat) (f : Elem → Elem) : (s.updElem e f).flight = s.flight := rfl
@[simp] theorem State.updElem_fans (e : Nat) (f : Elem → Elem) : (s.updElem e f).fans = s.fans := rfl
@[simp] theorem State.updElem_reqs (e : Nat) (f : Elem → Elem) : (s.updElem e f).reqs = s.reqs := rfl
@[simp] theorem State.updElem_mem (e : Nat) (f : Elem → Elem) : (s.updElem e f).mem = s.mem := rfl
@[simp] theorem State.updElem_pkg (e : Nat) (f : Elem → Elem) : (s.updElem e f).pkg = s.pkg := rfl
@[simp] theorem State.updElem_cur (e : Nat) (f : Elem → Elem) : (s.updElem e f).cur = s.cur := rfl
@[simp] theorem State.updElem_agenda (e : Nat) (f : Elem → Elem) : (s.updElem e f).agenda = s.agenda := rfl
@[simp] theorem State.updElem_env (e : Nat) (f : Elem → Elem) : (s.updElem e f).env = s.env := rfl
@[simp] theorem State.updElem_vaultErrs (e : Nat) (f : Elem → Elem) : (s.updElem e f).vaultErrs = s.vaultErrs := rfl
@[simp] theorem State.updElem_hbmErrs (e : Nat) (f : Elem → Elem) : (s.updElem e f).hbmErrs = s.hbmErrs := rfl
@[simp] theorem State.updElem_badCopies (e : Nat) (f : Elem → Elem) : (s.updElem e f).badCopies = s.badCopies := rfl
@[simp] theorem State.updElem_cycle (e : Nat) (f : Elem → Elem) : (s.updElem e f).cycle = s.cycle := rfl
@[simp] theorem State.updElem_free (e : Nat) (f : Elem → Elem) : (s.updElem e f).free = s.free := rfl
@[simp] theorem State.updElem_pendNo (e : Nat) (f : Elem → Elem) : (s.updElem e f).pendNo = s.pendNo := rfl
@[simp] theorem State.updElem_reqNo (e : Nat) (f : Elem → Elem) : (s.updElem e f).reqNo = s.reqNo := rfl

@[simp] theorem State.updPkg_ctxs (f : Pkg → Pkg) : (s.updPkg f).ctxs = s.ctxs := rfl
@[simp] theorem State.updPkg_elems (f : Pkg → Pkg) : (s.updPkg f).elems = s.elems := rfl
@[simp] theorem State.updPkg_regions (f : Pkg → Pkg) : (s.updPkg f).regions = s.regions := rfl
@[simp] theorem State.updPkg_flight (f : Pkg → Pkg) : (s.updPkg f).flight = s.flight := rfl
@[simp] theorem State.updPkg_fans (f : Pkg → Pkg) : (s.updPkg f).fans = s.fans := rfl
@[simp] theorem State.updPkg_reqs (f : Pkg → Pkg) : (s.updPkg f).reqs = s.reqs := rfl
@[simp] theorem State.updPkg_mem (f : Pkg → Pkg) : (s.updPkg f).mem = s.mem := rfl
@[simp] theorem State.updPkg_cur (f : Pkg → Pkg) : (s.updPkg f).cur = s.cur := rfl
@[simp] theorem State.updPkg_agenda (f : Pkg → Pkg) : (s.updPkg f).agenda = s.agenda := rfl
@[simp] theorem State.updPkg_env (f : Pkg → Pkg) : (s.updPkg f).env = s.env := rfl
@[simp] theorem State.updPkg_vaultErrs (f : Pkg → Pkg) : (s.updPkg f).vaultErrs = s.vaultErrs := rfl
@[simp] theorem State.updPkg_hbmErrs (f : Pkg → Pkg) : (s.updPkg f).hbmErrs = s.hbmErrs := rfl
@[simp] theorem State.updPkg_badCopies (f : Pkg → Pkg) : (s.updPkg f).badCopies = s.badCopies := rfl
@[simp] theorem State.updPkg_cycle (f : Pkg → Pkg) : (s.updPkg f).cycle = s.cycle := rfl
@[simp] theorem State.updPkg_free (f : Pkg → Pkg) : (s.updPkg f).free = s.free := rfl
@[simp] theorem State.updPkg_pendNo (f : Pkg → Pkg) : (s.updPkg f).pendNo = s.pendNo := rfl
@[simp] theorem State.updPkg_reqNo (f : Pkg → Pkg) : (s.updPkg f).reqNo = s.reqNo := rfl

/-! ### Contexts, regions and elements read back -/

theorem State.ctx_setCtx (c d : Nat) (k : Ctx) : (s.setCtx c k).ctx d = if d = c then k else s.ctx d := by
  simp [State.ctx, State.setCtx, SMap.get_set]

@[simp] theorem State.ctx_setCtx_self (c : Nat) (k : Ctx) : (s.setCtx c k).ctx c = k := by simp [State.ctx_setCtx]

theorem State.ctx_updCtx (c d : Nat) (f : Ctx → Ctx) : (s.updCtx c f).ctx d = if d = c then f (s.ctx c) else s.ctx d := by
  simp [State.updCtx, State.ctx_setCtx]

@[simp] theorem State.ctx_updCtx_self (c : Nat) (f : Ctx → Ctx) : (s.updCtx c f).ctx c = f (s.ctx c) := by simp [State.ctx_updCtx]

theorem State.ctx_updCtx_ne {c d : Nat} (f : Ctx → Ctx) (h : d ≠ c) : (s.updCtx c f).ctx d = s.ctx d := by simp [State.ctx_updCtx, h]

@[simp] theorem State.my_updCtx (f : Ctx → Ctx) : (s.updCtx s.cur.cid f).my = f s.my := by simp [State.my]

@[simp] theorem State.ctx_setRegion (r : Nat) (g : Region) (c : Nat) : (s.setRegion r g).ctx c = s.ctx c := rfl
@[simp] theorem State.ctx_updRegion (r : Nat) (f : Region → Region) (c : Nat) : (s.updRegion r f).ctx c = s.ctx c := rfl
@[simp] theorem State.ctx_updElem (e : Nat) (f : Elem → Elem) (c : Nat) : (s.updElem e f).ctx c = s.ctx c := rfl
@[simp] theorem State.ctx_updPkg (f : Pkg → Pkg) (c : Nat) : (s.updPkg f).ctx c = s.ctx c := rfl
@[simp] theorem State.my_updRegion (r : Nat) (f : Region → Region) : (s.updRegion r f).my = s.my := rfl
@[simp] theorem State.my_updElem (e : Nat) (f : Elem → Elem) : (s.updElem e f).my = s.my := rfl
@[simp] theorem State.my_updPkg (f : Pkg → Pkg) : (s.updPkg f).my = s.my := rfl

theorem State.region_setRegion (r q : Nat) (g : Region) : (s.setRegion r g).region q = if q = r then g else s.region q := by
  simp [State.region, State.setRegion, SMap.get_set]

theorem State.region_updRegion (r q : Nat) (f : Region → Region) :
    (s.updRegion r f).region q = if q = r then f (s.region r) else s.region q := by
  simp [State.updRegion, State.region_setRegion]

@[simp] theorem State.region_updRegion_self (r : Nat) (f : Region → Region) : (s.updRegion r f).region r = f (s.region r) := by
  simp [State.region_updRegion]

@[simp] theorem State.region_updCtx (c : Nat) (f : Ctx → Ctx) (r : Nat) : (s.updCtx c f).region r = s.region r := rfl
@[simp] theorem State.region_updElem (e : Nat) (f : Elem → Elem) (r : Nat) : (s.updElem e f).region r = s.region r := rfl
@[simp] theorem State.region_updPkg (f : Pkg → Pkg) (r : Nat) : (s.updPkg f).region r = s.region r := rfl

theorem State.elem_updElem (e d : Nat) (f : Elem → Elem) : (s.updElem e f).elem d = if d = e then f (s.elem e) else s.elem d := by
  simp [State.elem, State.updElem, SMap.get_set]

@[simp] theorem State.elem_updCtx (c : Nat) (f : Ctx → Ctx) (e : Nat) : (s.updCtx c f).elem e = s.elem e := rfl
@[simp] theorem State.elem_updRegion (r : Nat) (f : Region → Region) (e : Nat) : (s.updRegion r f).elem e = s.elem e := rfl

@[simp] theorem State.res_updCtx (c : Nat) (f : Ctx → Ctx) (d : Nat) : (s.updCtx c f).res d = s.res d := rfl
@[simp] theorem State.res_updElem (e : Nat) (f : Elem → Elem) (d : Nat) : (s.updElem e f).res d = s.res d := rfl
@[simp] theorem State.res_updPkg (f : Pkg → Pkg) (d : Nat) : (s.updPkg f).res d = s.res d := rfl
@[simp] theorem State.routeMode_updCtx (c : Nat) (f : Ctx → Ctx) (d : Nat) : (s.updCtx c f).routeMode d = s.routeMode d := rfl
@[simp] theorem State.keyed_updCtx (c : Nat) (f : Ctx → Ctx) (d : Nat) : (s.updCtx c f).keyed d = s.keyed d := rfl
@[simp] theorem State.source_updCtx (c : Nat) (f : Ctx → Ctx) (d : Nat) : (s.updCtx c f).source d = s.source d := rfl

/-! ### A context's parts -/

@[simp] theorem Ctx.updRegs_slots (k : Ctx) (f : Regs → Regs) : (k.updRegs f).slots = k.slots := rfl
@[simp] theorem Ctx.updRegs_rules (k : Ctx) (f : Regs → Regs) : (k.updRegs f).rules = k.rules := rfl
@[simp] theorem Ctx.updRegs_ch (k : Ctx) (f : Regs → Regs) : (k.updRegs f).ch = k.ch := rfl
@[simp] theorem Ctx.updRegs_ctl (k : Ctx) (f : Regs → Regs) : (k.updRegs f).ctl = k.ctl := rfl
@[simp] theorem Ctx.updRegs_chain (k : Ctx) (f : Regs → Regs) : (k.updRegs f).chain = k.chain := rfl
@[simp] theorem Ctx.updRegs_slotSt (k : Ctx) (f : Regs → Regs) : (k.updRegs f).slotSt = k.slotSt := rfl
@[simp] theorem Ctx.updRegs_sinkCnt (k : Ctx) (f : Regs → Regs) : (k.updRegs f).sinkCnt = k.sinkCnt := rfl
@[simp] theorem Ctx.updRegs_sinkDone (k : Ctx) (f : Regs → Regs) : (k.updRegs f).sinkDone = k.sinkDone := rfl
@[simp] theorem Ctx.updRegs_pend (k : Ctx) (f : Regs → Regs) : (k.updRegs f).pend = k.pend := rfl
@[simp] theorem Ctx.updRegs_stIssued (k : Ctx) (f : Regs → Regs) : (k.updRegs f).stIssued = k.stIssued := rfl
@[simp] theorem Ctx.updRegs_points (k : Ctx) (f : Regs → Regs) : (k.updRegs f).points = k.points := rfl
@[simp] theorem Ctx.updRegs_ports (k : Ctx) (f : Regs → Regs) : (k.updRegs f).ports = k.ports := rfl
@[simp] theorem Ctx.updRegs_drained (k : Ctx) (f : Regs → Regs) : (k.updRegs f).drained = k.drained := rfl
@[simp] theorem Ctx.updRegs_fenceMark (k : Ctx) (f : Regs → Regs) : (k.updRegs f).fenceMark = k.fenceMark := rfl

@[simp] theorem Ctx.updCh_slots (k : Ctx) (f : Chans → Chans) : (k.updCh f).slots = k.slots := rfl
@[simp] theorem Ctx.updCh_rules (k : Ctx) (f : Chans → Chans) : (k.updCh f).rules = k.rules := rfl
@[simp] theorem Ctx.updCh_regs (k : Ctx) (f : Chans → Chans) : (k.updCh f).regs = k.regs := rfl
@[simp] theorem Ctx.updCh_ctl (k : Ctx) (f : Chans → Chans) : (k.updCh f).ctl = k.ctl := rfl
@[simp] theorem Ctx.updCh_chain (k : Ctx) (f : Chans → Chans) : (k.updCh f).chain = k.chain := rfl
@[simp] theorem Ctx.updCh_slotSt (k : Ctx) (f : Chans → Chans) : (k.updCh f).slotSt = k.slotSt := rfl
@[simp] theorem Ctx.updCh_sinkCnt (k : Ctx) (f : Chans → Chans) : (k.updCh f).sinkCnt = k.sinkCnt := rfl
@[simp] theorem Ctx.updCh_sinkDone (k : Ctx) (f : Chans → Chans) : (k.updCh f).sinkDone = k.sinkDone := rfl
@[simp] theorem Ctx.updCh_pend (k : Ctx) (f : Chans → Chans) : (k.updCh f).pend = k.pend := rfl
@[simp] theorem Ctx.updCh_stIssued (k : Ctx) (f : Chans → Chans) : (k.updCh f).stIssued = k.stIssued := rfl
@[simp] theorem Ctx.updCh_points (k : Ctx) (f : Chans → Chans) : (k.updCh f).points = k.points := rfl
@[simp] theorem Ctx.updCh_ports (k : Ctx) (f : Chans → Chans) : (k.updCh f).ports = k.ports := rfl
@[simp] theorem Ctx.updCh_drained (k : Ctx) (f : Chans → Chans) : (k.updCh f).drained = k.drained := rfl
@[simp] theorem Ctx.updCh_fenceMark (k : Ctx) (f : Chans → Chans) : (k.updCh f).fenceMark = k.fenceMark := rfl

@[simp] theorem Ctx.updCtl_slots (k : Ctx) (f : Ctl → Ctl) : (k.updCtl f).slots = k.slots := rfl
@[simp] theorem Ctx.updCtl_rules (k : Ctx) (f : Ctl → Ctl) : (k.updCtl f).rules = k.rules := rfl
@[simp] theorem Ctx.updCtl_regs (k : Ctx) (f : Ctl → Ctl) : (k.updCtl f).regs = k.regs := rfl
@[simp] theorem Ctx.updCtl_ch (k : Ctx) (f : Ctl → Ctl) : (k.updCtl f).ch = k.ch := rfl
@[simp] theorem Ctx.updCtl_chain (k : Ctx) (f : Ctl → Ctl) : (k.updCtl f).chain = k.chain := rfl
@[simp] theorem Ctx.updCtl_slotSt (k : Ctx) (f : Ctl → Ctl) : (k.updCtl f).slotSt = k.slotSt := rfl
@[simp] theorem Ctx.updCtl_sinkCnt (k : Ctx) (f : Ctl → Ctl) : (k.updCtl f).sinkCnt = k.sinkCnt := rfl
@[simp] theorem Ctx.updCtl_sinkDone (k : Ctx) (f : Ctl → Ctl) : (k.updCtl f).sinkDone = k.sinkDone := rfl
@[simp] theorem Ctx.updCtl_pend (k : Ctx) (f : Ctl → Ctl) : (k.updCtl f).pend = k.pend := rfl
@[simp] theorem Ctx.updCtl_stIssued (k : Ctx) (f : Ctl → Ctl) : (k.updCtl f).stIssued = k.stIssued := rfl
@[simp] theorem Ctx.updCtl_points (k : Ctx) (f : Ctl → Ctl) : (k.updCtl f).points = k.points := rfl
@[simp] theorem Ctx.updCtl_ports (k : Ctx) (f : Ctl → Ctl) : (k.updCtl f).ports = k.ports := rfl
@[simp] theorem Ctx.updCtl_drained (k : Ctx) (f : Ctl → Ctl) : (k.updCtl f).drained = k.drained := rfl
@[simp] theorem Ctx.updCtl_fenceMark (k : Ctx) (f : Ctl → Ctl) : (k.updCtl f).fenceMark = k.fenceMark := rfl

@[simp] theorem Ctx.setV_slots (k : Ctx) (i : Nat) (v : Vec) : (k.setV i v).slots = k.slots := rfl
@[simp] theorem Ctx.setV_rules (k : Ctx) (i : Nat) (v : Vec) : (k.setV i v).rules = k.rules := rfl
@[simp] theorem Ctx.setV_ch (k : Ctx) (i : Nat) (v : Vec) : (k.setV i v).ch = k.ch := rfl
@[simp] theorem Ctx.setV_ctl (k : Ctx) (i : Nat) (v : Vec) : (k.setV i v).ctl = k.ctl := rfl
@[simp] theorem Ctx.setV_chain (k : Ctx) (i : Nat) (v : Vec) : (k.setV i v).chain = k.chain := rfl
@[simp] theorem Ctx.setV_slotSt (k : Ctx) (i : Nat) (v : Vec) : (k.setV i v).slotSt = k.slotSt := rfl
@[simp] theorem Ctx.setV_sinkCnt (k : Ctx) (i : Nat) (v : Vec) : (k.setV i v).sinkCnt = k.sinkCnt := rfl
@[simp] theorem Ctx.setV_sinkDone (k : Ctx) (i : Nat) (v : Vec) : (k.setV i v).sinkDone = k.sinkDone := rfl
@[simp] theorem Ctx.setV_pend (k : Ctx) (i : Nat) (v : Vec) : (k.setV i v).pend = k.pend := rfl
@[simp] theorem Ctx.setV_stIssued (k : Ctx) (i : Nat) (v : Vec) : (k.setV i v).stIssued = k.stIssued := rfl
@[simp] theorem Ctx.setV_points (k : Ctx) (i : Nat) (v : Vec) : (k.setV i v).points = k.points := rfl
@[simp] theorem Ctx.setV_ports (k : Ctx) (i : Nat) (v : Vec) : (k.setV i v).ports = k.ports := rfl
@[simp] theorem Ctx.setV_drained (k : Ctx) (i : Nat) (v : Vec) : (k.setV i v).drained = k.drained := rfl
@[simp] theorem Ctx.setV_fenceMark (k : Ctx) (i : Nat) (v : Vec) : (k.setV i v).fenceMark = k.fenceMark := rfl

@[simp] theorem Ctx.setX_slots (k : Ctx) (i : Nat) (w : Dword) : (k.setX i w).slots = k.slots := rfl
@[simp] theorem Ctx.setX_rules (k : Ctx) (i : Nat) (w : Dword) : (k.setX i w).rules = k.rules := rfl
@[simp] theorem Ctx.setX_ch (k : Ctx) (i : Nat) (w : Dword) : (k.setX i w).ch = k.ch := rfl
@[simp] theorem Ctx.setX_ctl (k : Ctx) (i : Nat) (w : Dword) : (k.setX i w).ctl = k.ctl := rfl
@[simp] theorem Ctx.setX_chain (k : Ctx) (i : Nat) (w : Dword) : (k.setX i w).chain = k.chain := rfl
@[simp] theorem Ctx.setX_slotSt (k : Ctx) (i : Nat) (w : Dword) : (k.setX i w).slotSt = k.slotSt := rfl
@[simp] theorem Ctx.setX_sinkCnt (k : Ctx) (i : Nat) (w : Dword) : (k.setX i w).sinkCnt = k.sinkCnt := rfl
@[simp] theorem Ctx.setX_sinkDone (k : Ctx) (i : Nat) (w : Dword) : (k.setX i w).sinkDone = k.sinkDone := rfl
@[simp] theorem Ctx.setX_pend (k : Ctx) (i : Nat) (w : Dword) : (k.setX i w).pend = k.pend := rfl
@[simp] theorem Ctx.setX_stIssued (k : Ctx) (i : Nat) (w : Dword) : (k.setX i w).stIssued = k.stIssued := rfl
@[simp] theorem Ctx.setX_points (k : Ctx) (i : Nat) (w : Dword) : (k.setX i w).points = k.points := rfl
@[simp] theorem Ctx.setX_ports (k : Ctx) (i : Nat) (w : Dword) : (k.setX i w).ports = k.ports := rfl
@[simp] theorem Ctx.setX_drained (k : Ctx) (i : Nat) (w : Dword) : (k.setX i w).drained = k.drained := rfl
@[simp] theorem Ctx.setX_fenceMark (k : Ctx) (i : Nat) (w : Dword) : (k.setX i w).fenceMark = k.fenceMark := rfl

@[simp] theorem Ctx.setP_slots (k : Ctx) (i : Nat) (b : Bool) : (k.setP i b).slots = k.slots := rfl
@[simp] theorem Ctx.setP_rules (k : Ctx) (i : Nat) (b : Bool) : (k.setP i b).rules = k.rules := rfl
@[simp] theorem Ctx.setP_ch (k : Ctx) (i : Nat) (b : Bool) : (k.setP i b).ch = k.ch := rfl
@[simp] theorem Ctx.setP_ctl (k : Ctx) (i : Nat) (b : Bool) : (k.setP i b).ctl = k.ctl := rfl
@[simp] theorem Ctx.setP_chain (k : Ctx) (i : Nat) (b : Bool) : (k.setP i b).chain = k.chain := rfl
@[simp] theorem Ctx.setP_slotSt (k : Ctx) (i : Nat) (b : Bool) : (k.setP i b).slotSt = k.slotSt := rfl
@[simp] theorem Ctx.setP_sinkCnt (k : Ctx) (i : Nat) (b : Bool) : (k.setP i b).sinkCnt = k.sinkCnt := rfl
@[simp] theorem Ctx.setP_sinkDone (k : Ctx) (i : Nat) (b : Bool) : (k.setP i b).sinkDone = k.sinkDone := rfl
@[simp] theorem Ctx.setP_pend (k : Ctx) (i : Nat) (b : Bool) : (k.setP i b).pend = k.pend := rfl
@[simp] theorem Ctx.setP_stIssued (k : Ctx) (i : Nat) (b : Bool) : (k.setP i b).stIssued = k.stIssued := rfl
@[simp] theorem Ctx.setP_points (k : Ctx) (i : Nat) (b : Bool) : (k.setP i b).points = k.points := rfl
@[simp] theorem Ctx.setP_ports (k : Ctx) (i : Nat) (b : Bool) : (k.setP i b).ports = k.ports := rfl
@[simp] theorem Ctx.setP_drained (k : Ctx) (i : Nat) (b : Bool) : (k.setP i b).drained = k.drained := rfl
@[simp] theorem Ctx.setP_fenceMark (k : Ctx) (i : Nat) (b : Bool) : (k.setP i b).fenceMark = k.fenceMark := rfl

@[simp] theorem Ctx.setOtag_slots (k : Ctx) (i : Nat) (t : BitVec 4) : (k.setOtag i t).slots = k.slots := rfl
@[simp] theorem Ctx.setOtag_rules (k : Ctx) (i : Nat) (t : BitVec 4) : (k.setOtag i t).rules = k.rules := rfl
@[simp] theorem Ctx.setOtag_ch (k : Ctx) (i : Nat) (t : BitVec 4) : (k.setOtag i t).ch = k.ch := rfl
@[simp] theorem Ctx.setOtag_ctl (k : Ctx) (i : Nat) (t : BitVec 4) : (k.setOtag i t).ctl = k.ctl := rfl
@[simp] theorem Ctx.setOtag_chain (k : Ctx) (i : Nat) (t : BitVec 4) : (k.setOtag i t).chain = k.chain := rfl
@[simp] theorem Ctx.setOtag_slotSt (k : Ctx) (i : Nat) (t : BitVec 4) : (k.setOtag i t).slotSt = k.slotSt := rfl
@[simp] theorem Ctx.setOtag_sinkCnt (k : Ctx) (i : Nat) (t : BitVec 4) : (k.setOtag i t).sinkCnt = k.sinkCnt := rfl
@[simp] theorem Ctx.setOtag_sinkDone (k : Ctx) (i : Nat) (t : BitVec 4) : (k.setOtag i t).sinkDone = k.sinkDone := rfl
@[simp] theorem Ctx.setOtag_pend (k : Ctx) (i : Nat) (t : BitVec 4) : (k.setOtag i t).pend = k.pend := rfl
@[simp] theorem Ctx.setOtag_stIssued (k : Ctx) (i : Nat) (t : BitVec 4) : (k.setOtag i t).stIssued = k.stIssued := rfl
@[simp] theorem Ctx.setOtag_points (k : Ctx) (i : Nat) (t : BitVec 4) : (k.setOtag i t).points = k.points := rfl
@[simp] theorem Ctx.setOtag_ports (k : Ctx) (i : Nat) (t : BitVec 4) : (k.setOtag i t).ports = k.ports := rfl
@[simp] theorem Ctx.setOtag_drained (k : Ctx) (i : Nat) (t : BitVec 4) : (k.setOtag i t).drained = k.drained := rfl
@[simp] theorem Ctx.setOtag_fenceMark (k : Ctx) (i : Nat) (t : BitVec 4) : (k.setOtag i t).fenceMark = k.fenceMark := rfl

@[simp] theorem Ctx.putOut_slots (k : Ctx) (i : Nat) (t : Token) : (k.putOut i t).slots = k.slots := rfl
@[simp] theorem Ctx.putOut_rules (k : Ctx) (i : Nat) (t : Token) : (k.putOut i t).rules = k.rules := rfl
@[simp] theorem Ctx.putOut_regs (k : Ctx) (i : Nat) (t : Token) : (k.putOut i t).regs = k.regs := rfl
@[simp] theorem Ctx.putOut_ctl (k : Ctx) (i : Nat) (t : Token) : (k.putOut i t).ctl = k.ctl := rfl
@[simp] theorem Ctx.putOut_chain (k : Ctx) (i : Nat) (t : Token) : (k.putOut i t).chain = k.chain := rfl
@[simp] theorem Ctx.putOut_slotSt (k : Ctx) (i : Nat) (t : Token) : (k.putOut i t).slotSt = k.slotSt := rfl
@[simp] theorem Ctx.putOut_sinkCnt (k : Ctx) (i : Nat) (t : Token) : (k.putOut i t).sinkCnt = k.sinkCnt := rfl
@[simp] theorem Ctx.putOut_sinkDone (k : Ctx) (i : Nat) (t : Token) : (k.putOut i t).sinkDone = k.sinkDone := rfl
@[simp] theorem Ctx.putOut_pend (k : Ctx) (i : Nat) (t : Token) : (k.putOut i t).pend = k.pend := rfl
@[simp] theorem Ctx.putOut_stIssued (k : Ctx) (i : Nat) (t : Token) : (k.putOut i t).stIssued = k.stIssued := rfl
@[simp] theorem Ctx.putOut_points (k : Ctx) (i : Nat) (t : Token) : (k.putOut i t).points = k.points := rfl
@[simp] theorem Ctx.putOut_ports (k : Ctx) (i : Nat) (t : Token) : (k.putOut i t).ports = k.ports := rfl
@[simp] theorem Ctx.putOut_drained (k : Ctx) (i : Nat) (t : Token) : (k.putOut i t).drained = k.drained := rfl
@[simp] theorem Ctx.putOut_fenceMark (k : Ctx) (i : Nat) (t : Token) : (k.putOut i t).fenceMark = k.fenceMark := rfl

@[simp] theorem Ctx.removeAt_slots (k : Ctx) (i n : Nat) : (k.removeAt i n).slots = k.slots := rfl
@[simp] theorem Ctx.removeAt_rules (k : Ctx) (i n : Nat) : (k.removeAt i n).rules = k.rules := rfl
@[simp] theorem Ctx.removeAt_regs (k : Ctx) (i n : Nat) : (k.removeAt i n).regs = k.regs := rfl
@[simp] theorem Ctx.removeAt_ctl (k : Ctx) (i n : Nat) : (k.removeAt i n).ctl = k.ctl := rfl
@[simp] theorem Ctx.removeAt_chain (k : Ctx) (i n : Nat) : (k.removeAt i n).chain = k.chain := rfl
@[simp] theorem Ctx.removeAt_slotSt (k : Ctx) (i n : Nat) : (k.removeAt i n).slotSt = k.slotSt := rfl
@[simp] theorem Ctx.removeAt_sinkCnt (k : Ctx) (i n : Nat) : (k.removeAt i n).sinkCnt = k.sinkCnt := rfl
@[simp] theorem Ctx.removeAt_sinkDone (k : Ctx) (i n : Nat) : (k.removeAt i n).sinkDone = k.sinkDone := rfl
@[simp] theorem Ctx.removeAt_pend (k : Ctx) (i n : Nat) : (k.removeAt i n).pend = k.pend := rfl
@[simp] theorem Ctx.removeAt_stIssued (k : Ctx) (i n : Nat) : (k.removeAt i n).stIssued = k.stIssued := rfl
@[simp] theorem Ctx.removeAt_points (k : Ctx) (i n : Nat) : (k.removeAt i n).points = k.points := rfl
@[simp] theorem Ctx.removeAt_ports (k : Ctx) (i n : Nat) : (k.removeAt i n).ports = k.ports := rfl
@[simp] theorem Ctx.removeAt_drained (k : Ctx) (i n : Nat) : (k.removeAt i n).drained = k.drained := rfl
@[simp] theorem Ctx.removeAt_fenceMark (k : Ctx) (i n : Nat) : (k.removeAt i n).fenceMark = k.fenceMark := rfl

@[simp] theorem Ctx.setSlot_slots (k : Ctx) (i : Nat) (t : SlotState) : (k.setSlot i t).slots = k.slots := rfl
@[simp] theorem Ctx.setSlot_rules (k : Ctx) (i : Nat) (t : SlotState) : (k.setSlot i t).rules = k.rules := rfl
@[simp] theorem Ctx.setSlot_regs (k : Ctx) (i : Nat) (t : SlotState) : (k.setSlot i t).regs = k.regs := rfl
@[simp] theorem Ctx.setSlot_ch (k : Ctx) (i : Nat) (t : SlotState) : (k.setSlot i t).ch = k.ch := rfl
@[simp] theorem Ctx.setSlot_ctl (k : Ctx) (i : Nat) (t : SlotState) : (k.setSlot i t).ctl = k.ctl := rfl
@[simp] theorem Ctx.setSlot_chain (k : Ctx) (i : Nat) (t : SlotState) : (k.setSlot i t).chain = k.chain := rfl
@[simp] theorem Ctx.setSlot_sinkCnt (k : Ctx) (i : Nat) (t : SlotState) : (k.setSlot i t).sinkCnt = k.sinkCnt := rfl
@[simp] theorem Ctx.setSlot_sinkDone (k : Ctx) (i : Nat) (t : SlotState) : (k.setSlot i t).sinkDone = k.sinkDone := rfl
@[simp] theorem Ctx.setSlot_pend (k : Ctx) (i : Nat) (t : SlotState) : (k.setSlot i t).pend = k.pend := rfl
@[simp] theorem Ctx.setSlot_stIssued (k : Ctx) (i : Nat) (t : SlotState) : (k.setSlot i t).stIssued = k.stIssued := rfl
@[simp] theorem Ctx.setSlot_points (k : Ctx) (i : Nat) (t : SlotState) : (k.setSlot i t).points = k.points := rfl
@[simp] theorem Ctx.setSlot_ports (k : Ctx) (i : Nat) (t : SlotState) : (k.setSlot i t).ports = k.ports := rfl
@[simp] theorem Ctx.setSlot_drained (k : Ctx) (i : Nat) (t : SlotState) : (k.setSlot i t).drained = k.drained := rfl
@[simp] theorem Ctx.setSlot_fenceMark (k : Ctx) (i : Nat) (t : SlotState) : (k.setSlot i t).fenceMark = k.fenceMark := rfl

end Sys2Proof.Machine
end

