-- ==== Sys2Proof/Laws/Firing.lean ====
section
/-! SUPPORT. The end of a firing (R80), said once: what removing heads, the rule's updates and a result leave of the state. The meanings
that retire with or without a result are covered by `State.finish_fires` and `State.done_fires`. -/

namespace Sys2Proof.Machine

theorem SameBut.refl (c : Nat) (s : State) : SameBut c s s := ⟨fun _ _ => rfl, rfl, rfl, rfl, rfl, rfl, fun _ => rfl, rfl, rfl, rfl, rfl⟩

theorem SameBut.trans {c : Nat} {s t u : State} (h : SameBut c s t) (g : SameBut c t u) : SameBut c s u :=
  ⟨fun d hd => (g.ctxs d hd).trans (h.ctxs d hd), g.elems.trans h.elems, g.regions.trans h.regions, g.flight.trans h.flight,
   g.fans.trans h.fans, g.reqs.trans h.reqs, fun a => (g.bytes a).trans (h.bytes a), g.pkg.trans h.pkg, g.cycle.trans h.cycle,
   g.agenda.trans h.agenda, g.cur.trans h.cur⟩

theorem SameBut.updCtx (c : Nat) (f : Ctx → Ctx) (s : State) : SameBut c s (s.updCtx c f) :=
  ⟨fun _ hd => State.ctx_updCtx_ne s f hd, rfl, rfl, rfl, rfl, rfl, fun _ => rfl, rfl, rfl, rfl, rfl⟩

/-- What a state has in common with another that differs from it in context c alone. -/
theorem SameBut.routeMode {c : Nat} {s t : State} (h : SameBut c s t) (d : Nat) : t.routeMode d = s.routeMode d := by
  simp [State.routeMode, State.res, State.region, h.regions]

/-! ### Heads removed -/

@[simp] theorem Ctx.buf_removeAt (k : Ctx) (i n j : Nat) : (k.removeAt i n).buf j = if j = i then listDrop (k.buf i) n else k.buf j := by
  simp [Ctx.buf, Ctx.removeAt, Ctx.updCh, SMap.get_set]

/-- A context differs from another in its buffers and their counts alone. -/
structure BufsOnly (k k' : Ctx) : Prop where
  outr : k'.ch.outr = k.ch.outr
  emtd : k'.ch.emtd = k.ch.emtd
  stall : k'.ch.stall = k.ch.stall
  rest : { k' with ch := k.ch } = k

theorem BufsOnly.refl (k : Ctx) : BufsOnly k k := ⟨rfl, rfl, rfl, rfl⟩

theorem BufsOnly.trans {a b c : Ctx} (h : BufsOnly a b) (g : BufsOnly b c) : BufsOnly a c := by
  refine ⟨g.outr.trans h.outr, g.emtd.trans h.emtd, g.stall.trans h.stall, ?_⟩
  have h2 := g.rest
  have h1 := h.rest
  rw [← h2] at h1
  exact h1

theorem BufsOnly.regs {k k' : Ctx} (h : BufsOnly k k') : k'.regs = k.regs := (congrArg Ctx.regs h.rest :)
theorem BufsOnly.pend {k k' : Ctx} (h : BufsOnly k k') : k'.pend = k.pend := (congrArg Ctx.pend h.rest :)

/-- What removing the heads of some inputs does. -/
structure Dequeued (s t : State) (l : List Nat) : Prop where
  same : SameBut s.cur.cid s t
  only : BufsOnly s.my t.my
  pendNo : t.pendNo = s.pendNo
  buf : ∀ j, t.my.buf j = if j ∈ l then withoutHead (s.routeMode s.cur.cid) s.cur.rule j (s.my.buf j) else s.my.buf j

theorem State.dequeue_spec (s : State) (k : Nat) : Dequeued s (s.dequeue k) [k] := by
  unfold State.dequeue
  split
  · rename_i h
    refine ⟨SameBut.refl _ _, BufsOnly.refl _, rfl, fun j => ?_⟩
    by_cases hj : j = k
    · subst hj; simp [withoutHead, h]
    · simp [hj]
  · rename_i n h
    refine ⟨SameBut.updCtx _ _ _, ?_, rfl, fun j => ?_⟩
    · rw [State.my_updCtx]; exact ⟨rfl, rfl, rfl, rfl⟩
    · rw [State.my_updCtx, Ctx.buf_removeAt]
      by_cases hj : j = k
      · subst hj; simp [withoutHead, h]
      · simp [hj]

theorem State.dequeues_spec (l : List Nat) (hl : l.Nodup) (s : State) : Dequeued s (s.dequeues l) l := by
  induction l generalizing s with
  | nil => exact ⟨SameBut.refl _ _, BufsOnly.refl _, rfl, fun j => by simp [State.dequeues]⟩
  | cons k t ih =>
    have ⟨hk, ht⟩ := List.nodup_cons.mp hl
    have h1 := State.dequeue_spec s k
    have h2 := ih ht (s.dequeue k)
    simp only [State.dequeues]
    have hc := h1.same.cur
    have hm : (s.dequeue k).my.buf = s.my.buf ∨ True := .inr trivial
    refine ⟨h1.same.trans (hc ▸ h2.same), ?_, h2.pendNo.trans h1.pendNo, fun j => ?_⟩
    · exact h1.only.trans h2.only
    · rw [h2.buf j, h1.buf j, h1.same.routeMode, hc]
      by_cases hj : j = k
      · subst hj; simp [hk]
      · simp [hj]

/-! ### The rule's updates -/

theorem getLsbD_putBit {n : Nat} (a : BitVec n) (k j : Nat) (b : Bool) (hj : j < n) :
    (putBit a k b).getLsbD j = if j = k then b else a.getLsbD j := by
  have e : (BitVec.ofNat n (2 ^ k)).getLsbD j = decide (k = j) := by
    rw [BitVec.getLsbD_ofNat, Nat.testBit_two_pow]; simp [hj]
  unfold putBit
  by_cases h : j = k
  · cases b <;> simp only [h, if_true, if_false, Bool.false_eq_true, BitVec.getLsbD_or, BitVec.getLsbD_and, BitVec.getLsbD_not] <;>
      subst h <;> simp only [e, hj] <;> simp
  · cases b <;> simp only [h, if_true, if_false, Bool.false_eq_true, BitVec.getLsbD_or, BitVec.getLsbD_and, BitVec.getLsbD_not, e, hj] <;>
      simp [Ne.symm h]

theorem Ctx.p_setP (k : Ctx) (i j : Nat) (b : Bool) (hj : j < 128) : (k.setP i b).p j = if j = i then b else k.p j := by
  simp [Ctx.p, Ctx.setP, Ctx.updRegs, getLsbD_putBit _ _ _ _ hj]

theorem Ctx.p_update (k : Ctx) (u : Bool × Bool × Nat) (j : Nat) (hj : j < 128) :
    (k.update u).p j = if u.1 = true ∧ u.2.2 = j then u.2.1 else k.p j := by
  unfold Ctx.update
  split
  · rename_i h; rw [Ctx.p_setP _ _ _ _ hj]; simp only [h, true_and, eq_comm]
  · rename_i h; simp [h]

/-- A context differs from another in its predicates alone. -/
theorem Ctx.update_regs (k : Ctx) (u : Bool × Bool × Nat) : { (k.update u).regs with p := k.regs.p } = k.regs := by
  unfold Ctx.update; split <;> rfl

theorem Ctx.update_rest (k : Ctx) (u : Bool × Bool × Nat) : { k.update u with regs := k.regs } = k := by
  unfold Ctx.update; split <;> rfl

theorem Ctx.update_ch (k : Ctx) (u : Bool × Bool × Nat) : (k.update u).ch = k.ch := by
  unfold Ctx.update; split <;> rfl

/-! ### Retirement -/

theorem nodup_dequeued (r : RuleEntry) (own : List Nat) : ((List.range 8).filter fun k => ruleDq r k || own.contains k).Nodup :=
  (List.filter_sublist ..).nodup List.nodup_range

/-- Retirement (R80): the state outside the context is as it was, and the context is as its rule leaves it. -/
theorem State.retire_spec (s : State) (own : List Nat) :
    SameBut s.cur.cid s (s.retire own) ∧ Ruled s (s.retire own) own ∧ (s.retire own).my.pend = s.my.pend
      ∧ (s.retire own).pendNo = s.pendNo := by
  have h := State.dequeues_spec _ (nodup_dequeued s.cur.rule own) s
  generalize hd : s.dequeues ((List.range 8).filter fun k => ruleDq s.cur.rule k || own.contains k) = u at h
  have e : s.retire own = u.updCtx s.cur.cid fun k => ((k.update (ruleU s.cur.rule 0)).update (ruleU s.cur.rule 1)).updRegs
      fun r => { r with fcount := r.fcount + 1 } := by simp only [State.retire, hd]
  have hc : u.cur = s.cur := h.same.cur
  have hmy : (s.retire own).my = ((u.my.update (ruleU s.cur.rule 0)).update (ruleU s.cur.rule 1)).updRegs
      fun r => { r with fcount := r.fcount + 1 } := by rw [e, ← hc]; exact State.my_updCtx _ _
  have hu1 := Ctx.update_rest u.my (ruleU s.cur.rule 0)
  have hu2 := Ctx.update_rest (u.my.update (ruleU s.cur.rule 0)) (ruleU s.cur.rule 1)
  have hr1 := Ctx.update_regs u.my (ruleU s.cur.rule 0)
  have hr2 := Ctx.update_regs (u.my.update (ruleU s.cur.rule 0)) (ruleU s.cur.rule 1)
  have hr := h.only.regs
  have hch : (s.retire own).my.ch = u.my.ch := by rw [hmy, Ctx.updRegs_ch, Ctx.update_ch, Ctx.update_ch]
  refine ⟨?_, ?_, ?_, ?_⟩
  · rw [e]; exact h.same.trans (SameBut.updCtx _ _ _)
  · refine ⟨?_, ?_, ?_, ?_, ?_, ?_, ?_, ?_⟩
    · intro n hn
      have : (s.retire own).my.p n = ((u.my.update (ruleU s.cur.rule 0)).update (ruleU s.cur.rule 1)).p n := by rw [hmy]; rfl
      rw [this, Ctx.p_update _ _ _ hn, Ctx.p_update _ _ _ hn]
      simp [ruledPred, Ctx.p, hr]
    · have := congrArg Regs.fcount hr1
      have h2 := congrArg Regs.fcount hr2
      rw [hmy]; simp only [Ctx.updRegs]
      simp only at this h2; rw [h2, this, hr]
    · rw [hmy, ← hr]; simp only [Ctx.updRegs]
      have a := congrArg (fun r : Regs => { r with p := u.my.regs.p, fcount := u.my.regs.fcount }) hr2
      have b := congrArg (fun r : Regs => { r with p := u.my.regs.p, fcount := u.my.regs.fcount }) hr1
      exact a.trans b
    · intro k
      have : (s.retire own).my.buf k = u.my.buf k := by simp only [Ctx.buf, hch]
      rw [this, h.buf k]
      simp [List.mem_filter, List.mem_range]
    · rw [hch, h.only.outr]
    · rw [hch, h.only.emtd]
    · rw [hch, h.only.stall]
    · have hrest := h.only.rest
      rw [hmy]
      have a := congrArg (fun k : Ctx => { k with regs := s.my.regs, ch := s.my.ch, pend := s.my.pend }) hu2
      have b := congrArg (fun k : Ctx => { k with regs := s.my.regs, ch := s.my.ch, pend := s.my.pend }) hu1
      have c := congrArg (fun k : Ctx => { k with regs := s.my.regs, ch := s.my.ch, pend := s.my.pend }) hrest
      exact a.trans (b.trans c)
  · rw [hmy]
    have a := congrArg Ctx.pend hu2
    have b := congrArg Ctx.pend hu1
    exact (a.trans b).trans h.only.pend
  · rw [e]; exact h.pendNo

theorem State.done_fires (s : State) (own : List Nat) : ∃ t, s.done own = .next t ∧ s.FiresBare t own :=
  ⟨_, rfl, (s.retire_spec own).1, (s.retire_spec own).2.1, (s.retire_spec own).2.2.1⟩

/-! ### A result appended -/

@[simp] theorem State.cur_pushPend (s : State) (c : Nat) (p : Pend) : (s.pushPend c p).cur = s.cur := rfl
@[simp] theorem State.my_pushPend (s : State) (p : Pend) : (s.pushPend s.cur.cid p).my = { s.my with pend := s.my.pend ++ [p] } :=
  State.my_updCtx s fun k => { k with pend := k.pend ++ [p] }

theorem State.pushPend_same (s : State) (c : Nat) (p : Pend) : SameBut c s (s.pushPend c p) :=
  (SameBut.updCtx c (fun k => { k with pend := k.pend ++ [p] }) s).trans
    ⟨fun _ _ => rfl, rfl, rfl, rfl, rfl, rfl, fun _ => rfl, rfl, rfl, rfl, rfl⟩

theorem Ruled.of_pend {s s1 t : State} {own : List Nat} (h : Ruled s1 t own) (hc : s1.cur = s.cur) (hr : s1.routeMode s.cur.cid = s.routeMode s.cur.cid)
    {q : List Pend} (hm : s1.my = { s.my with pend := q }) : Ruled s t own := by
  have e1 : s1.my.regs = s.my.regs := by rw [hm]
  have e2 : s1.my.ch = s.my.ch := by rw [hm]
  refine ⟨?_, ?_, ?_, ?_, ?_, ?_, ?_, ?_⟩
  · intro n hn; rw [h.preds n hn, hc]; simp [Ctx.p, e1, ruledPred]
  · rw [h.fcount, e1]
  · have := h.regs; rw [e1] at this; exact this
  · intro k; rw [h.buf k, hc, hr]; simp [Ctx.buf, e2]
  · rw [h.outr, e2]
  · rw [h.emtd, e2]
  · rw [h.stall, e2]
  · have a := h.rest
    rw [hm] at a
    have b := congrArg (fun k : Ctx => { k with pend := s.my.pend }) a
    exact b

theorem State.finish_fires (s : State) (lat : Nat) (effs : List Eff) (own : List Nat) :
    ∃ t, s.finish lat effs own = .next t ∧ s.FiresWith t lat effs own := by
  refine ⟨_, rfl, ?_⟩
  have h := (s.addPend s.cur.cid lat effs).retire_spec own
  have hs : SameBut s.cur.cid s (s.addPend s.cur.cid lat effs) := s.pushPend_same _ _
  refine ⟨hs.trans h.1, h.2.1.of_pend rfl rfl (s.my_pushPend _), ?_⟩
  rw [h.2.2.1]; exact congrArg Ctx.pend (s.my_pushPend _)

/-! ### Meanings that retire -/

theorem State.gives_of_finish {s u : State} {i : Instr} {lat : Nat} {effs : List Eff} {own : List Nat}
    (h : exec i s = u.finish lat effs own) : s.GivesFrom u i lat effs own := by
  obtain ⟨t, ht, hf⟩ := u.finish_fires lat effs own
  exact ⟨t, h.trans ht, hf⟩

theorem State.ends_of_done {s u : State} {i : Instr} {own : List Nat} (h : exec i s = u.done own) : s.EndsFrom u i own := by
  obtain ⟨t, ht, hf⟩ := u.done_fires own
  exact ⟨t, h.trans ht, hf⟩

/-- Poison on no source: a lane-wise instruction retires with its result (R116). -/
theorem State.laneOp_clean {s : State} {l : List Src} (h : s.poisoned l = none) (lat : Nat) (d : Dst) (v : Vec) (fl : BitVec 32) :
    s.laneOp lat d l v fl = s.finish lat (s.write d (.vec v) s.my.regs.mask ++ if fl = 0 then [] else [.flags fl]) := by
  simp only [State.laneOp, h]

theorem State.scalarOp_clean {s : State} {l : List Src} (h : s.poisoned l = none) (lat : Nat) (d : Dst) (w : Dword) :
    s.scalarOp lat d l w = s.finish lat (s.write d (.sca w) s.my.regs.mask) := by
  simp only [State.scalarOp, h, ite_true, List.append_nil]

/-- Poison on a source of a lane-wise or scalar instruction propagates in place of its result (R89). -/
theorem State.laneOp_poison {s : State} {l : List Src} {p : Token} (h : s.poisoned l = some p) (lat : Nat) (d : Dst) (v : Vec)
    (fl : BitVec 32) : s.laneOp lat d l v fl = s.poisonTo d lat p := by
  simp only [State.laneOp, h]

theorem State.scalarOp_poison {s : State} {l : List Src} {p : Token} (h : s.poisoned l = some p) (lat : Nat) (d : Dst) (w : Dword)
    (fl : BitVec 32) : s.scalarOp lat d l w fl = s.poisonTo d lat p := by
  simp only [State.scalarOp, h]

/-! ### Integer instructions in their two shapes (R114) -/

theorem State.givesInt2_of {s : State} {i : Instr} {d : Dst} {a b : Src} {lv ls : Nat} {g : Nat → Nat → Nat → Nat}
    {f : (w : Nat) → BitVec w → BitVec w → BitVec w} (h : exec i s = s.int2 lv ls d a b g) (hp : s.poisoned [a, b] = none)
    (h32 : ∀ x y : BitVec 32, BitVec.ofNat 32 (g 32 x.toNat y.toNat) = f 32 x y)
    (h64 : ∀ x y : BitVec 64, BitVec.ofNat 64 (g 64 x.toNat y.toNat) = f 64 x y) : s.GivesInt2 i d a b lv ls f := by
  unfold State.GivesInt2
  split <;> rename_i hd <;> refine State.gives_of_finish (h.trans ?_)
  · simp only [State.int2, hd, if_true, State.scalarOp_clean hp, h64]
  · simp [State.int2, hd, State.laneOp_clean hp, h32]

theorem State.givesInt1_of {s : State} {i : Instr} {d : Dst} {a : Src} {lv ls : Nat} {g : Nat → Nat → Nat}
    {f : (w : Nat) → BitVec w → BitVec w} (h : exec i s = s.int1 lv ls d a g) (hp : s.poisoned [a] = none)
    (h32 : ∀ x : BitVec 32, BitVec.ofNat 32 (g 32 x.toNat) = f 32 x)
    (h64 : ∀ x : BitVec 64, BitVec.ofNat 64 (g 64 x.toNat) = f 64 x) : s.GivesInt1 i d a lv ls f := by
  unfold State.GivesInt1
  split <;> rename_i hd <;> refine State.gives_of_finish (h.trans ?_)
  · simp only [State.int1, hd, if_true, State.scalarOp_clean hp, h64]
  · simp [State.int1, hd, State.laneOp_clean hp, h32]

theorem State.givesInt3_of {s : State} {i : Instr} {d : Dst} {a b : Src} {lv ls : Nat} {g : Nat → Nat → Nat → Nat → Nat}
    {f : (w : Nat) → BitVec w → BitVec w → BitVec w → BitVec w} (h : exec i s = s.int3 lv ls d a b g) (hp : s.poisoned [a, b] = none)
    (h32 : ∀ z x y : BitVec 32, BitVec.ofNat 32 (g 32 z.toNat x.toNat y.toNat) = f 32 z x y)
    (h64 : ∀ z x y : BitVec 64, BitVec.ofNat 64 (g 64 z.toNat x.toNat y.toNat) = f 64 z x y) : s.GivesInt3 i d a b lv ls f := by
  unfold State.GivesInt3
  split <;> rename_i hd <;> refine State.gives_of_finish (h.trans ?_)
  · simp only [State.int3, hd, if_true, State.scalarOp_clean hp, h64]
  · simp [State.int3, hd, State.laneOp_clean hp, h32]

end Sys2Proof.Machine
end

