-- ==== Sys2Proof/Laws/Float.lean ====
section
/-! SUPPORT. Flags and lanes of the float instructions (R147, R155), said once: a lane-wise float instruction raises exactly the flags of the
lanes under the mask and writes their results. -/

namespace Sys2Proof.Machine

theorem Fl.bits_or (f g : Fl) (j : Nat) : (f.or g).bits.getLsbD j = (f.bits.getLsbD j || g.bits.getLsbD j) := by
  rw [← BitVec.getLsbD_or]
  have h : ∀ a b c d e a' b' c' d' e' : Bool,
      (Fl.or ⟨a, b, c, d, e⟩ ⟨a', b', c', d', e'⟩).bits = (Fl.bits ⟨a, b, c, d, e⟩ ||| Fl.bits ⟨a', b', c', d', e'⟩) := by
    decide
  rw [show (f.or g).bits = f.bits ||| g.bits from h ..]

/-- A list of flags raises what one of them raises. -/
theorem Fl.bits_all (l : List Fl) (j : Nat) : (Fl.all l).bits.getLsbD j = true ↔ ∃ f ∈ l, f.bits.getLsbD j = true := by
  induction l with
  | nil => simp [Fl.all, show Fl.bits {} = 0 from by decide]
  | cons a t ih => simp [Fl.all, Fl.bits_or, ih]

/-- The flags of the lanes under a mask, as the float instructions collect them. -/
theorem flagsOf_lanes (mask : Mask) (f : Nat → Fl) :
    FlagsOf mask f (Fl.all ((List.range 192).map fun i => if mask.getLsbD i then f i else {})).bits := by
  intro j _
  rw [Fl.bits_all]
  constructor
  · rintro ⟨g, hg, hj⟩
    obtain ⟨k, hk, rfl⟩ := List.mem_map.1 hg
    by_cases hm : mask.getLsbD k
    · exact ⟨k, List.mem_range.1 hk, hm, by simpa [hm] using hj⟩
    · simp only [hm] at hj; simp [show Fl.bits {} = 0 from by decide] at hj
  · rintro ⟨k, hk, hm, hj⟩
    exact ⟨f k, List.mem_map.2 ⟨k, List.mem_range.2 hk, by simp [hm]⟩, hj⟩

/-- A lane-wise float instruction with clean sources gives its lanes and flags. -/
theorem State.givesFloat_of {s u : State} {i : Instr} {lat : Nat} {d : Dst} {l : List Src} {f : Nat → Fr}
    (h : exec i s = u.fLanes lat d l f) (hp : u.poisoned l = none) (hm : u.my.regs.mask = s.my.regs.mask)
    (hw : ∀ v m, u.write d v m = s.write d v m) : s.GivesFloat u i lat d f := by
  let rs : List Fr := (List.range 192).map fun k => if s.my.regs.mask.getLsbD k then f k else (0, {})
  refine ⟨⟨rs.map Prod.fst⟩, (Fl.all (rs.map Prod.snd)).bits, ?_, ?_, State.gives_of_finish ?_⟩
  · intro k hk hv; simp [rs, Vec.get, hk, hv]
  · have := flagsOf_lanes s.my.regs.mask fun k => (f k).2
    have e : (rs.map Prod.snd) = (List.range 192).map fun i => if s.my.regs.mask.getLsbD i then (f i).2 else {} := by
      simp only [rs, List.map_map]; apply List.map_congr_left; intro k _; simp only [Function.comp]; split <;> rfl
    rw [e]; exact this
  · rw [h]; simp only [State.fLanes, hm, State.laneOp_clean hp, hw, flagPart, rs]

end Sys2Proof.Machine
end

