-- ==== Sys2Proof/Laws/Memory.lean ====
section
/-! SUPPORT. Memory: what reading gives after a write, and that every operation that changes memory keeps its canonical form. -/

namespace Sys2Proof.Machine

/-! ### Bytes -/

theorem memGet_memPut (m : List Host.Cell) (a x : Nat) (b : Byte) : memGet (memPut m a b) x = if x = a then b else memGet m x := by
  unfold memGet memPut
  split
  · next h => subst h; exact SMap.get_del m a x 0
  · exact SMap.get_set m a x b 0

/-- Reading after a write: the bytes written, and every other as before. -/
theorem memGet_memWrite (l : List Byte) (m : List Host.Cell) (a x : Nat) :
    memGet (memWrite m a l) x = if a ≤ x ∧ x < a + l.length then l.getD (x - a) 0 else memGet m x := by
  induction l generalizing m a with
  | nil => simp [memWrite, show ¬ (a ≤ x ∧ x < a) by omega]
  | cons b t ih =>
    rw [memWrite, ih, memGet_memPut]
    by_cases h : x = a
    · subst h; simp [show ¬ (x + 1 ≤ x) by omega]
    · by_cases g : a + 1 ≤ x ∧ x < a + 1 + t.length
      · rw [if_pos g, if_pos ⟨by omega, by simp only [List.length_cons]; omega⟩, show x - a = (x - (a + 1)) + 1 by omega]; rfl
      · rw [if_neg g, if_neg h, if_neg (by simp only [List.length_cons]; omega)]

theorem memRead_length (m : List Host.Cell) (a n : Nat) : (memRead m a n).length = n := by simp [memRead, rangeFrom]

/-! ### The canonical form -/

theorem Memory.wf_iff (m : List Host.Cell) : Memory.wf m = true ↔ SMap.ordered m = true ∧ ∀ c ∈ m, c.2 ≠ 0 := by
  simp [Memory.wf, List.all_eq_true]

theorem Memory.wf_put {m : List Host.Cell} (h : Memory.wf m = true) (a : Nat) (b : Byte) : Memory.wf (memPut m a b) = true := by
  rw [Memory.wf_iff] at *
  unfold memPut
  split
  · exact ⟨SMap.ordered_del a h.1, fun c hc => h.2 c (by rw [SMap.del_eq_filter] at hc; exact (List.mem_filter.mp hc).1)⟩
  · next hb =>
    refine ⟨SMap.ordered_set a b h.1, fun c hc => ?_⟩
    rcases SMap.mem_set hc with rfl | hc
    · exact hb
    · exact h.2 c hc

theorem Memory.wf_write (l : List Byte) {m : List Host.Cell} (h : Memory.wf m = true) (a : Nat) : Memory.wf (memWrite m a l) = true := by
  induction l generalizing m a with
  | nil => exact h
  | cons b t ih => exact ih (Memory.wf_put h a b) (a + 1)

theorem Memory.wf_filter {m : List Host.Cell} (h : Memory.wf m = true) (f : Host.Cell → Bool) : Memory.wf (m.filter f) = true := by
  rw [Memory.wf_iff] at *
  exact ⟨SMap.ordered_filter f h.1, fun c hc => h.2 c (List.mem_filter.mp hc).1⟩

/-- The memory of the machine after reset has the canonical form. -/
theorem State.reset_mem_wf : Memory.wf State.reset.mem = true := rfl

/-! ### Every operation keeps it -/

variable {s : State}

theorem State.put_wf (h : Memory.wf s.mem = true) (slot a : Nat) (l : List Byte) : Memory.wf (s.put slot a l).mem = true := by
  unfold State.put
  split
  · exact Memory.wf_write _ (Memory.wf_write _ h _) _
  · exact Memory.wf_write _ h _

theorem State.putLong_wf (slot f : Nat) (h : Memory.wf s.mem = true) (a : Nat) (l : List Byte) : Memory.wf (s.putLong slot f a l).mem = true := by
  induction f generalizing s a l with
  | zero => exact h
  | succ f ih =>
    unfold State.putLong
    split
    · exact h
    · exact ih (State.put_wf h _ _ _) _ _

theorem State.revive_wf (h : Memory.wf s.mem = true) (slot a : Nat) : Memory.wf (s.revive slot a).mem = true := by
  unfold State.revive
  split
  · exact h
  · exact Memory.wf_filter h _

theorem State.putEntry_wf (h : Memory.wf s.mem = true) (a w : Nat) : Memory.wf (s.putEntry a w).mem = true := State.put_wf h _ _ _

theorem State.writePieces_wf (l : List (Nat × Nat × Nat)) (h : Memory.wf s.mem = true) (b : List Byte) : Memory.wf (s.writePieces l b).mem = true := by
  induction l generalizing s b with
  | nil => exact h
  | cons p t ih =>
    refine ih (State.putLong_wf _ _ (State.revive_wf ?_ _ _) _ _) _
    split <;> exact h

/-- An operation applied over a list keeps a property of the state that each application keeps. -/
theorem foldl_keeps {σ α : Type} (p : σ → Prop) (f : σ → α → σ) (l : List α) {x : σ} (h : p x) (k : ∀ x a, p x → p (f x a)) : p (l.foldl f x) := by
  induction l generalizing x with
  | nil => exact h
  | cons a t ih => exact ih (k x a h)

theorem State.touch_wf (h : Memory.wf s.mem = true) (asid : Nat) (write : Bool) (va n : Nat) : Memory.wf (s.touch asid write va n).mem = true := by
  refine foldl_keeps (fun s : State => Memory.wf s.mem = true) _ _ h fun x a hx => ?_
  dsimp only
  split
  · exact State.putEntry_wf hx _ _
  · exact hx

theorem State.newTable_wf (h : Memory.wf s.mem = true) (a n : Nat) : Memory.wf (s.newTable a n).mem = true := Memory.wf_filter h _

theorem State.moveFrame_wf (k : Nat) (h : Memory.wf s.mem = true) (old new oslot nslot : Nat) :
    Memory.wf (s.moveFrame old new oslot nslot k).mem = true := by
  induction k generalizing s with
  | zero => exact h
  | succ k ih =>
    unfold State.moveFrame
    refine ih ?_
    split
    · exact Memory.wf_write _ h _
    · exact State.put_wf h _ _ _

theorem State.wakeGran_wf (h : Memory.wf s.mem = true) (g : Nat) : Memory.wf (s.wakeGran g).mem = true := by
  unfold State.wakeGran
  generalize (List.range 65536).map (fun i => Config.staleByte (65536 * g + i) s.free) = l
  split
  · exact Memory.wf_write l (State.revive_wf h _ _) _
  · exact h

theorem State.rawPut_wf (h : Memory.wf s.mem = true) (a : Nat) (l : List Byte) : Memory.wf (s.rawPut a l).mem = true := by
  unfold State.rawPut
  generalize s.hostAt a = a
  dsimp only
  split
  · exact h
  split
  · exact h
  · have hr := State.revive_wf h 0 a
    generalize s.revive 0 a = u at hr ⊢
    split
    · exact Memory.wf_write _ hr _
    · exact Memory.wf_write _ (Memory.wf_write _ hr _) _

theorem State.rawWrite_wf (f : Nat) (h : Memory.wf s.mem = true) (a : Nat) (l : List Byte) : Memory.wf (s.rawWrite f a l).mem = true := by
  induction f generalizing s a l with
  | zero => exact h
  | succ f ih =>
    unfold State.rawWrite
    split
    · exact h
    · exact ih (State.rawPut_wf h _ _) _ _

theorem State.storeRecord_wf (h : Memory.wf s.mem = true) (asid va : Nat) (b : List Byte) {t : State} (ht : s.storeRecord asid va b = some t) :
    Memory.wf t.mem = true := by
  unfold State.storeRecord at ht
  split at ht <;> cases ht
  exact State.writePieces_wf _ (State.touch_wf h _ _ _ _) _

/-- Reporting what a loader's or scheduler's access met writes no memory. -/
theorem State.metReach_mem (lid asid : Nat) (r : Reach) : (s.metReach lid asid r).mem = s.mem := by
  unfold State.metReach
  split
  · split
    · unfold State.reportMigrated
      split <;> rfl
    · rfl
  all_goals rfl

theorem State.giveRecord_wf (h : Memory.wf s.mem = true) (lid asid va : Nat) (b : List Byte) :
    Memory.wf (s.giveRecord lid asid va b).mem = true := by
  unfold State.giveRecord
  split
  · next ht => exact State.storeRecord_wf h _ _ _ ht
  · change Memory.wf (State.metReach _ _ _ _).mem = true
    rw [State.metReach_mem]
    exact h

end Sys2Proof.Machine
end

