-- ==== Sys2Proof/Tests/Slice0.lean ====
section
/-! SUPPORT. The model's own tests: words written out from the manual's encoding tables decode to their instructions; an ill-formed term for
each check of WellFormed; for every statement with hypotheses a state and operands that meet them; and single steps on small states. Expected
values come from the manual or from arithmetic by hand on its rules. -/

namespace Sys2Proof.Tests
open Sys2Proof Sys2Proof.Machine

-- one kernel check at a time: many at once would hold a thread each
set_option Elab.async false

/-! ### Small states -/

/-- Reset, with one context and its firing in hand. -/
def one (c : Nat) (k : Ctx) : State := { State.reset with ctxs := [(c, k)], cur := { cid := c } }
/-- A context whose inputs hold tokens. -/
def fed (l : SMap (List Token)) (m : Mask := Mask.full) : Ctx := { regs := { mask := m, x := [(0, 9), (1, 0x40)], v := [(5, ⟨[7, 8]⟩)] }, ch := { inb := l } }
/-- A vector DATA token. -/
def vt : Token := vecTok 3 Mask.full ⟨[5, 6]⟩
/-- A scalar DATA token. -/
def st (w : Dword) : Token := scaTok 2 w
/-- A POISON token. -/
def pt : Token := poisTok 1 77 3 0x20
/-- A DRAIN token. -/
def dr : Token := { kind := kDRAIN }
/-- A context with a token of each kind: in0 vector DATA, in1 scalar DATA, in2 MARK 1, in3 EOS, in4 POISON, in5 DRAIN, in6 MARK 2, in7 a
dependence token. -/
def kinds : Ctx := fed [(0, [vt]), (1, [st 1]), (2, [markTok 1 true 4]), (3, [eosTok 0]), (4, [pt]), (5, [dr]), (6, [markTok 2 true 4]), (7, [depTok 0])]
/-- The A-strip element 0 of region 0 with those tokens. -/
def sa : State := one 0 kinds
/-- An element record with nothing in it. -/
def er (e : Nat) : ElemRec := { elem := e, preds := 0, mask := Mask.full, slots := [], rules := [] }
/-- A configuration of one element. -/
def cf (e : Nat) : Cfg := { num := 1, route := false, window := 4, homectx := 0, elems := [er e], wires := [], tiles := [] }
/-- A port with one page present, for reading and writing. -/
def gn : Gen := { page := 0, access := 1, base := 0x10000, extent := 0x10000, window := [1],
                  table := [(1, { p := .frame 0x20000 true true true false 0, dDone := true })] }
/-- A resident of launch 5 on that element, with that port. -/
def rs (e : Nat) (keyed : Bool := false) : Resident :=
  { lid := 5, asid := 1, keyed := keyed, g := 0, cfg := cf e, pos := 0, step := 0, pick := false, gens := [(0, gn)], tags := [⟨0, false⟩, ⟨1, false⟩], nextTag := 2 }
/-- The packet of launch 5. -/
def pk : Pkt := { lid := 5, nlev := 0, keyed := false, prio := 3, paramLen := 0, imageVa := 0, paramVa := 0, compVa := 0, seed := 1, clo := 0, ccount := 48, preds := [],
                  levels := [] }
/-- Launch 5. -/
def ln : Launch := { pkt := pk, asid := 1, parent := none, pkgs := [0], st := .loaded, waits := [], order := 0 }
/-- An allocation of launch 5's configuration in vault 0. -/
def al : Alloc := { id := 0, vault := 0, offset := 0x1000, bytes := 0x1000, lid := 5, region := 0, cfg := 1 }
/-- A ready tile. -/
def tl : Tile := { owner := 0, offset := 0x2000, bytes := 128, st := .ready }
/-- The M-strip element 5 of region 0 with a resident, its launch, an allocation and three tiles. -/
def sm (keyed : Bool := false) : State :=
  { one 40 kinds with
    regions := [(0, { res := [(0, rs 5 keyed)], tiles := [(0, tl), (1, { tl with st := .opened }), (2, { tl with st := .empty })] })],
    pkg := { bring := { step := 8 }, sched := { launches := [(5, ln)] }, allocs := [al] } }

/-! ### Decoding: words written out from the manual's encoding tables (R32 to R36, R49 and each instruction's row) -/

theorem test_decode_fadd : decode 0x1100722A#32 none = .ok (.fadd (.v 3) (.inp 2) (.v 5) 2) := by rfl
theorem test_decode_iadd : decode 0x0C808489#32 none = .ok (.iadd (.v 4) (.v 4) (.inp 1) 1) := by rfl
theorem test_decode_idle : decode 0x08040028#32 none = .ok (.idle 40) := by rfl
theorem test_decode_pany : decode 0x0015404F#32 none = .ok (.pany 1 8 1 7 1) := by rfl
theorem test_decode_cstep : decode 0x04D60000#32 none = .ok (.cstep (.out 0) 0 0) := by rfl
theorem test_decode_ffma : decode 0x190CE29B#32 none = .ok (.ffma (.v 7) (.v 2) (.inp 3) 3) := by rfl
theorem test_decode_cvtf : decode 0x014C8150#32 none = .ok (.cvtf (.v 4) (.v 1) 0 2 2 0) := by rfl
theorem test_decode_mxpack : decode 0x015D2312#32 none = .ok (.mxpack (.v 9) (.v 3) 1 2) := by rfl
theorem test_decode_steer : decode 0x02021191#32 none = .ok (.steer (.out 0) (.inp 1) (.inp 2) 1) := by rfl
theorem test_decode_isect : decode 0x1626108B#32 none = .ok (.isect (.out 0) (.inp 0) (.inp 1) 1 1) := by rfl
theorem test_decode_vld : decode 0x06805900#32 none = .ok (.vld (.v 2) (.x 1)) := by rfl
theorem test_decode_tilest : decode 0x02A784D1#32 (some 0xFC044000#32) = .ok (.tilest .null (.v 4) (.x 2) 1 17) := by rfl
theorem test_decode_sport : decode 0x029B8640#32 none = .ok (.sport (.v 6) 1 0 0) := by rfl
theorem test_decode_gst_glda : decode 0x3ABB5150#32 none = .ok (.glda (.x 2) (.inp 1) 5 0 0 0) := by rfl
theorem test_decode_fence : decode 0x0AC39D32#32 none = .ok (.fence 3 2) := by rfl
theorem test_decode_seqkey : decode 0x02CF9001#32 none = .ok (.seqkey .null (.inp 0) 1) := by rfl
theorem test_decode_afmax : decode 0x0F28A818#32 none = .ok (.afmax (.v 5) (.v 8) 0 0 1 2) := by rfl
theorem test_decode_awadd : decode 0x032F1A20#32 none = .ok (.awadd (.x 0) (.x 2) 1 0 0) := by rfl
theorem test_decode_unmap : decode 0x0B463830#32 (some 0xFC01C000#32) = .ok (.unmap (.out 1) (.x 0) 0 3 7) := by rfl
theorem test_decode_copy : decode 0x0B626601#32 (some 0xFE280009#32) = .ok (.copy (.out 3) (.v 6) 1 1 5 0 0 0 9) := by rfl
theorem test_decode_nbar : decode 0x07773E38#32 (some 0xFC000018#32) = .ok (.nbar (.x 1) (.lit 0x18) 7 0) := by rfl
theorem test_decode_pcarve : decode 0x01C39900#32 none = .ok (.pcarve (.x 1)) := by rfl
theorem test_decode_pgather : decode 0x01D38321#32 (some 0xFC04403F#32) = .ok (.pgather .null (.v 3) 2 1 17 0 0x3F) := by rfl
theorem test_decode_pdrain : decode 0x0DDE5909#32 (some 0xFC050000#32) = .ok (.pdrain (.out 2) (.x 1) 1 0 1 5) := by rfl
theorem test_decode_lit : decode 0x0024403F#32 (some 0xFC800001#32) = .ok (.lit (.v 2) 0 0x3F 0x800001) := by rfl
theorem test_decode_launch : decode 0x07A33A00#32 none = .ok (.launch (.x 1) (.x 2) 0) := by rfl
theorem test_decode_cfgnext : decode 0x03AB9D00#32 none = .ok (.cfgnextStep 0) := by rfl
theorem test_decode_trap : decode 0x0FC01921#32 none = .ok (.trap (.x 1) 33) := by rfl
theorem test_decode_tret : decode 0x03C79801#32 none = .ok (.tret .null (.x 0) 1) := by rfl
theorem test_decode_qstop : decode 0x07CC5800#32 none = .ok (.qstop (.v 2) (.x 0) 0) := by rfl
theorem test_decode_literal : decode 0x150822F0#32 (some 0xFE3FC000#32) = .ok (.fmul (.v 1) (.v 2) (.lit 0x23FC000#26) 0) := by rfl
/-- R158: FSGN.ABS and FROUND without code 5 have no second source: its field is zero or the word is refused with RSVNZ at bit 3. -/
theorem test_decode_no_second_source : decode 0x0925B603#32 none = .ok (.fsgn (.v 13) (.inp 6) (.v 0) 3) ∧ decode 0x0925B6FB#32 none = .error ⟨6, 3⟩
    ∧ decode 0x1D702200#32 none = .ok (.fround (.v 1) (.v 2) (.v 0) 0) ∧ decode 0x1D7022F8#32 none = .error ⟨6, 3⟩ ∧ decode 0x1D7022F0#32 none = .error ⟨6, 3⟩
    ∧ Instr.srcs (.fsgn (.v 13) (.inp 6) (.v 0) 3) = [.inp 6] ∧ Instr.srcs (.fround (.v 1) (.v 2) (.v 0) 0) = [.v 2] := ⟨by rfl, by rfl, by rfl, by rfl, by rfl, by rfl, by rfl⟩
/-- R49: a word whose operand needs a literal slot that is not there. -/
theorem test_decode_no_literal : decode 0x09D79D00#32 none = .error ⟨7, 26⟩ := by rfl
/-- Opcodes without a row are refused at field 18. -/
theorem test_decode_unassigned : ∀ op ∈ [0x12, 0x1F, 0x38, 0x5E, 0x7E, 0x94, 0xB6, 0xCE, 0xE2, 0xEE, 0xFA, 0xFF],
    (match decode (BitVec.ofNat 32 (op * 2 ^ 18)) none with | .error e => e == ⟨3, 18⟩ | .ok _ => false) = true := by decide +kernel
/-- The encoder gives the same words back. -/
theorem test_encode : encode 4 (.fadd (.v 3) (.inp 2) (.v 5) 2) = some (0x1100722A#32, none)
    ∧ encode 2 (.copy (.out 3) (.v 6) 1 1 5 0 0 0 9) = some (0x0B626601#32, some 0xFE280009#32)
    ∧ encode 5 (.fmul (.v 1) (.v 2) (.lit 0x23FC000#26) 0) = some (0x150822F0#32, some 0xFE3FC000#32) := by decide +kernel

/-- The words of a list, each with the slot after it, decode to their instructions, which are well-formed. Each word was put together from its
row of the encoding tables: the opcode, and each field at the bits the row gives it. -/
def reads (l : List (Word × Option Word × Instr)) : Bool :=
  l.all fun p => match decode p.1 p.2.1 with | .ok i => i == p.2.2 && i.wf | .error _ => false

theorem test_decode_words_control : reads [
  (0x0C000000, none, .nop), (0x04080000, none, .halt), (0x200E9801, none, .pset 2 19 1), (0x3C118F8B, none, .plog 1 17 30 5 1),
  (0x341B20BA, none, .pall 3 4 2 29 0), (0x101EDC01, none, .mov (.out 6) .lane 1), (0x2C235FFE, none, .movi (.x 2) 0x1FFE),
  (0x2429D7E9, none, .sel (.v 14) (.inp 7) .zero 1), (0x002F9500, none, .deq (.inp 5)), (0x1C327D59, none, .emit (.out 3) .zero 5 9),
  (0x38369DB0, none, .tagset (.out 4) .zero 11 0), (0x143B7204, none, .hdread (.x 3) (.inp 2) 4), (0x303F2000, none, .fcount (.x 1)),
  (0x0C438602, none, .maskset (.v 6) 2), (0x284400A5, none, .brk 0xA5)] = true := by rfl
theorem test_decode_words_integer : reads [
  (0x2885B652, none, .isub (.v 13) (.inp 6) (.v 10) 2), (0x0489B651, none, .imul (.v 13) (.inp 6) (.v 10) 1),
  (0x208DB652, none, .imulh (.v 13) (.inp 6) (.v 10) 2), (0x3C91B651, none, .imad (.v 13) (.inp 6) (.v 10) 1),
  (0x3499B651, none, .imin (.v 13) (.inp 6) (.v 10) 1), (0x109DB651, none, .imax (.v 13) (.inp 6) (.v 10) 1),
  (0x2CA1B651, none, .and (.v 13) (.inp 6) (.v 10) 1), (0x08A5B651, none, .or (.v 13) (.inp 6) (.v 10) 1),
  (0x24A9B651, none, .xor (.v 13) (.inp 6) (.v 10) 1), (0x00ADB650, none, .shl (.v 13) (.inp 6) (.v 10)),
  (0x1CB1B651, none, .shr (.v 13) (.inp 6) (.v 10) 1), (0x38B5B651, none, .rot (.v 13) (.inp 6) (.v 10) 1),
  (0x14B9B655, none, .icmp (.v 13) (.inp 6) (.v 10) 5), (0x28C5B651, none, .bfx (.v 13) (.inp 6) (.v 10) 1),
  (0x04C9B650, none, .bfi (.v 13) (.inp 6) (.v 10)), (0x10DDB653, none, .idiv (.v 13) (.inp 6) (.v 10) 3)] = true := by rfl
theorem test_decode_words_integer2 : reads [
  (0x34D9B6D6, none, .lscan (.v 13) (.inp 6) (.x 2) 6), (0x189759FF, none, .iaddi (.x 2) (.x 1) 0xFF),
  (0x30BC2297, none, .isat (.v 1) (.v 2) 1 0x17), (0x0CC2AB04, none, .bitc (.out 5) (.v 11) 4), (0x20CC7826, none, .addr (.v 3) (.x 0) (.v 4) 1 2),
  (0x3CD39B61, none, .cchain (.x 3) 6 1)] = true := by rfl
theorem test_decode_words_float : reads [
  (0x2905B653, none, .fsub (.v 13) (.inp 6) (.v 10) 3), (0x0509B656, none, .fmul (.v 13) (.inp 6) (.v 10) 6),
  (0x3D11B650, none, .fmin (.v 13) (.inp 6) (.v 10)), (0x1915B650, none, .fmax (.v 13) (.inp 6) (.v 10)),
  (0x3519B650, none, .fminn (.v 13) (.inp 6) (.v 10)), (0x111DB650, none, .fmaxn (.v 13) (.inp 6) (.v 10)),
  (0x2D21B654, none, .fcmp (.v 13) (.inp 6) (.v 10) 4), (0x0925B651, none, .fsgn (.v 13) (.inp 6) (.v 10) 1),
  (0x3935B654, none, .fdiv (.v 13) (.inp 6) (.v 10) 4), (0x3975B651, none, .fscale (.v 13) (.inp 6) (.v 10) 1),
  (0x1D70221D, none, .fround (.v 1) (.v 2) (.v 3) 5)] = true := by rfl
theorem test_decode_words_float2 : reads [
  (0x252A4C04, none, .frcp (.out 2) (.v 12) 4), (0x012E4C03, none, .frsq (.out 2) (.v 12) 3), (0x1D324C02, none, .fsqrt (.out 2) (.v 12) 2),
  (0x153A4C01, none, .fexp2 (.out 2) (.v 12) 1), (0x313E4C06, none, .flog2 (.out 2) (.v 12) 6), (0x0D424C00, none, .fred (.out 2) (.v 12)),
  (0x29464C00, none, .frmax (.out 2) (.v 12) 0), (0x054A4C01, none, .frmin (.out 2) (.v 12) 1), (0x016E4C00, none, .fclass (.out 2) (.v 12)),
  (0x3D508153, none, .cvti (.v 4) (.v 1) 1 2 3), (0x1954815A, none, .cvtif (.v 4) (.v 1) 1 0 3 2), (0x35588190, none, .cvt4 (.v 4) (.v 1) 2 0 1),
  (0x2D612361, none, .mxunpk (.v 9) (.v 3) 6 1), (0x0965234E, none, .scpack (.v 9) (.v 3) 0 1 0 3 2),
  (0x2569232E, none, .scunpk (.v 9) (.v 3) (.v 5) 1 2)] = true := by rfl
theorem test_decode_words_pool : reads [
  (0x29C6FD03, none, .pcommit (.out 7) 0 3), (0x05CB9A00, none, .pmap (.x 2)), (0x21CF3A12, none, .pstat (.x 1) (.x 2) 1 2),
  (0x19D63D00, (some 0xFE408001), .pissue (.out 1) 2 0 1 0x8001), (0x35DB9D00, (some 0xFD28012C), .pissuex .null 1 0 5 300),
  (0x2DE25903, (some 0xFEA10000), .pclear (.out 2) (.x 1) 3 0x2A1), (0x09E78801, (some 0xFC130000), .psort .null (.v 8) 1 0x13),
  (0x25EA1D0A, (some 0xFC3F0000), .psortk (.out 0) 1 0 2 0x3F), (0x01EF1B01, none, .psave (.x 0) (.x 3) 1),
  (0x1DF29A31, none, .prestore (.out 4) (.x 2) 3 1), (0x39F75D23, none, .pqstat (.x 2) 2 3)] = true := by rfl
theorem test_decode_words_channel : reads [
  (0x2A06B08B, none, .merge (.out 5) (.inp 0) (.inp 1) 3), (0x060AB490, none, .lexit (.out 5) (.inp 4) (.inp 2)),
  (0x220EF490, none, .gate (.out 7) (.inp 4) (.inp 2)), (0x3E123302, none, .dup (.out 1) (.inp 3) 2),
  (0x1A1633B0, none, .zipt (.out 1) (.inp 3) (.inp 6)), (0x361B3D51, none, .talloc (.x 1) 5 1), (0x121F9DD0, none, .tfree .zero 13),
  (0x2E2257E0, none, .troute (.out 2) (.inp 7) 14 0), (0x262A55B2, none, .union (.out 2) (.inp 5) (.inp 6) 1 0),
  (0x022E55B6, none, .fibre (.out 2) (.inp 5) (.inp 6) 6), (0x1E32D100, none, .packv (.out 6) (.inp 1)),
  (0x3A36D103, none, .splitv (.out 6) (.inp 1) 3), (0x1639E200, none, .compact (.v 15) (.v 2)), (0x323E620E, none, .order (.out 3) (.v 2) 14),
  (0x0E4233A2, none, .switch (.out 1) (.inp 3) (.inp 4) 2), (0x2A4680C9, none, .poison (.out 4) 0xC9), (0x064B7401, none, .ends (.x 3) (.inp 4) 1),
  (0x224F5D0D, none, .chocc (.x 2) 13)] = true := by rfl
theorem test_decode_words_memory : reads [
  (0x2A863B38, none, .vst (.out 1) (.x 3) (.v 7)), (0x06885B3B, none, .vldx (.v 2) (.x 3) (.v 7) 3),
  (0x228C5B3A, none, .vstx (.v 2) (.x 3) (.v 7) 2), (0x3E904706, none, .gld (.v 2) (.v 7) 1 2), (0x1A978745, none, .gst .null (.v 7) (.v 8) 1 1),
  (0x129F95C1, none, .sreq .null (.inp 5) 3 1), (0x2EA2A380, none, .sgath (.out 5) (.v 3) 2),
  (0x26AB3D02, (some 0xFE004000), .tileq (.x 1) 2 0x801), (0x02AF3AD9, (some 0xFE002001), .valloc (.x 1) (.x 2) 13 9 1 0x2001),
  (0x1EB39A00, none, .vfree (.x 2)), (0x3AB79A49, none, .pref (.x 2) 1 9), (0x32BF596B, none, .gstr (.x 2) (.x 1) 6 1 0 3)] = true := by rfl
theorem test_decode_words_ordering : reads [
  (0x2AC67D00, none, .fencex (.out 3)), (0x06CB9D00, none, .fencep .null), (0x3ED39D01, none, .perfw 1),
  (0x1AD79600, none, .mcsync (.inp 6))] = true := by rfl
theorem test_decode_words_atomics : reads [
  (0x0F03545C, none, .aadd (.x 2) (.inp 4) 0 1 0 1 3), (0x2B07545C, none, .aand (.x 2) (.inp 4) 0 1 0 1 3),
  (0x070B545C, none, .aor (.x 2) (.inp 4) 0 1 0 1 3), (0x230F545C, none, .axor (.x 2) (.inp 4) 0 1 0 1 3),
  (0x371B545C, none, .axchg (.x 2) (.inp 4) 0 1 0 1 3), (0x131F545C, none, .acas (.x 2) (.inp 4) 0 1 0 1 3),
  (0x3F1044A1, none, .amin (.v 2) (.v 4) 1 0 1 0 0 1), (0x1B1444A1, none, .amax (.v 2) (.v 4) 1 0 1 0 0 1),
  (0x2F204498, none, .afadd (.v 2) (.v 4) 1 0 1 2), (0x0B244498, none, .afmin (.v 2) (.v 4) 1 0 1 2),
  (0x1F335959, none, .ainc (.x 2) (.x 1) 0 1 0 1 2 1), (0x3B375959, none, .abit (.x 2) (.x 1) 0 1 0 1 2 1)] = true := by rfl
theorem test_decode_words_translation : reads [
  (0x0F423A60, (some 0xFE694000), .map (.out 1) (.x 2) 1 2 0x9A5), (0x074B3B25, (some 0xFE694000), .protect (.x 1) (.x 3) 2 1 0 1 0x9A5),
  (0x234F3A10, (some 0xFE694000), .migrate (.x 1) (.x 2) 1 0x9A5), (0x3F523A02, (some 0xFE694000), .xinval (.out 1) (.x 2) 2 0x9A5),
  (0x1B573A22, (some 0xFE694000), .adread (.x 1) (.x 2) 2 1 0 0x9A5), (0x375B3B00, (some 0xFE694000), .xprobe (.x 1) (.x 3) 0x9A5),
  (0x135EFD00, (some 0xFE694000), .xsync (.out 7) 0x9A5)] = true := by rfl
theorem test_decode_words_async : reads [
  (0x0B6651B0, none, .dtoken (.out 2) (.inp 1) (.inp 6) 0), (0x276B9AA9, none, .tbarr .null (.x 2) 0x2A 1),
  (0x036F3A54, none, .tbwait (.x 1) (.x 2) 0x15), (0x1F733A00, none, .tbany (.x 1) (.x 2)), (0x177B3AB0, none, .gbar (.x 1) (.x 2) 5 1 0),
  (0x337F9A01, none, .timew .null (.x 2) 1), (0x0F837D01, none, .timer (.x 3) 1), (0x2B8479D0, none, .rand (.v 3) (.x 1) (.x 2))] = true := by rfl
theorem test_decode_words_launch : reads [
  (0x0BA63A00, none, .joinc (.out 1) (.x 2)), (0x27AB9901, (some 0xFC000803), .cfgnextPost (.x 1) 0x803),
  (0x03AF5D61, none, .strand (.x 2) .zero 6 1), (0x1FB27900, none, .retire (.out 3) (.x 1) 0),
  (0x3BB79D60, none, .prio .null .zero 6 0)] = true := by rfl
theorem test_decode_words_system : reads [
  (0x07CB9B02, none, .ctxsw (.x 3) 2), (0x3FD33A02, none, .errlog (.x 1) (.x 2) 2), (0x1BD73A00, none, .mcmp (.x 1) (.x 2)),
  (0x37DA3B00, none, .attest (.out 1) (.x 3)), (0x13DF3B00, none, .cfgld (.x 1) (.x 3)), (0x2FE03B01, none, .cfgsig (.v 1) (.x 3) 1),
  (0x0BE73B50, none, .sysrd (.x 1) (.x 3) 5)] = true := by rfl

/-! ### The manual's worked examples -/

/-- The conversions at the end of "Number Formats Bit by Bit" (R144 to R149). -/
theorem test_conversions :
    bf16.conv 0 0 (val32 0x3FAAAAAB#32) = (0x3FAB, { inx := true }) ∧ bf16.conv 1 0 (val32 0x3FAAAAAB#32) = (0x3FAA, { inx := true })
    ∧ bf16.conv 5 0xBFFF (val32 0x3F804000#32) = (0x3F80, { inx := true }) ∧ bf16.conv 5 0xC000 (val32 0x3F804000#32) = (0x3F81, { inx := true })
    ∧ e4m3.conv 0 0 (.fin false 300 0) = (0x79, { inx := true }) ∧ e4m3.conv 0 0 (.fin false 464 0) = (0x7E, { inx := true })
    ∧ e4m3.conv 0 0 (.fin false 500 0) = (0x7F, { ovf := true, inx := true }) ∧ e4m3.conv 6 0 (.fin false 500 0) = (0x7E, { ovf := true, inx := true })
    ∧ e5m2.conv 0 0 (.fin false 1 (-17)) = (0, { unf := true, inx := true }) ∧ e5m2.conv 4 0 (.fin false 1 (-17)) = (1, { unf := true, inx := true })
    ∧ e2m1.conv 0 0 (.fin true 5 (-1)) = (0xC, { inx := true }) ∧ e2m1.conv 0 0 (.fin true 7 0) = (0xF, { ovf := true, inx := true })
    ∧ toInt 32 1 0 (.fin true 3 30) = (0x80000000, { inv := true }) ∧ toInt 8 0 0 (val32 0x7FC00000#32) = (0, { inv := true }) := by decide +kernel
/-- The examples of R159: the sum of zeros under RDN, an exact difference, a saturated product. -/
theorem test_float_sums : fadd 2 0 0x80000000#32 = (0x80000000#32, {}) ∧ fsub 0 0x3F800001#32 0x3F800000#32 = (0x34000000#32, {})
    ∧ fmul 6 0x7F000000#32 0x40800000#32 = (0x7F7FFFFF#32, { ovf := true, inx := true }) := by decide +kernel
/-- The examples of R163. -/
theorem test_float_minmax : fminmax false false 0 0x80000000#32 = (0x80000000#32, {}) ∧ fminmax true true 0x7FC00000#32 0x40400000#32 = (0x40400000#32, {})
    ∧ fminmax true true 0x7F800001#32 0x40400000#32 = (0x40400000#32, { inv := true }) := by decide +kernel
/-- The example of R127: address 3 under scale 3 of an index of -2. -/
theorem test_address : addrOf 0x0000400000000000#64 3 (-2) = 0x00003FFFFFFFFFF0#64 := by decide +kernel
/-- The example of R129: lanes 0, 1, 3 and 4 valid, a carry of 10. -/
theorem test_scan : scanLanes 0 0b11011 0 10 [5, 1, 9, 2, 7] = [15, 16, 9, 18, 25] ∧ scanLanes 1 0b11011 0 10 [5, 1, 9, 2, 7] = [10, 15, 9, 16, 18] := by decide +kernel
/-- The example of R133: the seven firings of a chain of extents 200 and 2, by index and by linear index. -/
theorem test_chain : let k : Chain := (({} : Chain).stage 0 200 false).stage 1 2 true
    let run (lin : Bool) : List ChainTok := ((List.range 7).foldl (fun (p : List ChainTok × Chain) _ => let t := p.2.next 192 lin; (p.1 ++ [t.1], t.2)) ([], k)).1
    run false = [.data 192 0, .data 8 192, .mark 0 0, .data 192 0, .data 8 192, .mark 0 1, .eos]
    ∧ run true = [.data 192 0, .data 8 192, .mark 0 0, .data 192 200, .data 8 392, .mark 0 1, .eos] := by decide +kernel
/-- The scaled FP8 examples of R143: 1.5 under scale 6 is 9. -/
theorem test_s24 : fp32.conv 0 0 (s24Times (e4m3.value 0x3C) 0x818000).1 = (0x41100000, {}) := by decide +kernel

-- The first example of GB/T 32907, the first of GB/T 32905, and the check value of CRC-32C.
theorem test_sm4 : sm4 0x0123456789ABCDEFFEDCBA9876543210 0x0123456789ABCDEFFEDCBA9876543210 = 0x681EDF34D206965E86B3E94F536E4246#128 := by decide +kernel
theorem test_sm3 : sm3 [0x61, 0x62, 0x63] = bytesBE 32 0x66C7F0F462EEEDD9D1F2D46BDC10E4E24167C4875CF2F7A2297DA02B8F4BA8E0 := by decide +kernel
theorem test_crc32c : crc32c [0x31, 0x32, 0x33, 0x34, 0x35, 0x36, 0x37, 0x38, 0x39] = 0xE3069283#32 := by decide +kernel

/-! ### Ill-formed terms (R39, R50 and the encoding tables): one for each check, with the refusal's code and the place of its field -/

/-- Each term is refused by the check of that code and place, a bit of the instruction word or, from 32, of its literal slot. -/
def refused (l : List (Instr × Nat × Nat)) : Bool := l.all fun p => legalErr p.1 == some ⟨p.2.1, p.2.2⟩ && !p.1.wf

theorem test_wf_control : refused [
  (.pany 0 0 2 1 0, 5, 6), (.pall 0 0 31 30 1, 5, 6), (.mov .null .zero 2, 3, 0), (.lit (.v 0) 1 0 0, 5, 13), (.sel (.x 0) .zero .zero 0, 5, 13),
  (.sel (.v 0) .zero .zero 2, 3, 0), (.deq .zero, 5, 8), (.emit (.v 0) .zero 0 0, 5, 13), (.emit (.out 0) .zero 0 3, 3, 0), (.emit (.out 0) .zero 0 1, 3, 0),
  (.emit (.out 0) .zero 7 13, 3, 4), (.emit (.out 0) (.v 0) 0 4, 5, 8), (.emit (.out 0) (.v 0) 0 2, 5, 8), (.emit (.out 0) .zero 0 6, 3, 0),
  (.emit (.out 0) .zero 1 0, 6, 4), (.tagset (.v 0) .zero 0 0, 5, 13), (.tagset (.out 0) .zero 0 3, 3, 0), (.tagset (.out 0) .zero 0 1, 5, 8),
  (.tagset (.out 0) (.inp 0) 0 0, 5, 8), (.tagset (.out 0) .zero 1 2, 6, 4), (.hdread (.v 0) (.inp 0) 0, 5, 13), (.hdread (.x 0) .zero 0, 5, 8),
  (.hdread (.x 0) (.inp 0) 7, 3, 0), (.fcount .null, 5, 13), (.maskset .zero 5, 3, 0), (.maskset (.x 0) 0, 5, 8), (.maskset (.v 0) 3, 5, 8),
  (.maskset .zero 4, 5, 8)] = true := by decide +kernel
theorem test_wf_integer : refused [
  (.iadd (.x 0) (.v 0) .zero 0, 5, 8), (.iadd (.x 0) .zero .lane 0, 5, 3), (.iadd (.v 0) .zero .zero 3, 3, 0), (.isub (.x 0) .lane .zero 0, 5, 8),
  (.isub .null .zero .zero 3, 3, 0), (.imul (.x 0) .zero (.v 1) 0, 5, 3), (.imul .null .zero .zero 3, 3, 0), (.imulh (.x 0) (.v 1) .zero 0, 5, 8),
  (.imulh .null .zero .zero 3, 3, 0), (.imad (.out 0) .zero .zero 0, 5, 13), (.imad (.x 0) (.v 0) .zero 0, 5, 8), (.imad (.v 0) .zero .zero 3, 3, 0),
  (.iaddi (.x 0) (.v 0) 0, 5, 8), (.imin (.x 0) (.v 0) .zero 0, 5, 8), (.imin .null .zero .zero 2, 3, 0), (.imax (.x 0) (.v 0) .zero 0, 5, 8),
  (.imax .null .zero .zero 2, 3, 0), (.and (.x 0) (.v 0) .zero 0, 5, 8), (.and .null .zero .zero 2, 3, 0), (.or (.x 0) (.v 0) .zero 0, 5, 8),
  (.or .null .zero .zero 2, 3, 0), (.xor (.x 0) (.v 0) .zero 0, 5, 8), (.xor .null .zero .zero 2, 3, 0), (.shl (.x 0) .zero .lane, 5, 3),
  (.shr (.x 0) .zero .lane 0, 5, 3), (.shr .null .zero .zero 2, 3, 0), (.rot (.x 0) .zero .lane 0, 5, 3), (.rot .null .zero .zero 2, 3, 0),
  (.icmp (.x 0) .zero .lane 0, 5, 3), (.icmp .null .zero .zero 6, 3, 0), (.isat (.x 0) .lane 0 0, 5, 8), (.isat (.v 0) .zero 0 32, 3, 0),
  (.bitc (.x 0) .lane 0, 5, 8), (.bitc .null .zero 5, 3, 0), (.bfx (.x 0) .lane .zero 0, 5, 8), (.bfx .null .zero .zero 2, 3, 0), (.bfi .null .zero .zero, 5, 13),
  (.bfi (.x 0) .zero .lane, 5, 3), (.addr (.v 0) .lane .zero 0 0, 5, 8), (.addr (.v 0) .zero (.x 0) 0 0, 5, 3), (.addr (.x 0) .zero .lane 0 0, 5, 3),
  (.addr (.x 0) .zero .zero 1 0, 3, 2), (.cchain (.v 0) 0 0, 5, 8), (.cchain .zero 8 0, 3, 4), (.cstep (.x 0) 0 0, 5, 13), (.cstep (.out 0) 0 2, 3, 0),
  (.lscan (.x 0) .zero .zero 0, 5, 13), (.lscan (.v 0) (.x 0) .zero 0, 5, 8), (.lscan (.v 0) .zero .lane 0, 5, 3), (.lscan (.v 0) .zero .zero 7, 3, 0),
  (.idiv (.x 0) .lane .zero 0, 5, 8), (.idiv .null .zero .zero 4, 3, 0)] = true := by decide +kernel
theorem test_wf_float : refused [
  (.fadd (.x 0) .zero .zero 0, 5, 13), (.fadd .null .zero .zero 5, 3, 0), (.fsub (.x 0) .zero .zero 0, 5, 13), (.fsub .null .zero .zero 7, 3, 0),
  (.fmul (.x 0) .zero .zero 0, 5, 13), (.fmul .null .zero .zero 5, 3, 0), (.ffma (.out 0) .zero .zero 0, 5, 13), (.ffma (.v 0) .zero .zero 7, 3, 0),
  (.fmin (.x 0) .zero .zero, 5, 13), (.fmax (.x 0) .zero .zero, 5, 13), (.fminn (.x 0) .zero .zero, 5, 13), (.fmaxn (.x 0) .zero .zero, 5, 13),
  (.fcmp (.x 0) .zero .zero 0, 5, 13), (.fcmp .null .zero .zero 5, 3, 0), (.fsgn (.x 0) .zero .zero 0, 5, 13), (.fsgn .null .zero .zero 5, 3, 0),
  (.fsgn .null .zero .zero 3, 6, 3), (.frcp (.x 0) .zero 0, 5, 13), (.frcp .null .zero 5, 3, 0), (.frsq (.x 0) .zero 0, 5, 13), (.frsq .null .zero 5, 3, 0),
  (.fsqrt (.x 0) .zero 0, 5, 13), (.fsqrt .null .zero 5, 3, 0), (.fdiv (.x 0) .zero .zero 0, 5, 13), (.fdiv .null .zero .zero 5, 3, 0),
  (.fexp2 (.x 0) .zero 0, 5, 13), (.fexp2 .null .zero 5, 3, 0), (.flog2 (.x 0) .zero 0, 5, 13), (.flog2 .null .zero 5, 3, 0), (.frmax .null .zero 3, 3, 0),
  (.frmax .null .zero 2, 5, 13), (.frmin .null .zero 3, 3, 0), (.frmin (.v 0) .zero 2, 5, 13), (.cvtf .null .zero 0 0 0 0, 5, 13), (.cvtf (.x 0) .zero 1 0 0 0, 5, 13),
  (.cvtf (.v 0) .zero 0 1 2 0, 3, 3), (.cvtf (.v 0) .zero 0 2 0 7, 3, 0), (.cvtf (.v 0) .zero 1 2 0 1, 3, 0), (.cvti (.x 0) .zero 0 0 0, 5, 13),
  (.cvti .null .zero 1 0 0, 5, 13), (.cvti .null .zero 0 1 0, 3, 3), (.cvti .null .zero 0 0 7, 3, 0), (.cvtif (.x 0) .zero 0 0 0 0, 5, 13),
  (.cvtif .null .zero 1 1 0 0, 3, 5), (.cvtif .null .zero 0 0 1 0, 3, 3), (.cvtif .null .zero 0 0 0 7, 3, 0), (.cvt4 (.x 0) .zero 0 0 0, 5, 13),
  (.cvt4 .null .zero 3 0 0, 3, 6), (.cvt4 .null .zero 2 1 0, 3, 5), (.mxpack .null .zero 0 0, 5, 13), (.mxpack (.v 0) .zero 8 0, 3, 4),
  (.mxunpk (.x 0) .zero 0 0, 5, 13), (.mxunpk .null .zero 8 0, 3, 4), (.scpack .null .zero 0 0 0 0 0, 5, 13), (.scpack (.v 0) .zero 1 0 0 0 1, 3, 0),
  (.scunpk (.x 0) .zero .zero 0 0, 5, 13), (.fclass (.x 0) .zero, 5, 13), (.fround (.x 0) .zero (.v 0) 0, 5, 13), (.fround .null .zero (.v 0) 7, 3, 0),
  (.fround .null .zero .zero 0, 6, 3), (.fscale (.x 0) .zero .zero 0, 5, 13), (.fscale .null .zero .zero 7, 3, 0)] = true := by decide +kernel
theorem test_wf_pool : refused [
  (.pcarve .zero, 5, 8), (.pcommit (.v 0) 0 0, 5, 13), (.pcommit .null 1 1, 6, 0), (.pmap .zero, 5, 8), (.pstat .null .zero 0 0, 5, 13), (.pstat (.x 0) .zero 3 0, 3, 4),
  (.pstat (.x 0) .lane 1 0, 5, 8), (.pstat (.x 0) (.x 0) 0 0, 5, 8), (.pgather (.x 0) (.v 0) 0 0 0 0 0, 5, 13), (.pgather .null (.x 0) 0 0 0 0 0, 5, 8),
  (.pissue (.x 0) 0 0 0 0, 5, 13), (.pissue .null 1 1 0 0, 6, 32 + 24), (.pissuex (.v 0) 0 0 0 0, 5, 13), (.pissuex .null 1 1 0 0, 6, 32 + 24), (.pdrain .null (.x 0) 0 0 0 0, 5, 13),
  (.pdrain (.out 0) .zero 0 0 0 0, 5, 8), (.pclear (.x 0) (.x 0) 0 0, 5, 13), (.pclear .null .zero 0 0, 5, 8), (.psort (.v 0) .zero 0 0, 5, 13),
  (.psort .null (.x 0) 0 0, 5, 8), (.psortk .null 0 0 0 0, 5, 13), (.psave (.v 0) (.x 0) 0, 5, 13), (.psave .null .zero 0, 5, 8), (.prestore (.v 0) (.x 0) 0 0, 5, 13),
  (.prestore .null .zero 0 0, 5, 8), (.pqstat .null 0 0, 5, 13), (.pqstat (.x 0) 3 0, 3, 4)] = true := by decide +kernel
theorem test_wf_channel : refused [
  (.steer .null (.inp 0) .zero 0, 5, 13), (.steer (.out 7) (.inp 0) .zero 0, 5, 13), (.steer (.out 0) .zero .zero 0, 5, 8), (.steer (.out 0) (.inp 0) .lane 0, 5, 3),
  (.steer (.out 0) (.inp 0) (.inp 0) 0, 5, 3), (.merge .null (.inp 0) (.inp 1) 2, 5, 13), (.merge (.out 0) .lane (.inp 1) 2, 5, 8),
  (.merge (.out 0) (.inp 0) .zero 2, 5, 3), (.merge (.out 0) (.inp 1) (.inp 1) 2, 5, 3), (.merge (.out 0) (.inp 0) (.inp 2) 2, 5, 0),
  (.merge (.out 0) (.inp 2) (.inp 1) 2, 5, 0), (.lexit .null (.inp 0) .zero, 5, 13), (.lexit (.out 7) (.inp 0) .zero, 5, 13), (.lexit (.out 0) .zero .zero, 5, 8),
  (.lexit (.out 0) (.inp 0) .lane, 5, 3), (.lexit (.out 0) (.inp 0) (.inp 0), 5, 3), (.gate .null (.inp 0) .zero, 5, 13), (.gate (.out 0) .zero .zero, 5, 8),
  (.gate (.out 0) (.inp 0) .lane, 5, 3), (.gate (.out 0) (.inp 0) (.inp 0), 5, 3), (.dup .null (.inp 0) 0, 5, 13), (.dup (.out 0) .zero 0, 5, 8),
  (.dup (.out 0) (.inp 0) 3, 3, 0), (.dup (.out 5) (.inp 0) 2, 5, 13), (.zipt .null (.inp 0) (.inp 1), 5, 13), (.zipt (.out 0) .zero (.inp 1), 5, 8),
  (.zipt (.out 0) (.inp 0) .zero, 5, 3), (.zipt (.out 0) (.inp 1) (.inp 1), 5, 3), (.talloc (.v 0) 0 0, 5, 13), (.talloc .null 1 0, 6, 4), (.talloc .null 8 1, 3, 4),
  (.tfree (.x 0) 1, 6, 4), (.troute .null (.inp 0) 0 0, 5, 13), (.troute (.out 0) .zero 0 0, 5, 8), (.troute (.out 0) (.inp 0) 1 1, 6, 4),
  (.isect .null (.inp 0) (.inp 1) 0 0, 5, 13), (.isect (.out 0) .zero (.inp 1) 0 0, 5, 8), (.isect (.out 0) (.inp 0) .zero 0 0, 5, 3),
  (.isect (.out 0) (.inp 0) (.inp 0) 0 0, 5, 3), (.isect (.out 6) (.inp 0) (.inp 1) 1 0, 5, 13), (.isect (.out 7) (.inp 0) (.inp 1) 0 1, 5, 13),
  (.union .null (.inp 0) (.inp 1) 0 0, 5, 13), (.union (.out 0) .zero (.inp 1) 0 0, 5, 8), (.union (.out 0) (.inp 0) .zero 0 0, 5, 3),
  (.union (.out 0) (.inp 0) (.inp 0) 0 0, 5, 3), (.union (.out 6) (.inp 0) (.inp 1) 1 1, 5, 13), (.fibre .null (.inp 0) .zero 0, 5, 13),
  (.fibre (.out 0) .zero .zero 0, 5, 8), (.fibre (.out 0) (.inp 0) .lane 0, 5, 3), (.fibre (.out 0) (.inp 0) (.inp 0) 0, 5, 3), (.fibre (.out 0) (.inp 0) .zero 7, 3, 0),
  (.packv .null (.inp 0), 5, 13), (.packv (.out 0) .zero, 5, 8), (.splitv .null (.inp 0) 0, 5, 13), (.splitv (.out 0) .zero 0, 5, 8), (.compact .null (.x 0), 5, 8),
  (.order .null .zero 0, 5, 13), (.order (.out 0) (.x 0) 0, 5, 8), (.order (.out 0) .zero 3, 3, 0), (.order (.out 7) .zero 8, 5, 13),
  (.switch .null (.inp 0) .zero 1, 5, 13), (.switch (.out 0) .zero .zero 1, 5, 8), (.switch (.out 0) (.inp 0) .lane 1, 5, 3),
  (.switch (.out 0) (.inp 0) (.inp 0) 1, 5, 3), (.switch (.out 0) (.inp 0) .zero 0, 3, 0), (.switch (.out 1) (.inp 0) .zero 7, 5, 13), (.poison .null 192, 5, 13),
  (.poison (.out 0) 191, 3, 0), (.ends (.v 0) (.inp 0) 0, 5, 13), (.ends .null .zero 0, 5, 8), (.chocc .null 0, 5, 13)] = true := by decide +kernel
theorem test_wf_memory : refused [
  (.vld (.x 0) (.x 0), 5, 13), (.vld .null .zero, 5, 8), (.vst (.v 0) (.x 0) .zero, 5, 13), (.vst .null .zero .zero, 5, 8), (.vst .null (.x 0) (.lit 0), 5, 3),
  (.vldx (.x 0) (.x 0) .zero 0, 5, 13), (.vldx .null .zero .zero 0, 5, 8), (.vldx .null (.x 0) (.lit 0) 0, 5, 3), (.vstx .null (.x 0) .zero 0, 5, 13),
  (.vstx (.v 0) .zero .zero 0, 5, 8), (.vstx (.v 0) (.x 0) (.lit 0) 0, 5, 3), (.gld (.x 0) .zero 0 0, 5, 13), (.gld .null (.lit 0) 0 0, 5, 8),
  (.gst (.v 0) .zero .zero 0 0, 5, 13), (.gst .null (.lit 0) .zero 0 0, 5, 8), (.gst .null .zero (.lit 0) 0 0, 5, 3), (.sport .zero 0 0 0, 5, 8),
  (.sport (.v 0) 0 0 3, 3, 0), (.sreq .null .zero 0 0, 5, 13), (.sreq (.out 0) (.inp 0) 0 0, 5, 8), (.sreq (.out 0) (.inp 0) 0 1, 5, 13), (.sreq .null .zero 0 1, 5, 8),
  (.sgath .null .zero 0, 5, 13), (.sgath (.out 0) (.lit 0) 0, 5, 8), (.tilest (.v 0) (.x 0) .zero 0 0, 5, 13), (.tilest .null (.x 0) .zero 4 0, 3, 0),
  (.tilest .null .zero .zero 3 0, 5, 8), (.tilest .null (.x 0) .zero 1 0, 5, 8), (.tilest .null (.x 0) (.x 1) 0 0, 5, 3), (.tilest .null (.v 0) .lane 1 0, 5, 3),
  (.tileq (.v 0) 0 0, 5, 13), (.tileq .null 4 0, 3, 0), (.valloc .null (.x 0) 0 0 0 0, 5, 13), (.valloc (.x 0) .zero 0 0 0 0, 5, 8), (.vfree .zero, 5, 8),
  (.pref .zero 0 0, 5, 8), (.glda (.v 0) (.x 0) 0 0 0 0, 5, 13), (.glda (.x 0) .zero 0 0 0 0, 5, 8), (.glda (.x 0) (.x 0) 8 0 0 0, 3, 4),
  (.glda (.x 0) (.x 0) 0 0 1 1, 6, 0), (.gstr (.out 0) (.x 0) 0 0 0 0, 5, 13), (.gstr (.x 0) .zero 0 0 0 0, 5, 8), (.gstr (.x 0) (.x 0) 9 0 0 0, 3, 4),
  (.gstr (.x 0) (.x 0) 10 0 1 3, 6, 0), (.fence 12 0, 3, 4), (.fence 11 3, 3, 0), (.fencex (.x 0), 5, 13), (.fencep (.v 0), 5, 13), (.seqkey .null .zero 3, 5, 13),
  (.seqkey (.x 0) .zero 0, 5, 13), (.seqkey (.x 0) (.x 0) 3, 5, 8), (.seqkey .null .lane 0, 5, 8), (.mcsync .zero, 5, 8)] = true := by decide +kernel
theorem test_wf_atomics : refused [
  (.aadd .null (.v 0) 0 0 0 0 0, 5, 13), (.aadd (.x 0) (.v 0) 0 0 0 0 0, 5, 8), (.aadd (.v 0) (.x 0) 0 0 0 0 0, 5, 8), (.aadd (.x 0) (.x 0) 1 0 0 0 0, 3, 7),
  (.aadd (.v 0) (.v 0) 0 1 0 0 0, 3, 6), (.aadd (.v 0) (.v 0) 0 0 1 0 1, 6, 2), (.aand .null (.v 0) 0 0 0 0 0, 5, 13), (.aor .null (.v 0) 0 0 0 0 0, 5, 13),
  (.axor .null (.v 0) 0 0 0 0 0, 5, 13), (.axchg .null (.v 0) 0 0 0 0 0, 5, 13), (.amin .null (.v 0) 0 0 0 0 0 0, 5, 13), (.amax .null (.v 0) 0 0 0 0 0 0, 5, 13),
  (.acas .null (.v 0) 0 0 0 0 0, 5, 13), (.acas (.x 1) (.x 0) 0 0 0 0 0, 5, 13), (.afadd .null (.v 0) 0 0 0 0, 5, 13), (.afmin .null (.v 0) 0 0 0 0, 5, 13),
  (.afmax (.x 0) (.x 0) 1 0 0 0, 3, 7), (.awadd (.v 0) (.v 0) 0 0 0, 5, 13), (.awadd (.x 0) (.v 0) 0 0 0, 5, 8), (.awadd (.x 3) (.x 0) 0 0 0, 5, 13),
  (.ainc .null (.v 0) 0 0 0 0 0 0, 5, 13), (.ainc (.v 0) (.v 0) 0 0 0 0 0 3, 3, 0), (.abit (.out 0) (.v 0) 0 0 0 0 0 0, 5, 13),
  (.abit (.v 0) (.v 0) 0 0 0 0 0 3, 3, 0)] = true := by decide +kernel
theorem test_wf_translation : refused [
  (.map .null (.x 0) 0 1 0, 5, 13), (.map (.x 0) (.x 1) 0 1 0, 5, 8), (.map (.x 0) (.x 0) 3 1 0, 3, 6), (.map (.x 0) (.x 0) 0 0 0, 3, 4), (.map (.x 0) (.x 0) 1 3 0, 3, 4),
  (.map (.x 0) (.x 0) 2 1 0, 3, 4), (.unmap .null (.x 0) 0 1 0, 5, 13), (.unmap (.x 0) (.x 3) 0 1 0, 5, 8), (.unmap (.x 0) (.x 0) 3 1 0, 3, 6),
  (.unmap (.x 0) (.x 0) 0 0 0, 3, 4), (.protect .null (.x 0) 1 0 0 0 0, 5, 13), (.protect (.x 0) .zero 1 0 0 0 0, 5, 8), (.protect (.x 0) (.x 0) 0 0 0 0 0, 3, 4),
  (.migrate .null (.x 0) 1 0, 5, 13), (.migrate (.x 0) (.x 1) 1 0, 5, 8), (.migrate (.x 0) (.x 0) 0 0, 3, 4), (.xinval .null (.x 0) 0 0, 5, 13),
  (.xinval (.x 0) (.x 1) 0 0, 5, 8), (.xinval (.x 0) (.x 0) 3 0, 3, 0), (.adread (.out 0) (.x 0) 1 0 0 0, 5, 13), (.adread (.x 0) .zero 1 0 0 0, 5, 8),
  (.adread (.x 0) (.x 0) 0 0 0 0, 3, 4), (.xprobe (.out 0) (.x 0) 0, 5, 13), (.xprobe (.x 0) .zero 0, 5, 8), (.xsync .null 0, 5, 13)] = true := by decide +kernel
theorem test_wf_async : refused [
  (.copy (.x 0) (.v 0) 0 0 0 0 0 0 0, 5, 13), (.copy .null .zero 0 0 0 0 0 0 0, 5, 8), (.copy .null (.v 0) 0 0 0 0 0 0 1, 6, 32 + 0), (.copy .null (.v 0) 0 0 0 0 0 1 0, 6, 32 + 4),
  (.copy .null (.v 0) 0 0 0 0 1 0 0, 6, 32 + 8), (.copy .null (.v 0) 0 0 0 0 0 9 9, 5, 32 + 4), (.copy .null (.v 0) 0 0 0 0 9 0 9, 5, 32 + 8),
  (.copy .null (.v 0) 0 0 1 0 0 0 0, 6, 32 + 19),
  (.dtoken .null .zero .zero 1, 5, 13), (.dtoken (.out 0) (.x 0) .zero 1, 5, 8), (.dtoken (.out 0) .zero (.x 0) 1, 5, 3),
  (.dtoken (.out 0) .zero .zero 0, 5, 8), (.tbarr (.v 0) .zero 0 0, 5, 13), (.tbarr .null .lane 0 0, 5, 8), (.tbarr .null .zero 0 3, 3, 0),
  (.tbwait (.v 0) .zero 0, 5, 13), (.tbwait .null .lane 0, 5, 8), (.tbany .null (.x 0), 5, 13), (.tbany (.x 0) .zero, 5, 8), (.nbar (.v 0) .zero 0 0, 5, 13),
  (.nbar .null .lane 0 0, 5, 8), (.nbar .null .zero 0 2, 3, 0), (.nbar (.x 0) .zero 0 1, 5, 13), (.gbar (.v 0) .zero 0 0 0, 5, 13), (.gbar .null .lane 0 0 0, 5, 8),
  (.gbar (.x 0) .zero 0 0 1, 5, 13), (.timew (.v 0) .zero 0, 5, 13), (.timew .null .lane 0, 5, 8), (.timer .null 0, 5, 13), (.rand .null .lane .zero, 5, 8),
  (.rand .null .zero (.v 0), 5, 3)] = true := by decide +kernel
theorem test_wf_launch_system : refused [
  (.launch (.v 0) (.x 0) 0, 5, 13), (.launch .null .zero 0, 5, 8), (.joinc .null (.x 0), 5, 13), (.joinc (.x 0) .zero, 5, 8), (.cfgnextPost .zero 0, 5, 8),
  (.strand (.x 0) .zero 0 5, 3, 0), (.strand (.x 0) .zero 0 4, 5, 13), (.strand (.x 0) .zero 0 2, 5, 8), (.strand (.x 0) (.x 0) 0 0, 5, 8),
  (.strand (.x 0) .zero 8 0, 3, 4), (.strand (.x 0) .zero 1 3, 6, 4), (.retire (.x 0) (.x 0) 0, 5, 13), (.retire .null (.x 0) 1, 5, 8), (.prio .null .zero 0 2, 3, 0),
  (.prio (.x 0) .zero 0 0, 5, 13), (.prio .null (.x 0) 0 0, 5, 8), (.prio .null .zero 8 0, 3, 4), (.prio (.x 0) .zero 1 1, 6, 4), (.trap (.v 0) 0, 5, 8),
  (.tret (.v 0) (.x 0) 0, 5, 13), (.tret .null .zero 0, 5, 8), (.tret .null (.x 0) 3, 3, 0), (.ctxsw .zero 0, 5, 8), (.ctxsw (.x 0) 4, 3, 0), (.qstop (.v 0) (.x 0) 2, 3, 0),
  (.qstop .null (.x 0) 0, 5, 13), (.qstop (.v 0) .zero 0, 5, 8), (.errlog (.x 0) (.x 0) 3, 3, 0), (.errlog (.x 0) .zero 0, 5, 13), (.errlog (.v 0) (.x 0) 0, 5, 8),
  (.errlog (.x 0) (.x 1) 1, 5, 8), (.mcmp .null (.x 0), 5, 13), (.mcmp (.x 0) (.x 1), 5, 8), (.attest .null (.x 0), 5, 13), (.attest (.x 0) .zero, 5, 8),
  (.cfgld .null (.x 0), 5, 13), (.cfgld (.x 0) .zero, 5, 8), (.cfgsig (.x 0) (.x 0) 2, 3, 0), (.cfgsig (.v 0) (.x 0) 0, 5, 13), (.cfgsig (.x 0) .zero 0, 5, 8),
  (.sysrd (.x 0) .zero 7, 3, 4), (.sysrd (.x 0) (.x 0) 1, 5, 13), (.sysrd (.x 0) .zero 0, 5, 8), (.sysrd (.x 0) (.x 0) 2, 5, 8)] = true := by decide +kernel
/-- Two literal sources read one literal word, and it has a form of R35. -/
theorem test_wf_literals : (Instr.iadd (.v 0) (.lit 1) (.lit 2) 0).wf = false ∧ (Instr.iadd (.v 0) (.lit 1) (.lit 1) 0).wf = true
    ∧ (Instr.iaddi (.v 0) (.lit 0x3FFFFFF) 0).wf = false := by decide +kernel

/-! ### Witnesses: for each statement with hypotheses, states and operands that meet them; a line each for clauses over one input -/

theorem witness_ControlFirings : (1 : BitVec 13) ≠ 0 ∧ (0x1FFF : BitVec 13) ≠ 0 := by decide +kernel
theorem witness_MovesAndConstants : sa.poisoned [.v 5] = none ∧ sa.srcVal (.v 15) (.v 5) = .vec ⟨[7, 8]⟩ ∧ sa.srcVal (.v 0) (.x 0) = .sca 9
    ∧ sa.srcVal (.x 3) (.v 5) = .vec ⟨[7, 8]⟩ ∧ sa.poisoned [.inp 1] = none ∧ sa.srcVal (.x 0) (.inp 1) = .sca 1 ∧ sa.srcVal (.out 7) (.v 5) = .vec ⟨[7, 8]⟩
    ∧ sa.srcVal (.out 0) (.inp 1) = .sca 1 ∧ sa.poisoned [.inp 0, .lane] = none := by decide +kernel
theorem witness_EmitAndTagset : sa.poisoned [.v 5] = none ∧ sa.my.regs.mask ≠ 0 ∧ (one 0 {}).poisoned [.v 5] = none ∧ (one 0 {}).my.regs.mask = 0
    ∧ sa.poisoned [.inp 7] = none := by decide +kernel
theorem witness_HeadersCountersMasks : sa.poisoned [.inp 0] = none ∧ sa.poisoned [.inp 1] = none ∧ (sa.head 4).kind = kPOISON := by decide +kernel
theorem witness_PoisonPropagates : sa.poisoned [.inp 4, .v 0] = some pt ∧ sa.poisoned [.v 0, .inp 4] = some pt ∧ sa.poisoned [.inp 4] = some pt ∧ ctxOf 4 = 4 ∧ ctxOf 3 < 4
    ∧ (2 : BitVec 3).toNat < 3 ∧ 3 ≤ (3 : BitVec 3).toNat := by decide +kernel
theorem witness_IntegerSums : sa.poisoned [.inp 0, .x 3] = none ∧ sa.poisoned [.inp 0] = none := by decide +kernel
theorem witness_IntegerLogic : sa.poisoned [.inp 1, .zero] = none := by decide +kernel
theorem witness_IntegerBitFields : sa.poisoned [.x 0, .x 1] = none ∧ sa.poisoned [.x 0] = none := by decide +kernel
theorem witness_AddressScanDivide : sa.poisoned [.x 1, .inp 0] = none ∧ isScalar (.v 15) = false ∧ sa.my.regs.mask.getLsbD 191 = true ∧ isScalar (.x 0) = true := by
  decide +kernel
theorem witness_CounterChains : let k (c : Chain) : State := one 0 { chain := c }
    ((7 : BitVec 4).toNat < 8 ∧ (k {}).poisoned [.x 0] = none ∧ (k {}).my.chain.se.length = 8)
    ∧ (k { pending := [8] }).my.chain.pending = 8 :: [] ∧ (k { pending := [7, 8] }).my.chain.pending = 7 :: [8]
    ∧ ((k {}).my.chain.pending = [] ∧ ∃ l, l < (k {}).my.chain.n ∧ (k {}).my.chain.e.getD l 0 = 0)
    ∧ ((k { e := [5], n := 1 }).my.chain.pending = [] ∧ ∀ l, l < (k { e := [5], n := 1 }).my.chain.n → (k { e := [5], n := 1 }).my.chain.e.getD l 0 ≠ 0) := by
  refine ⟨by decide +kernel, by decide +kernel, by decide +kernel, ⟨by decide +kernel, 0, by decide +kernel, by decide +kernel⟩, by decide +kernel⟩
theorem witness_FloatArithmetic : sa.poisoned [.v 5, .inp 0] = none ∧ sa.poisoned [.v 5] = none := by decide +kernel
theorem witness_FloatSpecialOperands : (val32 0x7FC00000#32).isNan = true ∧ val32 0x7F800000#32 = .inf false ∧ val32 0xFF800000#32 = .inf true ∧ val32 0#32 = .fin false 0 (-149)
    ∧ val32 0x80000001#32 = .fin true 1 (-149) ∧ (val32 0x7F800001#32).snan = true := by decide +kernel
theorem witness_FloatOrderSignClass : sa.poisoned [.inp 0, .v 5] = none ∧ sa.poisoned [.inp 0] = none ∧ (val32 0x7FC00000#32).isNan = true := by decide +kernel
theorem witness_FloatReductions : sa.poisoned [.v 5] = none ∧ sa.my.regs.mask.getLsbD 0 = true ∧ (val32 ((sa.srcVec (.v 5)).get 191)).isNan = false
    ∧ (one 0 {}).my.regs.mask = 0 ∧ (let n := one 0 { regs := { mask := 1, v := [(5, ⟨[0x7FC00001]⟩)] } }
        n.my.regs.mask.getLsbD 0 = true ∧ (val32 ((n.srcVec (.v 5)).get 0)).isNan = true) := by decide +kernel
theorem witness_FloatConversions : sa.poisoned [.v 5, .v 0] = none ∧ sa.poisoned [.v 5] = none ∧ ((1 : BitVec 2).toNat < 2 → (1 : BitVec 2).toNat < 2) := by decide +kernel
theorem witness_FormatsRoundTrip : e2m1 ∈ [fp32, fp16, bf16, e4m3, e5m2, e2m1] ∧ 15 < 2 ^ e2m1.width ∧ 65535 < 2 ^ 16 ∧ (e2m1.value 15).isNan = false
    ∧ (fp32.value 0x7F800000).isNan = false := by decide +kernel
theorem witness_BlockFormats : sa.poisoned [.v 5, .v 1] = none ∧ sa.poisoned [.v 5] = none ∧ (7 : BitVec 4).toNat < 8 ∧ (2 : BitVec 2) ≠ 3 := by decide +kernel
/-- Control on input c, data on input j, for every line of R231's table that the statement has. -/
theorem witness_PairsOfHeads : let p (j c : Nat) : State := one 48 (fed [(0, (kinds.buf j)), (1, kinds.buf c)])
    [(4, 0), (0, 4), (3, 4), (4, 5), (2, 2), (3, 3), (5, 5), (0, 3), (3, 0), (0, 2), (2, 6), (2, 0), (0, 5), (5, 0)].all (fun x =>
      ((p x.1 x.2).headOpt 0).isSome && ((p x.1 x.2).headOpt 1).isSome && !(p x.1 x.2).slotNow.loaded && !(p x.1 x.2).slotNow.pending) = true := by decide +kernel
theorem witness_Steering : let t (s : SlotState) (c : Token) : State := one 48 { fed [(0, [vt]), (1, [c]), (2, [st 3])] with slotSt := [(0, s)] }
    ((t {} (st 0)).headOpt 0 = some vt ∧ (t {} (st 0)).headOpt 1 = some (st 0) ∧ (st 0).kind = kDATA ∧ vt.kind = kDATA ∧ vt.sc = false)
    ∧ (t { loaded := true, rem := 1 } (st 2)).slotNow.loaded = true ∧ (t {} (st 2)).slotNow.loaded = false
    ∧ (sa.headOpt 2 = some (markTok 1 true 4) ∧ (markTok 1 true 4).kind = kMARK) ∧ (sa.headOpt 3 = some (eosTok 0) ∧ (eosTok 0).kind = kEOS)
    ∧ (sa.headOpt 4 = some pt ∧ pt.kind = kPOISON) := by decide +kernel
theorem witness_CopiesAndTags : sa.headOpt 0 = some vt ∧ sa.headOpt 1 = some (st 1) ∧ sa.slotNow.side = false ∧ vt.kind = kDATA
    ∧ (one 48 { kinds with slotSt := [(0, { side := true })] }).slotNow.side = true ∧ sa.headOpt 2 = some (markTok 1 true 4) := by decide +kernel
theorem witness_TagWindow : sm.res sm.cur.cid = some (rs 5) ∧ sm.poisoned [.zero] = none ∧ (∃ x ∈ (rs 5).tags, x.tag = 1 ∧ x.freed = false)
    ∧ ¬ ∃ x ∈ (rs 5).tags, x.tag = 2 ∧ x.freed = false := by decide +kernel
theorem witness_IntersectionsAndUnions :
    (([1, 5] : List Word).length ≤ 192 ∧ ([1, 5] : List Word).Pairwise (fun x y => x.toNat < y.toNat) ∧ ([] : List Word).Pairwise (fun x y => x.toNat < y.toNat))
    ∧ (sa.headOpt 0 = some vt ∧ vt.kind = kDATA) ∧ (sa.headOpt 2 = some (markTok 1 true 4) ∧ (markTok 1 true 4).kind = kMARK)
    ∧ (sa.headOpt 3 = some (eosTok 0) ∧ (eosTok 0).kind = kEOS) := by decide +kernel
theorem witness_FibresAndPieces : let t (s : SlotState) (d : Nat) : State := one 48 { fed [(0, kinds.buf d), (1, [st 3])] with slotSt := [(0, s)] }
    ((t { pending := true } 0).slotNow.pending = true) ∧ ((t {} 0).slotNow.pending = false ∧ (t {} 0).slotNow.loaded = false ∧ (st 3).kind = kDATA)
    ∧ (t { loaded := true, rem := 3 } 0).slotNow.loaded = true ∧ [0, 2, 3, 4, 5].all (fun d => ((t { loaded := true, rem := 3 } d).headOpt 0).isSome) = true
    ∧ (t {} 0).headOpt 1 = some (st 3) ∧ (1 : BitVec 4).toNat + 1 < (3 : BitVec 3).toNat ∧ (vt.kind = kDATA ∧ vt.sc = false) ∧ ((st 3).sc = true)
    ∧ (fld vt.mask 95 0 ≠ 0 ∧ fld vt.mask 191 96 ≠ 0) := by decide +kernel
theorem witness_CompactAndOrder : sa.poisoned [.inp 0] = none ∧ (14 : BitVec 4).toNat % 4 ≠ 3 := by decide +kernel
theorem witness_EndsAndStatus : [(3, kEOS), (0, kDATA), (4, kPOISON), (2, kMARK), (5, kDRAIN)].all (fun x => (sa.head x.1).kind == x.2) = true
    ∧ (sa.my.buf 0).length ≤ 8 ∧ sa.skew sa.cur.cid 7 ≤ 16 := by decide +kernel
/-- An access that passes its checks, one that fails, and none. -/
theorem witness_MemoryAccesses : let a (va : Nat) : Acc := { lane := 0, va := va, size := 4, op := .rd }
    sm.poisoned [.x 1] = none ∧ sm.poisoned [.inp 4] = some pt ∧ sm.checkAcc sm.cur.cid 4 (a 0x1000) = 0 ∧ sm.checkAcc sm.cur.cid 4 (a 0x1FFC) = 0
    ∧ sm.checkAcc sm.cur.cid 4 (a 0x2000) ≠ 0 ∧ sm.checkAcc sm.cur.cid 0 (a 0x10000) = 0 ∧ sm.checkAcc sm.cur.cid 0 (a 0x20000) ≠ 0 ∧ sm.keyFault 4 = false
    ∧ (one 40 { regs := { kr := 0xFFFF } }).keyFault 4 = true ∧ (one 40 {}).my.regs.mask = 0 := by decide +kernel
theorem witness_RequestsMade : sm.reqs = [] ∧ ({ port := 4, accs := [] } : Shot).tile = none := by decide +kernel
theorem witness_Atomics : sm.poisoned [.x 1] = none ∧ sm.keyFault 4 = false ∧ 64 ∈ [32, 64] := by decide +kernel

/-! Memory, its requests and its tables -/

/-- A state with lanes in v6 of the firing's context. -/
def vec6 (l : List Word) (s : State := sm) : State := s.updCtx s.cur.cid fun k => k.setV 6 ⟨l⟩
/-- A state with a port of the firing's context. -/
def prt (p : SPort) (s : State := sm) : State := s.setPort s.cur.cid 0 p
/-- A request of one access of element 5's context. -/
def rq (a : Acc) (port : Nat := 4) (keyed : Bool := false) : Req :=
  { id := 7, cid := 40, port := port, vspace := port = 4, accs := [a], deliver := .sreg 1, pend := some 3, fcount := 1, lid := 5, keyed := keyed, key := 0, ext := 0, cls := 0,
    release := none, tile := none, seq := 0, cycle := 0, issued := true, stopped := false, reported := none, acquire := false, serial := 0 }
/-- A read on its way to an HBM byte. -/
def rd : Acc := { lane := 0, va := 0x10000, size := 4, pa := some 0x20000, op := .rd, st := .flight }
/-- That state with requests. -/
def rqs (l : List Req) (s : State := sm) : State := { s with reqs := l }
/-- Page tables of address space 1: a root, three tables and a leaf that maps page 0x10000 to frame 0x20000 with RD, WR and USR. -/
def tabs (s : State := sm) : State :=
  { s with
    mem := memWrite (memWrite (memWrite (memWrite [] 0x100000 (bytesLE 8 (2 ^ 62 + 0x200000))) 0x200000 (bytesLE 8 (2 ^ 62 + 0x201000))) 0x201000 (bytesLE 8 (2 ^ 62 + 0x202000)))
      0x202008 (bytesLE 8 (2 ^ 63 + 2 ^ 59 + 2 ^ 58 + 2 ^ 57 + 0x20000)),
    pkg := { s.pkg with xlat := { xroot := [(1, 0x100000)] } } }
/-- The address of that leaf. -/
def leaf : Nat := 0x202008
/-- A translation event. -/
def ev (k : XKind) (g : XStage) (va : Nat := 0x10000) (arg : Nat := 0) : Xev := { id := 9, cid := 44, asid := 1, kind := k, va := va, arg := arg, pend := some 3, out := none, stage := g }
/-- A state with that event. -/
def evs (e : Xev) (s : State := tabs) : State := { s with pkg := { s.pkg with xlat := { s.pkg.xlat with evs := [e] } } }

/-- A state in which a migration has frozen that frame. -/
def frz (s : State) : State := evs { ev (.migrate 3) (.frozen 9) with oldBase := 0x20000 } s

/-- A state in whose HBM blocks an uncorrectable error stands, which nothing has found yet. -/
def bad (l : List Nat) (s : State) : State := { s with hbmErrs := l.map fun b => (0, b) }

/-- SPORT with a sound descriptor and with each breach, a read stream with the key at its end; SREQ; SGATH with and without lanes. -/
theorem witness_Streams : sm.gen sm.cur.cid 0 = some gn
    ∧ (let d (l : List Word) : Nat := portDesc ((vec6 l).srcVec (.v 6))
       (descReserved (d [0, 0, 0, 0, 1, 4]) false = false ∧ descMisaligned (d [0, 0, 0, 0, 1, 4]) = false ∧ sm.descOutside gn (d [0, 0, 0, 0, 1, 4]) = false
         ∧ sm.descOutside gn (d [0xFFFC, 0, 0, 0, 1, 4]) = false ∧ sm.keyFault 0 = false)
       ∧ descReserved (d [0, 0, 0, 1, 1, 4]) false = true ∧ descMisaligned (d [2, 0, 0, 0, 1, 4]) = true ∧ sm.descOutside gn (d [0x10000, 0, 0, 0, 1, 4]) = true
       ∧ (one 40 { regs := { kr := 0xFFFF } }).keyFault 0 = true)
    ∧ ((prt { mode := .read, buf := [⟨vt, [], false⟩] }).sport 0).buf = ⟨vt, [], false⟩ :: []
    ∧ (let w := prt { mode := .write, counts := [192], strides := [4, 0, 0, 0] }
       (w.head 0).kind = kDATA ∧ ((w.head 0).sc = false ∧ (Mask.list (w.head 0).mask).length = 192) ∧ 0 + 192 ≤ (w.sport 0).total
         ∧ w.checkAll w.cur.cid 0 ((w.sport 0).stores gn.base 0 0 (List.replicate 192 7)) = none ∧ (w.head 2).kind = kMARK ∧ (w.head 4).kind = kPOISON)
    ∧ sm.poisoned [.v 5] = none ∧ (one 40 {}).my.regs.mask = 0 := by decide +kernel
theorem witness_Tiles : (sm.tile 0 0 = some tl ∧ tl.st = .ready ∧ tl.holders = 0 ∧ tl.bytes = 64 + 64) ∧ sm.tile (regionOf sm.cur.cid) (1 : BitVec 12).toNat = some { tl with st := .opened }
    ∧ sm.tile 0 2 = some { tl with st := .empty } ∧ sm.poisoned [.x 0, .x 1] = none ∧ (sm.srcSca (.x 1)).toNat % 4 = 0 ∧ (sm.srcSca (.x 0)).toNat % 4 ≠ 0
    ∧ ({ tl with st := .opened } : Tile).grants (.op 1) = false ∧ tl.grants (.op 2) = false := by decide +kernel
theorem witness_Allocations : sm.res sm.cur.cid = some (rs 5) ∧ sm.poisoned [.x 1] = none ∧ sm.keyed sm.cur.cid = false ∧ (sm true).keyed (sm true).cur.cid = true
    ∧ (1 ≤ (sm.srcSca (.x 1)).toNat ∧ (sm.srcSca (.x 1)).toNat ≤ 2 ^ 26 ∧ sm.myAllocs.length < 16)
    ∧ fitsAt (sm.taken 0) 0 4096 = true ∧ fitsAt (sm.taken 0) 0x1000 4096 = false ∧ ¬ 1 ≤ (sm.srcSca .zero).toNat
    ∧ (sm.myAllocs.find? fun y => y.vault * 2 ^ 26 + y.offset = 0x1000) = some al ∧ ∀ x ∈ sm.myAllocs, x.vault * 2 ^ 26 + x.offset ≠ 9 := by decide +kernel
theorem witness_OrderingInstructions : sm.poisoned [.inp 0] = none ∧ sm.poisoned [.inp 4] = some pt ∧ sm.poisoned [.x 0] = none ∧ (sm true).keyed (sm true).cur.cid = true
    ∧ (0 : Dword).toNat < (one 40 { regs := { kr := 5 } }).my.regs.kr.toNat
    ∧ 2 ^ 16 ≤ ((one 40 { regs := { kr := 0xFFFF } }).my.regs.kr.extractLsb' 0 16).toNat + ((1 : Dword).extractLsb' 0 16).toNat := by decide +kernel
/-- A target in trap state, at a trap and at a break, one that runs, and none. -/
theorem witness_TrapsAndReturns : let t (p : Option TrapState) : State := { sm.updCtx 40 (fun k => k.updCtl fun c => { c with trap := p }) with cur := { cid := 44 } }
    (t none).target 41 = none ∧ (t none).target 40 = some 40 ∧ ((t none).ctx 40).ctl.trap = none ∧ (t (some ⟨3, false⟩)).target 40 = some 40
    ∧ ((t (some ⟨3, false⟩)).ctx 40).ctl.trap = some ⟨3, false⟩ ∧ ((t (some ⟨3, true⟩)).ctx 40).ctl.trap = some ⟨3, true⟩ := by decide +kernel
/-- Sori with no owner, with the sender's context, with another owner, and with another issuer of the sender's context in keyed mode. -/
theorem witness_PoolCommands : let t (o : Option Nat) (l : SMap Nat) (k : Bool) : State := (sm k).updNode 0 0 fun n => { n with owner := o, issuer := l }
    ((t none [] false).node 0 0).owner = none ∧ ((t (some 0) [] false).node 0 0).owner = some (ctxOf 40) ∧ (((t (some 1) [] false).node 0 0).owner = some 1 ∧ 1 ≠ ctxOf 40)
    ∧ ((t (some 0) [(1, 6)] true).keyed 40 = true ∧ SMap.find ((t (some 0) [(1, 6)] true).node 0 0).issuer 1 = some 6 ∧ 6 ≠ elemOf 40)
    ∧ sm.poisoned [.inp 4] = some pt ∧ sm.poisoned [.x 0] = none ∧ sm.keyFault 5 = false := by decide +kernel
/-- An access that may perform, one that meets a marked block, one that a keyed launch has placed. -/
theorem witness_AccessesPerform : let s := rqs [rq rd]
    (s.req 7 = some (rq rd) ∧ (rq rd).acc 0 = some rd ∧ rd.pa = some 0x20000 ∧ s.accReady (rq rd) rd = true ∧ s.bulkWaits (rq rd) rd = false ∧ (rq rd).keyed = false
      ∧ s.nodeCode (rq rd) rd 0x20000 = 0 ∧ s.granLive 0x20000 = true ∧ s.blockTag (0x20000 / 64) = rd.kslot)
    ∧ (rqs [rq rd] { sm with pkg := { sm.pkg with marked := [0x800] } }).nodeCode (rq rd) rd 0x20000 ≠ 0
    ∧ (rqs [rq rd 4 true]).accReady (rq rd 4 true) rd = true
    ∧ (let v : Acc := { rd with pa := some (2 ^ 52 + 0x1000) }
       let t := rqs [rq v]
       t.accReady (rq v) v = true ∧ t.bulkWaits (rq v) v = false ∧ t.rowWaits (rq v) v = false ∧ t.nodeCode (rq v) v (2 ^ 52 + 0x1000) = 0
         ∧ (rq v).accs = [v] ∧ v.code = 0 ∧ (rq v).port = 4 ∧ (rq v).tile = none ∧ (rq v).settled = false ∧ (rq v).deliver = .sreg 1 ∧ (rq v).pend = some 3
         ∧ ({ v with op := .wr 1 } : Acc).op.reads = false)
    ∧ (rqs [rq { rd with st := .placed } 4 true]).keyReady (rq { rd with st := .placed } 4 true) { rd with st := .placed } = true := by decide +kernel
theorem witness_MemoryEvents : let r := rq { rd with st := .done } 0
    let run (p : SPort) : State := prt p
    ((rqs [r]).reqs = [] ++ r :: [] ∧ r.cid = 40 ∧ r.port = 0 ∧ (∃ a ∈ r.accs, a.op.reads = true) ∧ ∀ a ∈ r.accs, a.over = true)
    ∧ ((run { mode := .read, chain := { e := [1], armed := true } }).gen 40 0 = some gn ∧ (run { mode := .read }).headReq 40 0 = none
      ∧ (run { mode := .read }).portBusy 40 0 = false ∧ ((run { mode := .read }).sport 0).start ≤ sm.cycle ∧ ((run { mode := .read }).sport 0).frozen = false
      ∧ ((run { mode := .read }).sport 0).chain.spent = false ∧ ((run { mode := .read }).sport 0).todo = []
      ∧ ((run { mode := .read, todo := [(0, 0x10000)] }).sport 0).todo ≠ []
      ∧ (SMap.get ((run { mode := .gath, rows := [0x10000], roww := 1 }).ctx 40).ports 0 {}).rows = [0x10000])
    ∧ (let l : List (Nat × Nat) := [(0, 0xFFFC), (1, 0x10000)]
       (1 : Nat) ≠ 3 ∧ ({ mode := .read } : SPort).mode ≠ .gath ∧ (({ mode := .read } : SPort).run 0 l) = [(0, 0xFFFC)] ∧ l.drop 1 = (1, 0x10000) :: [])
    ∧ ((SMap.get ((run { gath := some (2, 3), buf := [⟨vt, [], false⟩] }).ctx 40).ports 0 {}).gath = some (2, 3) ∧ (sm.ctx 40).outReg 2 = none)
    ∧ ((rqs [{ r with cls := 1 }]).req 7 = some { r with cls := 1 } ∧ 0 + 4096 ≤ ({ sm with cycle := 4096 } : State).cycle)
    ∧ (let q : Req := { rq { rd with op := .wr 1, st := .placed } 4 true with tile := some 2, settled := true }
       let w : State := (rqs [q]).updTile 0 2 fun t => { t with st := .filling }
       w.req 7 = some q ∧ q.tile = some 2 ∧ w.tile (regionOf q.cid) 2 = some { tl with st := .filling })
    ∧ (isHbm 0x20000 = true ∧ sm.isMarked 0x20000 = false ∧ (rq rd).acc 0 = some rd ∧ rd.op.reads = true ∧ (rq { rd with op := .wr 1 }).covers (0x20000 / 64) = false)
    ∧ (let d : Deadline := { id := 3, cid := 40, fcount := 1, key := 0, pas := [0x20000], until_ := 100 }
       ([d].find? fun e => e.id = 3) = some d)
    ∧ (let o : State := sm.updRegion 0 fun g => { g with tiles := [(0, { tl with st := .opened, mark := some 5 }), (1, { tl with st := .draining, mark := some 5 })] }
       o.storesDone 0 0 (o.vaultKey (vaultVa 0 0x2000)) 128 5 = true ∧ o.tile 0 0 = some { tl with st := .opened, mark := some 5 }
         ∧ o.tile 0 1 = some { tl with st := .draining, mark := some 5 } ∧ o.reqs = []) := by decide +kernel
/-- The walk of the tables meets every case of a status: a leaf of the level named, of another, an absent entry, a table, no root. -/
theorem witness_TranslationAnswers :
    (let s := evs (ev (.unmap 0 3) (.sent 0)); s.xev 9 = some (ev (.unmap 0 3) (.sent 0)) ∧ ∀ d ∈ s.pkg.xlat.evs, d.asid = 1 → d.id = 9)
    ∧ (let s := evs (ev (.unmap 0 3) .queued); s.unblocked (ev (.unmap 0 3) .queued) = true)
    ∧ vaGood 0x10000 (levelBytes 3) = true ∧ vaGood 0x10001 (levelBytes 3) = false ∧ sm.walk 1 0x10000 3 = none
    ∧ ((tabs.walk 1 0x10000 3).map fun w => (w.level, w.addr, w.word / 2 ^ 62)) = some (3, leaf, 2) ∧ ((tabs.walk 1 0x20000 3).map fun w => (w.level, w.word)) = some (3, 0)
    ∧ ((tabs.walk 1 0x40000000 3).map fun w => (w.level, w.word)) = some (1, 0) ∧ tabs.mapBad 0 1 0 3 0x30000 (2 ^ 63 + 0x20001) = true ∧ tabs.mapBad 0 1 0 3 0x30000 (2 ^ 63 + 0x30000) = false
    ∧ (({ sm with pkg := { sm.pkg with xlat := { evs := [{ ev (.unmap 0 3) .queued with id := 8 }, ev (.unmap 0 3) .queued] } } } : State).unblocked (ev (.unmap 0 3) .queued)) = false
    ∧ (evs (ev .xprobe (.done 0))).xev 9 = some (ev .xprobe (.done 0)) ∧ canonical (2 ^ 60) = false
    ∧ (ev .xprobe (.done 0)).origin = none ∧ (ev (.unmap 0 3) (.sent 0)).away = false ∧ (ev (.unmap 0 3) .queued).waitsFor (ev (.unmap 0 3) .queued) = true := by decide +kernel
theorem witness_TranslationChanges : let s (g : XStage) : State := evs (ev (.unmap 0 3) g) (tabs { sm with regions := [] })
    ((s (.inval 0)).xev 9 = some (ev (.unmap 0 3) (.inval 0)) ∧ SMap.find ((evs (ev (.unmap 0 3) (.inval 0))).region 0).res 0 = some (rs 5)
      ∧ SMap.find (rs 5).gens 0 = some gn ∧ gn.meets 1 0x10000 65536 = true ∧ (ev (.unmap 0 3) (.inval 0)).acks = [])
    ∧ ((s (.acked 0)).reqs = [] ∧ (∀ g ∈ (s (.acked 0)).regions, ∀ p ∈ g.2.res, p.2.asid ≠ 1) ∧ (s (.acked 0)).blockTag (leaf / 64) = 0
      ∧ (s (.acked 0)).pkg.sched.storedGens 1 = [] ∧ (s (.acked 0)).writeTurn (ev (.unmap 0 3) (.acked 0)) = true ∧ (ev (.unmap 0 3) (.acked 0)).kind.moves = 0
      ∧ ({ sm with pkg := { sm.pkg with xlat := { evs := [{ ev (.unmap 0 3) (.acked 9) with id := 8, va := 0x20000 }, ev (.unmap 0 3) (.acked 0)] } } } : State).writeTurn
          (ev (.unmap 0 3) (.acked 0)) = false)
    ∧ ((tabs.walk 1 0x10000 3).map fun w => (w.word / 2 ^ 62, decide (w.word < 2 ^ 64), decide (65536 ≤ levelBytes w.level))) = some (2, true, true)
    ∧ (levelBytes 3 < pageBytes 1) ∧ (sm.walk 1 0x10000 3 = none)
    ∧ (let q : Req := { rq { rd with st := .wait, pa := none } 0 with issued := false }
       let f : State := (rqs [q]).updGen 40 0 fun g => { g with window := [] }
       f.gate q = .fetch 1 ∧ f.headReq 40 0 = some q ∧ f.req q.id = some q ∧ q.stream = false ∧ q.fetched = []
         ∧ ((rqs [q]).updGen 40 0 fun g => { g with window := [], fetchAt := some 9 }).headGate 40 0 = .fetch 1
         ∧ ((rqs [q]).updGen 40 0 fun g => { g with table := [(1, { p := .frame 0x20000 true true true false 0, dDone := true, stale := true, lazy := true })] }).headGate 40 0 = .fetch 1
         ∧ (f.gen 40 0).map Gen.fetchAt = some none ∧ f.headGate 40 0 = .fetch 1 ∧ SMap.find gn.table 1 = some { p := .frame 0x20000 true true true false 0, dDone := true }
         ∧ portCid 0 0 0 = 40
         ∧ (let w : Req := { q with accs := [{ lane := 0, va := 0x10000, size := 4, op := .wr 1 }] }
            let e : PatchEntry := { p := .frame 0x20000 true true true false 0 }
            let d : State := (rqs [w] tabs).updGen 40 0 fun g => { g with table := [(1, e)] }
            d.headGate 40 0 = .dirty 1 ∧ (d.gen 40 0).bind (fun g => SMap.find g.table 1) = some e
              ∧ (d.walk (d.asidOf 40) 0x10000 3).map (fun w => (patchOf 0x10000 65536 (some w)).1) = some e.p))
    ∧ (let m (g : XStage) : Xev := { ev (.migrate 3) g 0x10000 (2 ^ 63 + 0x40000) with oldBase := 0x20000, leafAt := leaf }
       (evs (m (.acked 0))).xev 9 = some (m (.acked 0)) ∧ frameOf (m (.acked 0)).arg = 0x40000 ∧ 0x20000 + levelBytes 3 ≤ 0x40000 ∧ leafSlot (m (.frozen 0)).arg = 0
         ∧ (evs (m (.frozen 0))).xev 9 = some (m (.frozen 0)) ∧ 0x20000 % 64 = 0 ∧ tabs.pkg.encTag = [] ∧ leafSlot (tabs.entryAt leaf) = 0
         ∧ (evs (m (.copied 0))).xev 9 = some (m (.copied 0)) ∧ (evs { m (.replay 0) with mark := 4 }).xev 9 = some { m (.replay 0) with mark := 4 }
         ∧ (evs { m (.replay 0) with mark := 4 }).reqs = [] ∧ (m (.replay 0)).mark = 0 ∧ (m (.replay 0)).acks = [] ∧ ({ m (.replay 0) with acks := [1] } : Xev).acks ≠ []
         ∧ (evs (m (.copied 0))).writeTurn (m (.copied 0)) = true) := by decide +kernel

/-! Copies, barriers, launches and system instructions -/

/-- The lanes of a copy descriptor: 4 bytes a row, one row, both sides V-space, from 0x1000 to 0x1100. -/
def cpl : List Word := [0x1000, 0, 0x1100, 0, 4, 1, 0, 0, 0x3000]
/-- That descriptor. -/
def cpd : BitVec 384 := BitVec.ofNat 384 (portDesc ⟨cpl⟩)
/-- Its command at the head of queue 0. -/
def cpc : CopyCmd := { cid := 40, fcount := 1, key := 0, reqs := 0, d := cpd, tb := some 2, bulk := false, pend := some 3, out := some (1, 0), lid := 5, cfg := 1 }
/-- A state with commands of copy queue 0, at cycle 9. -/
def cpq (l : List CopyCmd) (s : State := sm) : State := { s with cycle := 9 }.updRegion 0 fun g => { g with copyQ := [(0, { cmds := l })] }
/-- A sound packet of a child, LID 0x80000005, one level of one region. -/
def pkb : List Byte := bytesLE 8 (0x80000005 + 0x03 * 2 ^ 32) ++ List.replicate 56 0 ++ bytesLE 8 (1 + 3 * 2 ^ 32 + 3 * 2 ^ 36) ++ List.replicate 56 0
/-- The page tables with that packet at 0x10000. -/
def pks : State := { tabs with mem := memWrite tabs.mem 0x20000 pkb }
/-- An image with a WHEN 2 step for configuration 1 of region index 0. -/
def im : Image := { id := 1, cfgs := [cf 5], ports := [], seq := [⟨0, 1, 0, 2⟩], data := [], mani := [], digest := [] }
/-- A state in which that image runs in context 0 of region 0, with a posted word and the step to place next. -/
def run (q : List Dword) (pos : Option Nat := none) : State :=
  { sm with pkg := { sm.pkg with sched := { launches := [(5, { ln with
      image := some im, seqs := [(0, { region := 0, x := 0, pos := pos, phase := some 0, queues := [(1, q)], since := [] })] })] } } }

theorem witness_AsynchronousInstructions : (vec6 cpl).copyBad 40 cpd = false ∧ (fld (0 : BitVec 384) 191 160 = 0 ∧ sm.copyBad 40 0 = true)
    ∧ (let t (o : Option Nat) : State := sm.updTb 0 2 fun b => { b with owner := o, nseal := 1, seals := 1 }
       (((t (some 6)).tb 0 2).owner = some 6 ∧ 6 ≠ sm.lidOf 40) ∧ ((t (some 5)).tb 0 2).owner = some (sm.lidOf 40) ∧ ((t none).tb 0 2).owner = none
         ∧ (((t none).tb 0 2).nseal ≠ 0 ∧ ((t none).tb 0 2).seals = 1 ∧ ((t none).tb 0 2).owed = 0) ∧ (sm.tb 0 2).nseal = 0)
    ∧ ((sa.head 4).kind = kPOISON ∧ ((sa.head 0).kind = kDATA ∧ (sa.head 0).dep = false) ∧ ((sa.head 7).kind = kDATA ∧ (sa.head 7).dep = true) ∧ (sa.head 2).kind = kMARK
      ∧ (sa.headOpt 7).isSome = true ∧ sm.keyFault 5 = false)
    ∧ sm.poisoned [.x 0] = none ∧ (sm.srcSca .zero).extractLsb' 0 16 = 0 ∧ 1 ∉ (sm.tb 0 2).poisGens
    ∧ (let t : State := sm.updTb 0 63 fun b => { b with gen := 1 }
       (BitVec.allOnes 64).getLsbD 63 = true ∧ (t.tb 0 63).gen ≠ (SMap.get t.my.regs.seen 63 0).toNat ∧ (t.tb 0 62).gen = (SMap.get t.my.regs.seen 62 0).toNat)
    ∧ (let b (o : Option Nat) (n : Nat) : State := sm.updBarrier 31 fun _ => { owner := o, arrived := n, count := n + 1 }
       ((b (some 6) 0).barrier 31).owner = some 6 ∧ ((b none 0).barrier 31).arrived = 0 ∧ ((b (some 5) 1).barrier 31).arrived + 1 = ((b (some 5) 1).barrier 31).count
         ∧ ((sm.updBarrier 31 fun _ => { arrived := 1, count := 3 }).barrier 31).arrived + 1 < 3) := by decide +kernel
theorem witness_CopyAndBarrierEvents : let q (s : State) : CopyQ := SMap.get (s.region 0).copyQ 0 {}
    (let s := sm.updRegion 0 fun g => { g with copyIn := [cpc] }; (s.region 0).copyIn = [] ++ cpc :: [] ∧ cpc.q = 0 ∧ cpc.arrives ≤ s.cycle + 1)
    ∧ (let s := cpq [cpc]
       (q s).cmds = cpc :: [] ∧ cpc.finished = false ∧ (q s).qstop = false ∧ cpc.arrives < s.cycle ∧ s.engineTurn cpc.cid cpc.key cpc.reqs = true ∧ cpc.cut = false
         ∧ cpSv cpc.d = true ∧ cpDv cpc.d = true ∧ cpDten cpc.d = false ∧ (s.rowCheck 0 cpc cpc.row).both (s.pieceCheck cpc) = .ok ∧ s.vaultErrs = []
         ∧ cpBytes cpc.d % 4 = 0 ∧ 256 * cpc.piece < cpBytes cpc.d)
    ∧ (let k := { cpc with d := cpd ||| BitVec.twoPow 384 270, id := 5, finished := true }
       let s := (cpq [k]).updTile 0 0 fun t => { t with st := .filling }
       cpDten k.d = true ∧ s.tileWaits 0 (cpTile k.d) (.copy k.id) = false ∧ s.tile 0 (cpTile k.d) = some { tl with st := .filling })
    ∧ (let k := { cpc with d := BitVec.ofNat 384 (portDesc ⟨[0x3000, 0, 0x1100, 0, 4, 1, 0, 0, 0x3000]⟩) }; ((cpq [k]).rowCheck 0 k 0).both ((cpq [k]).pieceCheck k) = .fail 0x22 0x3000)
    ∧ (let k := { cpc with d := BitVec.ofNat 384 (portDesc ⟨[0x10000, 0, 0x1100, 0, 4, 1, 0, 0, 0x2000]⟩) }
       let s := (cpq [k]).updGen 40 0 fun g => { g with access := 2, table := [] }; (s.rowCheck 0 k 0).both (s.pieceCheck k) = .np 0x10000 ∧ (q s).reported ≠ some 0x10000
         ∧ (let w := (cpq [k]).updGen 40 0 fun g => { g with access := 2, table := [(1, { p := .np, stale := true })] }; (w.rowCheck 0 k 0).both (w.pieceCheck k) = .wait))
    ∧ (let s := cpq [{ cpc with finished := true }]; (q s).cmds = { cpc with finished := true } :: [] ∧ cpc.arrives ≤ s.cycle ∧ regionOf cpc.cid = 0)
    ∧ (let s := sm.updTb 0 0 fun b => { b with nseal := 1 }; (s.tb 0 0).nseal ≠ 0 ∧ (s.tb 0 0).seals = 0 ∧ (s.tb 0 0).owed = 0)
    ∧ (let s := sm.updBarrier 8199 fun b => { b with leaving := [(0, 4, true, [⟨40, some 3, some (1, 2), 9⟩])] }
       (s.barrier 8199).leaving = (0, 4, true, [⟨40, some 3, some (1, 2), 9⟩]) :: [] ∧ 0 ≤ s.cycle) := by decide +kernel
theorem witness_TimeAndRandom : sm.poisoned [.x 0] = none ∧ sm.poisoned [.x 0, .x 1] = none
    ∧ (sm.pkg.time.tsc.toNat + 2 ^ 36 < (BitVec.allOnes 64).toNat) ∧ (sm.srcSca (.x 0)).toNat ≤ sm.pkg.time.tsc.toNat + 2 ^ 36
    ∧ (let s (t : Dword) : State := sm.updCtx 40 fun k => k.updCtl fun c => { c with wait := .timew t (some 3) }
       ((s 1).ctx 40).ctl.wait = .timew 1 (some 3) ∧ (s 1).pkg.time.tsc.toNat < 1 ∧ ((s 0).ctx 40).ctl.wait = .timew 0 (some 3))
    ∧ (SMap.find sm.pkg.sched.launches (sm.lidOf 40) = some ln ∧ 0 + 48 ≤ ln.pkt.ccount ∧ ln.pkt.ccount < 1 + 48) := by decide +kernel
theorem witness_LaunchInstructions :
    (let rd_ (n : Option Nat) (s : State) : State := s.updCtx 40 fun k => k.updCtl fun t => { t with readAt := n }
     let reads (s : State) (f : List Byte → Bool) : Bool := match s.packetAt 40 0x10000 false with | .ok b _ => f b | .fail _ _ => false | .wait => false | .found _ => false
     (sm.keyFault 5 = false ∧ (one 40 { regs := { kr := 0xFFFF } }).keyFault 5 = true)
     ∧ (sm.my.ctl.readAt = none ∧ sm.myTurn = true ∧ (rqs [rq rd 4 true] (sm true)).myTurn = false)
     ∧ ((rd_ (some 9) sm).my.ctl.readAt = some 9 ∧ sm.cycle < 9 ∧ (rd_ (some 0) sm).my.ctl.readAt = some 0 ∧ 0 ≤ sm.cycle ∧ (rd_ (some 0) sm).keyFault 5 = false)
     ∧ ((match (rd_ (some 0) sm).packetAt 40 0x10000 false with | .fail c a => c == 0x25 && a == 0x10000 | .ok _ _ => false | .wait => false | .found _ => false) = true)
     ∧ ((match (frz pks).packetAt 40 0x10000 false with | .wait => true | .ok _ _ => false | .fail _ _ => false | .found _ => false) = true)
     ∧ ((match (bad [0x800] pks).packetAt 40 0x10000 false with | .found a => a == 0x20000 | .ok _ _ => false | .fail _ _ => false | .wait => false) = true)
     ∧ reads tabs (fun b => !pktSound b true 1) = true
     ∧ reads pks (fun b => b == pkb && pktSound b true 1 && !pks.lidLive (leAt b 0 4) && b.length == 128) = true
     ∧ (let p : State := { pks with pkg := { pks.pkg with sched := { launches := [(0x80000005, ln)] } } }; reads p (fun b => p.lidLive (leAt b 0 4)) = true))
    ∧ sm.child 40 9 = .none ∧ ({ sm with pkg := { sm.pkg with sched := { launches := [(5, { ln with kids := [(9, (0x20, 2))] })] } } } : State).child 40 9 = .done 0x20 2
    ∧ sm.myRun = none ∧ ((run [7]).myRun.map fun v => (v.image.candidate v.g 1, SMap.get v.seq.queues 1 [], v.seq.posted)) = some (true, [7], []) ∧ sm.res 40 = some (rs 5)
    ∧ (let l : Launch := { ln with snapshot := List.replicate 8 1, pkt := { pk with levels := [1, 0x300000001] } }
       8 * (sm.srcSca .zero).toNat < l.snapshot.length ∧ ln.snapshot.length ≤ 8 * (sm.srcSca .zero).toNat
         ∧ l.pkt.levels[(0 : Nat)]? = some 1 ∧ ((1 : Dword).extractLsb' 32 4).toNat < 3
         ∧ l.pkt.levels[(1 : Nat)]? = some 0x300000001 ∧ 3 ≤ ((0x300000001 : Dword).extractLsb' 32 4).toNat)
    ∧ sm.launch (sm.lidOf 40) = some ln ∧ (one 40 {}).launch 0 = none ∧ ln.pkt.levels[(0 : Nat)]? = none
    ∧ (al ∈ sm.myAllocs ∧ vaultVa al.vault al.offset = 0x1000) ∧ (one 40 {}).myAllocs = [] := by decide +kernel
theorem witness_SystemInstructions : sm.target 40 = some 40 ∧ sm.target 41 = none ∧ (sm.stopQueues 0 0xFFFF).allStopped 0 0xFFFF = true ∧ sm.pkg.errLog.recs = []
    ∧ ((9 : Nat) % 65536 ≠ 0) ∧ (0 % 65536 = 0 ∧ 0 + 0x10000 ≤ 2 ^ 41 ∧ sm.pkg.pkgId < 2 ^ 11)
    ∧ (pks.reach 1 false false 0x10000 448 = .ok [(0x20000, 0, 448)] ∧ pks.piecesCode 40 false [(0x20000, 0, 448)] = none ∧ maniSound (pks.readPieces [(0x20000, 0, 448)]) = false)
    ∧ sm.pkg.trust.attQ.length < 16 ∧ 383 < (511 : Nat) ∧ ((0 : Dword).extractLsb' 0 9).toNat ≤ 383 ∧ (SMap.get (sm.region 0).sinks 0 {}).origin = none := by decide +kernel
/-- CFGLD's record, written again, matches the digest kept at load. -/
theorem witness_SystemInstructions_reload : let u := (sm.reloadRecord 40).updCtx 40 fun k => k.updCtl fun x => { x with reload := sm.cycle + 173 }
    u.storedDigest 40 = u.keptDigest 40 := by
  refine congrArg sm3 (a₁ := ElemRec.bytes _) (a₂ := ElemRec.bytes _) ?_
  rfl

/-! What contexts, links, the pool and the scheduler do on their own -/

/-- A configuration with a wire from output 0 of element 5 to input 1 of element 6, to itself by output 2, and a multicast output 3. -/
def cw : Cfg := { cf 5 with wires := [⟨5, 0, 6, 1, false⟩, ⟨5, 2, 5, 2, false⟩, ⟨5, 3, 6, 4, true⟩, ⟨5, 3, 7, 4, true⟩] }
/-- Element 5 with that configuration and a token in its output register 0. -/
def lk : State := ({ sm with regions := [(0, { res := [(0, { rs 5 with cfg := cw })] })] } : State).updCtx 40 fun k => { k with ch := { outr := [(0, vt)] } }
/-- Element 5's context with a result. -/
def pn (e : Eff) (due : Option Nat) : State := one 40 { pend := [⟨3, due, [], [], [], [], [e]⟩] }
/-- A record. -/
def rc : Rec := { code := 2, kind := 0, slot := 0, flags := 5, source := 40, fcount := 1, time := 0, lid := 5, asid := 1, seq := 0, addr := 0, key := 0, detail := 0, detail2 := 0 }
/-- A token on its way to input 1 of element 6. -/
def fl (t : Token) (at_ : Nat) : State := { sm with flight := [⟨4, 40, 0, 48, 1, at_, t, false⟩] }

theorem witness_ContextEvents : ((pn (.sreg 1 7) (some 0)).ctx 40).pend = [⟨3, some 0, [], [], [], [], [.sreg 1 7]⟩]
    ∧ ((pn (.sreg 1 7) (some 1)).ctx 40).pend.all (fun p => p.due.all fun n => decide (0 < n)) = true
    ∧ (let s (n : Nat) : State := one 0 { ctl := { wait := .idle n } }; ((s 0).ctx 0).ctl.wait = .idle 0 ∧ ((s 1).ctx 0).ctl.wait = .idle 1)
    ∧ (let s := sm.updElem 5 fun e => { e with divBusy := some 0, sfuBusy := some 1, sm4Busy := some 0 }
       (s.elem 5).divBusy = some 0 ∧ (s.elem 5).sfuBusy = some 1 ∧ (s.elem 5).sm4Busy = some 0)
    ∧ (SMap.get (lk.elem 5).link 0 0 ≤ lk.cycle ∧ lk.sendable 40 0 = true ∧ (lk.ctx 40).outReg 0 = some vt ∧ lk.wiresOf 40 0 = [⟨5, 0, 6, 1, false⟩]
      ∧ 5 * 8 + (SMap.get (lk.elem 5).rr 0 4 + 1 + 0) % 5 = 40)
    ∧ ((fl vt 1).flight.find? (fun g => decide (g.id = 4)) = some ⟨4, 40, 0, 48, 1, 1, vt, false⟩ ∧ 1 ≤ (fl vt 1).cycle + 1 ∧ (fl vt 1).beatsStop 48 = false
      ∧ (((fl vt 1).ctx 48).buf 1).length < 8 ∧ vt.kind.toNat < 5 ∧ 5 ≤ ({ kind := 5 } : Token).kind.toNat
      ∧ 8 ≤ ((((fl vt 1).updCtx 48 fun k => k.updCh fun c => { c with inb := [(1, List.replicate 8 vt)] }).ctx 48).buf 1).length)
    ∧ (let w (s : State) : State := s.updRegion 0 fun g => { g with rfctl := 2 ^ 31 + 1024 * 2 ^ 32, wdCount := 1024 }
       ((w sm).region 0).rfctl.getLsbD 31 = true ∧ ((w sm).region 0).rfctl.getLsbD 30 = false ∧ max 1024 (((w sm).region 0).rfctl.extractLsb' 32 32).toNat ≤ ((w sm).region 0).wdCount
         ∧ (w sm).deadHolds 0 = true ∧ (w (one 40 {})).deadHolds 0 = false)
    ∧ (let m := (lk.updRegion 0 fun g => { g with mcctl := 2 ^ 32 + 256 }).updCtx 40 fun k => k.updCh fun c => { c with stall := [(3, 256)] }
       (m.region (regionOf 40)).mcctl.getLsbD 32 = true ∧ max 256 ((m.region 0).mcctl.extractLsb' 0 32).toNat ≤ SMap.get (m.ctx 40).ch.stall 3 0
         ∧ (m.fan 40 3).taken.find? (fun x => decide (x.2 = (m.fan 40 3).slowest)) = some (48 * 8 + 4, 0))
    ∧ (let w : State := sm.updCtx 40 fun k => { k with pend := [⟨3, some 9, [], [], [], [], []⟩] }
       w.writesDue (rc.source % 2 ^ 18) = true ∧ rc.kind = 0 ∧ sm.writesDue (rc.source % 2 ^ 18) = false)
    ∧ (let q (s : State) : State := { s with cycle := 9 }.updRegion 0 fun g => { g with trapIn := [⟨8, rc⟩] }
       ((q sm).region 0).trapIn = [⟨8, rc⟩] ∧ ((q sm).region 0).freeze = none ∧ (q sm).viaPort 0 rc = true
         ∧ (let h := q (sm.updRegion 0 fun g => { g with res := [(4, rs 6)] })
            h.viaPort 0 rc = false ∧ ((h.ctx (mkCid 0 6 4)).buf 7).length < 8 ∧ (h.res (mkCid 0 6 4)).isSome = true
              ∧ 8 ≤ (((h.updCtx (mkCid 0 6 4) fun k => k.updCh fun c => { c with inb := [(7, List.replicate 8 vt)] }).ctx (mkCid 0 6 4)).buf 7).length)) := by decide +kernel

/-- A carving word: dot group 3 of one leaf from leaf 0, FP16 by FP16. -/
def cwd (gid start count : Nat) (sort : Bool := false) : Dword := BitVec.ofNat 64 (count * 2 ^ 40 + start * 2 ^ 30 + gid * 2 ^ 16 + (if sort then 2 ^ 53 else 0))
/-- A part of that group in generation 1. -/
def gp (sort : Bool := false) : Group := { word := cwd 3 0 1 sort, gFrom := 1, joined := true }
/-- A command of the firing. -/
def pc (op : PoolOp) (stamp : Nat := 1) : PoolCmd := { id := 6, op := op, cid := 40, fcount := 1, key := 0, reqs := 0, sori := [0], arrives := 0, stamp := stamp, num := 2 }
/-- Sorus 0 of region 0 as given, at cycle 50. -/
def nd (n : Node) : State := { sm with cycle := 50 }.updNode 0 0 fun _ => n
/-- A latch row that has arrived. -/
def lr : LatchRow := { num := 1, here := true, width := 8, fmt := 0, blk := 0, entry := 0, code := 0, elems := [], scales := [] }
/-- A row the gather unit has to bring in. -/
def gr (due : Option Nat) : GatherRow :=
  { id := 6, fcount := 1, so := 0, lane := 1, num := 1, tile := 0, col := 0, width := 8, ix := 0, cid := 40, last := false, pend := none, out := none, key := 0, reqs := 0, due := due }
/-- A map word that covers group 3 and reads lane 1: a load map or a multiply map. -/
def mwd (load : Bool) : Dword := BitVec.ofNat 64 (3 * 2 ^ 54 + (if load then 2 ^ 40 else 0) + 2 ^ 37)

/-- The save path at a page that is there, that is not, and at an address out of place; a record that is none of the trust engine's. -/
theorem witness_PoolSendingAndSaving : canonical 0x10000 = true ∧ 0x10000 % 65536 = 0 ∧ canonical (2 ^ 60) = false ∧ 0x10001 % 65536 ≠ 0
    ∧ sm.reach 1 false true 0x10000 (2 ^ 21) = .np 0x10000 ∧ tabs.reach 1 false true 0x10000 64 = .ok [(0x20000, 0, 64)] ∧ tabs.piecesCode 40 true [(0x20000, 0, 64)] = none
    ∧ sm.keyFault 5 = false ∧ (sm.node 0 0).owner = none ∧ sm.queuesEmpty 0 0 = true ∧ sm.restorable [] = none
    ∧ (frz tabs).reach 1 false true 0x10000 64 = .hold ∧ (sm.updNode 0 0 fun n => { n with cq := { cmds := [pc .commit] } }).queuesEmpty 0 0 = false
    ∧ ((sm.node 0 0).cq.cmds.length ≤ 16 ∧ (sm.node 0 0).lstat < 16 ∧ (sm.node 0 0).issuer = []) := by decide +kernel
theorem witness_PoolCarvingEvents : (let s := (nd {}).updRegion 0 fun g => { g with poolIn := [pc .commit] }
       (s.region 0).poolIn = [pc .commit] ∧ (pc .commit).arrives ≤ s.cycle + 1 ∧ (pc .commit).sori = [0] ∧ 255 < 256 ∧ 3 < 4 ∧ (pc .commit).arrives ≤ s.cycle)
    ∧ (let n (op : PoolOp) : Node := { cq := { cmds := [pc op] }, staged := [cwd 3 0 1], gen := 1 }
       ((nd (n (.carve 0))).node 0 0).cq.cmds = pc (.carve 0) :: [] ∧ ((nd (n (.map 0))).node 0 0).cq.stop = none ∧ (pc .commit).startAt = none
         ∧ (∀ p ∈ (n .commit).groups, p.gTo.isSome = true → p.released = true) ∧ 41 + 8 + (1 + 0 + 31) / 32 ≤ (nd (n .commit)).cycle
         ∧ (∃ p ∈ [{ gp with gTo := some 1 }], p.gTo.isSome = true ∧ p.released = false) ∧ (∀ p ∈ [gp], p.gTo = none → p.released = false))
    ∧ stagedStatus [cwd 3 0 1] [] = 0 ∧ stagedStatus [cwd 3 0 2, cwd 4 1 1] [] ≠ 0
    ∧ (cwStart (cwd 3 0 2) < cwStart (cwd 4 1 1) + cwCount (cwd 4 1 1) ∧ cwStart (cwd 4 1 1) < cwStart (cwd 3 0 2) + cwCount (cwd 3 0 2))
    ∧ (let n : Node := { groups := [{ gp with gTo := some 1 }, { gp with joined := false, joinAt := some 9, gFrom := 2 }] }
       ({ gp with gTo := some 1 } : Group).gTo.isSome = true ∧ (nd n).spent 0 0 { gp with gTo := some 1 } = true
         ∧ (∀ p ∈ n.groups, ∀ q ∈ n.groups, p.gFrom = q.gFrom → cwGid p.word = cwGid q.word → p = q)
         ∧ n.groups[(1 : Nat)]? = some { gp with joined := false, joinAt := some 9, gFrom := 2 } ∧ cwGid gp.word = 3 ∧ 9 ≤ (nd n).cycle)
    ∧ (let s (d : Option Nat) : State := (nd { latch := [(1, [{ lr with here := false }])] }).updRegion 0 fun g => { g with gather := [gr d] }
       ((s (some 50)).region 0).gather = [gr (some 50)] ∧ SMap.get ((s (some 50)).node 0 0).latch 1 [] = { lr with here := false } :: []
         ∧ (gr none).last = false ∧ (s none).engineTurn (gr none).cid (gr none).key (gr none).reqs = true ∧ (∀ p ∈ (s none).rowPieces 0 (gr none), (s none).isFrozen p.1 = false)
         ∧ (s none).piecesCode 40 false ((s none).rowPieces 0 (gr none)) = none
         ∧ ({ s none with vaultErrs := [(0, (s none).vaultKey (vaultVa 0 0x2000) / 128)] } : State).piecesCode 40 false ((s none).rowPieces 0 (gr none)) ≠ none
         ∧ (s none).tileWaits 0 0 (.gather 6) = false ∧ ((s none).region 0).gather = [gr none] ∧ ((SMap.get ((s none).node 0 0).latch 1 []).filter LatchRow.here).length < 16)
    ∧ (((nd { oq := { cmds := [pc (.issue true none 1)] } }).node 0 0).q 1).cmds = pc (.issue true none 1) :: [] ∧ regionOf (pc .commit).cid = 0
    ∧ (gp.gTo = none ∧ cwLo gp.word = false ∧ cwHi gp.word = false) := by decide +kernel
theorem witness_PoolPassAndDrainEvents :
    (let s (ld : Bool) : State := nd { oq := { cmds := [pc (.issue ld none 1)] }, installed := 1, maps := [(1, [mwd ld])], groups := [gp], latch := [(1, [lr])] }
       let k (ld : Bool) : PoolCmd := pc (.issue ld none 1)
       [true, false].all (fun ld => (s ld).passReady 0 0 (k ld) ld none && ((s ld).node 0 0).passMaps 1 ld none == [(mwd ld, [gp])] && !(s ld).broken 0 0 gp
         && ((s ld).node 0 0).headRow 2 (passLane none (mwd ld)) == some lr && mwLoad (mwd ld) == ld) = true
       ∧ ((s true).node 0 0).runs = [] ∧ (nd { oq := { cmds := [pc (.issue true none 1)] }, installed := 1 }).passReady 0 0 (k true) true none = true)
    ∧ (let p (x : Send) : Group := { gp with sends := [(0, [⟨0, 2, 50, x⟩])] }
       (p (.flag 0x60)).sends = (0, [⟨0, 2, 50, .flag 0x60⟩]) :: [] ∧ ((nd { groups := [p .hole] }).node 0 0).groups = [] ++ p .hole :: []
         ∧ min 4096 (64 * cwCount gp.word) ≤ 64 ∧ 63 < min 4096 (64 * cwCount gp.word))
    ∧ (let s (op : PoolOp) (g : Group) : State := nd { dq := { cmds := [pc op] }, installed := 1, groups := [g] }
       let d : PoolOp := .drain 0 false false 3
       (s d gp).drainReady 0 0 (pc d) = true ∧ (s d gp).drainGroup 0 0 (pc d) 3 (dsFirst 0 + dsCount 0) = some gp ∧ (s d gp).drainGroup 0 0 (pc d) 4 1 = none ∧ dsCount 0 ≤ 16
         ∧ gp.poison = 0 ∧ ((s d { gp with poison := 0x60 }).node 0 0).groupAt 1 3 = some { gp with poison := 0x60 }
         ∧ (s (.clear 0 3) gp).drainReady 0 0 (pc (.clear 0 3)) = true ∧ ((s (.clear 0 3) gp).node 0 0).groupAt 1 3 = some gp ∧ ((s (.clear 0 4) gp).node 0 0).groupAt 1 4 = none
         ∧ cwSort gp.word = false ∧ cwSort (gp true).word = true ∧ ((s (.sort [1] 3) (gp true)).node 0 0).groupAt 1 3 = some (gp true)
         ∧ (s (.sortk false false 3) (gp true)).drainReady 0 0 (pc (.sortk false false 3)) = true ∧ 0 + 0 + 1 ≤ gp.entryCount
         ∧ (let g : Group := { gp true with keys := List.replicate 65 1 }
            (s (.clear 0 3) g).drainReady 0 0 (pc (.clear 0 3)) = true ∧ ((s (.clear 0 3) g).node 0 0).groupAt 1 3 = some g ∧ 64 < g.keys.length
              ∧ ((s (.clear 0 3) (gp true)).node 0 0).groupAt 1 3 = some (gp true) ∧ (gp true).keys.length ≤ 64))
    ∧ (let p : Packet := { cid := 40, out := 1, pend := some 3, toks := [vt, vt], due := 50, holds := false }
       ((nd { packets := [p] }).node 0 0).packets = [p] ∧ p.toks = vt :: [vt] ∧ ((nd { packets := [p] }).ctx 40).outReg 1 = none)
    ∧ (let w : TileWrite := { cid := 40, tile := 0, bytes := [1], due := 50, pend := none, out := none }
       let s := (nd { tileWrites := [w] }).updTile 0 0 fun t => { t with st := .filling }
       let k := pc (.drain 0 false true 3)
       let h := s.updNode 0 0 fun n => { n with dq := { cmds := [k] } }
       let base := s.vaultKey (vaultVa 0 tl.offset)
       (s.node 0 0).tileWrites = w :: [] ∧ s.tile 0 0 = some { tl with st := .filling } ∧ (h.node 0 0).dq.cmds = k :: [] ∧ (h.node 0 0).dq.stopped 2 = false
         ∧ h.engineTurn w.cid k.key k.reqs = true ∧ (∀ b ∈ pieceBlocks (base, 0, w.bytes.length), h.isFrozen (64 * b.1) = false ∧ h.vaultBad (64 * b.1) = false)
         ∧ h.piecesCode w.cid true [(base, 0, w.bytes.length)] = none
         ∧ ∃ b ∈ pieceBlocks (base, 0, w.bytes.length), ({ h with vaultErrs := [(0, base / 128)] } : State).vaultBad (64 * b.1) = true)
    ∧ (let p : Packet := { cid := 40, out := 1, pend := some 3, toks := [vt], due := 50, holds := true }
       let n : Node := { dq := { cmds := [pc (.sortk false false 3)] }, installed := 1, groups := [gp true], packets := [p] }
       p.holds = true ∧ n.dq.stopped 2 = false ∧ ((nd n).node 0 0).groupAt 1 3 = some (gp true) ∧ ((nd n).ctx 40).outReg 1 = none) := by decide +kernel

/-- A state whose scheduler holds launches. -/
def sc (l : SMap Launch) (d : List Delivery := []) : State := { State.reset with pkg := { bring := { step := 8 }, sched := { launches := l, deliveries := d } } }
/-- A sound packet from the control node, LID 5. -/
def hkb : List Byte := bytesLE 8 (5 + 0x03 * 2 ^ 32) ++ pkb.drop 8
/-- Its delivery. -/
def dl (b : List Byte) : Delivery := { source := 0, asid := 1, bytes := b, pkgs := [0], parent := none, host := true }
/-- The accepted launch of that packet. -/
def lacc : Launch := { ln with pkt := pktOf hkb, st := .accepted }

theorem witness_QueueingAndGrants : (pktSound hkb false 1 = true ∧ (sc [] [dl hkb]).inPod 5 = false ∧ (sc [(5, ln)] [dl hkb]).inPod 5 = true)
    ∧ (pktSound (List.replicate 128 0) false 1 = false ∧ (tabs.recordReach 1 0x10000 ≠ .hold) ∧ (frz tabs).recordReach 1 0x10000 = .hold)
    ∧ ((dl hkb).pkgs.head? = some (sc []).pkg.pkgId ∧ [1, 0].head? ≠ some (sc []).pkg.pkgId)
    ∧ ((sc [(5, { ln with st := .queued })]).launch 5 = some { ln with st := .queued } ∧ ({ ln with st := .queued } : Launch).waits = [] ∧ pk.paramLen = 0)
    ∧ (let l := { ln with st := .queued, pkt := { pk with paramLen := 1, paramVa := 0x10000 } }
       let reach (s : State) : Reach := s.reachClear 1 true false l.pkt.paramVa (64 * l.pkt.paramLen)
       l.pkt.paramLen ≠ 0 ∧ reach (sc [(5, l)]) = .np 0x10000 ∧ reach tabs = .ok [(0x20000, 0, 64)] ∧ reach (frz tabs) = .hold
         ∧ tabs.reachClear 1 true false (2 ^ 60) 64 = .fail 0x20 (2 ^ 60) ∧ ((sc [(5, l)]).pkg.sched.away = []))
    ∧ ((sc [(5, lacc)]).grantOrder = [(5, lacc)] ∧ (sc [(5, lacc)]).grantFor lacc = some [0] ∧ lacc.image = none ∧ ({ lacc with image := some im } : Launch).image.isSome = true)
    ∧ (let s := sc [(5, lacc)]; { s with pkg := { s.pkg with trust := { windows := (List.range 16).map fun f => (f, (true, false)) } } } : State).grantFor lacc = none
    ∧ (sm.ranking 0 ≠ (sm.region 0).ranked) ∧ ((one 0 {}).ranking 0 = ((one 0 {}).region 0).ranked)
    ∧ 64 ≤ ((sm.updRegion 0 fun g => { g with quiet := 64 }).region 0).quiet ∧ (sm.region 0).quiet < 64 := by decide +kernel

/-- The bytes of an image of one configuration with one element and no slots: header, table of five sections, CFG, PORT, SEQ, MANI, SIG (R59 to R70). -/
def img (flag home key : Nat) : List Byte :=
  let sect (t o n : Nat) : List Byte := bytesLE 8 t ++ bytesLE 8 o ++ bytesLE 8 n
  let pad (n : Nat) (l : List Byte) : List Byte := l ++ List.replicate (n - l.length) 0
  pad 64 (bytesLE 4 0x48435452 ++ bytesLE 2 1 ++ bytesLE 2 5 ++ bytesLE 8 9 ++ bytesLE 2 1 ++ bytesLE 1 flag ++ List.replicate 13 0 ++ bytesLE 8 1888)
    ++ pad 128 (sect 1 192 1024 ++ sect 2 1216 16 ++ sect 3 1280 24 ++ sect 5 1344 448 ++ sect 6 1792 96)
    ++ pad 64 (bytesLE 2 0 ++ bytesLE 1 0 ++ bytesLE 1 4 ++ bytesLE 1 home ++ bytesLE 1 1) ++ (er 6).bytes
    ++ pad 64 [] ++ pad 64 (bytesLE 16 1 ++ bytesLE 8 0)
    ++ pad 448 (List.replicate 344 0 ++ tagDigest [{ cf 6 with num := 0 }])
    ++ pad 96 (sm3 (bytesLE 1 key) ++ List.replicate 64 7)
/-- The other checks of an image whose signature verifies. -/
theorem image_passes (a : LoadArgs) (b : List Byte) (h0 : hdrErr a b = none)
    (h1 : firstErr (((sectsOf b).map (sectErr (leAt b 32 8) b)) ++ [tableErr b]) = none) (h2 : withSect b 6 0 (sigErr a b) = none)
    (h3 : firstErr [(List.range (leAt b 16 2)).findSome? fun i => withSect b 1 i (cfgErr a b), withSect b 2 0 (portsErr a b), withSect b 3 0 (seqErr a b),
      withSect b 4 0 (dataErr a b), withSect b 5 0 (maniErr a b)] = none) : imageErr a b = none := by
  simp only [imageErr, h0, h1, h2]
  exact h3
/-- A user image's signature verifies under the one enrolled key. -/
theorem signature_passes (b k r q : List Byte) (reach : DataRec → Bool) (t : Sect) (hs : sectOf b 6 0 = some t) (hf : leAt b 18 1 = 0) (hk : sm3 k = sliceB b t.off 32)
    (hr : sliceB b (t.off + 32) 32 = r) (hq : sliceB b (t.off + 64) 32 = q) (h : Config.sm2Verify k imageIdent (signedDigest b t) r q = true) :
    withSect b 6 0 (sigErr ⟨false, false, 1, [k], reach⟩ b) = none := by
  subst hr hq
  simp [withSect, hs, sigErr, hf, hk, h, chk]
/-- What the loader is told of a launch of one region with one key enrolled. -/
def la : LoadArgs := ⟨false, false, 1, [[1]], fun _ => false⟩
/-- An image whose signature verifies passes every check. -/
theorem witness_LoadingAndSteps_image (h : Config.sm2Verify [1] imageIdent (signedDigest (img 0 0 1) ⟨160, 6, 0, 1792, 96⟩) (List.replicate 32 7) (List.replicate 32 7) = true) :
    imageErr la (img 0 0 1) = none :=
  image_passes _ _ (by decide +kernel) (by decide +kernel)
    (signature_passes _ _ _ _ _ _ (by decide +kernel) (by decide +kernel) (by decide +kernel) (by decide +kernel) (by decide +kernel) h) (by decide +kernel)
theorem witness_LoadingAndSteps :
    (let s := sc [(5, { ln with st := .granted })]
     s.launch 5 = some { ln with st := .granted } ∧ s.readImage 1 0 = .bad 0x25 0 ∧ s.loadsBefore { ln with st := .granted } = false
       ∧ (match tabs.readImage 1 0x10000 with | .bytes _ => true | .bad _ _ => false | .wait => false | .found _ => false) = true
       ∧ (frz tabs).readImage 1 0x10000 = .wait ∧ (bad [0x800] tabs).readImage 1 0x10000 = .found 0x20000
       ∧ imageErr la (List.replicate 64 0) = some { code := 1, off := 0 } ∧ (imageOf (img 0 0 1)).data = [] ∧ (imageOf (img 0 0 1)).ports = []
       ∧ (let d : DataRec := { param := true, region := 0, where_ := 0, bytes := [1], off := 0 }
          tabs.dataWaits 1 (bytesLE 8 0x10000) (fun _ => 0) d = false ∧ (frz tabs).dataWaits 1 (bytesLE 8 0x10000) (fun _ => 0) d = true
            ∧ tabs.dataErr 1 (bytesLE 8 0x10000) d = none ∧ (bad [0x800] tabs).dataErr 1 (bytesLE 8 0x10000) d = some 0x20000))
    ∧ (let p (b : Nat) : PortRec := { cfg := 1, pinna := 0, sport := 0, page := 0, access := 1, param := false, base := b, extent := 0x10000 }
       (genOf [] (p 0x10000)).map Gen.extentOk = some true ∧ (genOf [] (p (2 ^ 60))).map Gen.extentOk = some false
         ∧ genOf [] { p 0 with param := true } = none ∧ ((run []).launch 5).isSome = true)
    ∧ (let s : State := (run [] (some 0)).updRegion 0 fun g => { g with res := [] }
       (s.runOf 0 0).isSome = true ∧ SMap.has (s.region 0).res 0 = false ∧ s.loadBusy 0 = false ∧ s.evicting 5 = false ∧ ((s.runOf 0 0).bind fun v => v.due s.cycle) = some (0, false)
         ∧ (im.stepsOf 0)[(0 : Nat)]? = some ⟨0, 1, 0, 2⟩ ∧ im.cfgs.find? (fun c => c.num = 1) = some (cf 5) ∧ s.tilesCollide 0 (cf 5) = false
         ∧ s.maySwap 0 = true ∧ ((s.runOf 0 0).bind fun v => SMap.find v.seq.gens 1) = none ∧ ((cf 5).tiles.map TileRec.tile).Nodup
         ∧ (s.updCtx 40 fun k => k.updCtl fun c => { c with wait := .held 0 (some 0x10000) }).maySwap 0 = false
         ∧ SMap.find ({ region := 0, x := 0, pos := none, phase := none, queues := [], since := [], gens := [(1, [])] } : RegSeq).gens 1 = some []
         ∧ (s.updRegion 0 fun g => { g with res := [(1, { rs 5 with cfg := { cf 5 with tiles := [⟨0, 0, 0, 64⟩] } })] }).tilesCollide 0 { cf 5 with tiles := [⟨0, 0, 0, 64⟩] } = true)
    ∧ (let l (n : Nat) : State := sm.updRegion 0 fun g => { g with res := [(0, { rs 5 with phase := .loading n })] }
       SMap.find ((l 2).region 0).res 0 = some { rs 5 with phase := .loading 2 } ∧ (l 2).cycle + 1 < 2 ∧ 1 ≤ (l 1).cycle + 1 ∧ (l 1).pkg.port.sysloads = []
         ∧ (let fr : Frame := ⟨0, 7⟩
            let y : State := { l 1 with pkg := { (l 1).pkg with port := { sysloads := [(fr, [0])] } } }; y.pkg.port.sysloads = [(fr, [0])] ∧ y.heldResp fr.seq = none) ∧ ((cf 5).elems.map ElemRec.elem).Nodup)
    ∧ (sm.cfgFinished 0 0 (rs 5) = false ∧ sm.settled 0 0 (rs 5) = true ∧ (rs 5).stAck = 0 ∧ (rs 5).phase = .running
      ∧ (sm.cmdsFor 0 fun c => c == mkCid 0 5 0) = false ∧ ((sm.updRegion 0 fun g => { g with copyIn := [cpc] }).cmdsFor 0 fun c => c == mkCid 0 5 0) = true
      ∧ sm.settled 0 0 { rs 5 with phase := .draining 95 } = true
      ∧ (sm.updCtx 40 fun k => k.updCtl fun c => { c with halted := true }).cfgFinished 0 0 (rs 5) = true ∧ sm.cmdsOf 0 0 = false) := by decide +kernel
theorem witness_CompletionAndEviction : (let s := sc [(5, { ln with st := .ending })]
      s.launch 5 = some { ln with st := .ending } ∧ s.partDone 5 { ln with st := .ending } = true ∧ s.podIndex ln = 0 ∧ ln.pkgs.length ≤ 1
        ∧ s.podIndex { ln with pkgs := [1, 0] } ≠ 0 ∧ ([] : List Nat).length + 1 < [0, 1].length ∧ (sc [(5, { ln with st := .ending, pkgs := [1, 0] })]).partDone 5 { ln with st := .ending, pkgs := [1, 0] } = true)
    ∧ (let s := sm.updRegion 0 fun g => { g with res := [(0, { rs 5 with phase := .evicting })] }
       SMap.find (s.region 0).res 0 = some { rs 5 with phase := .evicting })
    ∧ (let e : Resident := { rs 5 with phase := .evicting }
       let s : State := { one 40 {} with regions := [(0, { res := [(0, e)] })], pkg := { sched := { launches := [(5, ln)] } } }
       s.quiesced 0 0 e = true ∧ s.launch 5 = some ln ∧ s.recordReach 1 0x10000 ≠ .hold)
    ∧ ((frz tabs).recordReach 1 0x10000 = .hold ∧ ({ ln with reported := true } : Launch).reported = true ∧ ln.reported = false ∧ ln.refusal = []
      ∧ ({ ln with refusal := [1] } : Launch).refusal ≠ [] ∧ ({ ln with pkgs := [0, 1], reports := [(1, 0, 0, 0, 0)] } : Launch).pkgs.length ≤ [(1, 0)].length + 1)
    ∧ (let s := run []
       let w : State := { s with pkg := { s.pkg with trust := { windows := [(0, (true, false))] } } }
       (rs 5).phase = .running ∧ (rs 5).lid ∈ w.victims ∧ w.maySwap 0 = true)
    ∧ (let e : ElemRec := { er 5 with slots := [0x04D60000] }
       let k : Ctx := { chain := { armed := true } }
       k.undrained e = [(0, 0)] ∧ k.drainPorts.accepts 0 = true)
    ∧ (let v : Saved := { g := 0, region := 0, res := rs 5, ctxs := [(5, {})], sink := {}, nodes := [], tiles := [], bytes := [], mark := 0 }
       let l : Launch := { ln with evicted := true, saved := [v], seqs := [(0, { region := 1, x := 2, pos := none, phase := none, queues := [], since := [] })] }
       (sc [(5, l)]).launch 5 = some l ∧ l.st = .loaded ∧ (SMap.find l.seqs v.g).isSome = true ∧ (v.ctxs.map Prod.fst).Nodup) := by decide +kernel
theorem witness_KillsAndErrors : (sm.res 40).isSome = true ∧ sm.res 41 = none ∧ (sm.region (regionOf 40)).freeze = none ∧ sm.launch (sm.lidOf 40) = some ln ∧ ln.st ≠ .ending
    ∧ sm.pkg.sched.deliveries = []
    ∧ (let s := { sm with cycle := 222 }.updRegion 0 fun g => { g with freeze := some (40, 0) }
       (s.region (regionOf 40)).freeze = some (40, 0) ∧ s.res 40 = some (rs 5) ∧ (rs 5).cfg.elems.find? (fun e => e.elem = elemOf 40) = some (er 5) ∧ 0 + 222 ≤ s.cycle)
    ∧ sm.pkg.trust.attQ = []
    ∧ (let q : AttReq := { cid := 40, va := 0x10000, asid := 1, due := 0, pend := some 3, out := none, fcount := 1, key := 0 }
       let s (t : State) : State := { t with pkg := { t.pkg with trust := { attQ := [q] } } }
       (s tabs).pkg.trust.attQ = q :: [] ∧ q.due ≤ (s tabs).cycle ∧ (s tabs).reach 1 false false 0x10000 64 = .ok [(0x20000, 0, 64)]
         ∧ (s tabs).reach 1 false true (0x10000 + 64) 256 = .ok [(0x20040, 0, 256)] ∧ (s tabs).piecesCode 40 false [(0x20000, 0, 64)] = none
         ∧ (s tabs).piecesCode 40 true [(0x20040, 0, 256)] = none ∧ (s sm).reach 1 false false 0x10000 64 = .np 0x10000 ∧ q.reported = false
         ∧ (let m := s { tabs with pkg := { tabs.pkg with marked := [0x800] } }
            (m.piecesCode 40 false [(0x20000, 0, 64)]).map (fun k => reports k.1) = some true)) := by decide +kernel
/-- A command in each state of the bring-up, one whose response is held, and the cases of each command's argument. -/
theorem witness_PortCommands_waits : (frz tabs).rangeFrozen 0x20000 64 = true ∧ tabs.rangeFrozen 0x20000 64 = false ∧ (64 : Nat) ≠ 0
    ∧ ({ tabs with pkg := { tabs.pkg with retries := [.read ⟨0, 7⟩ 0x20000 64] } } : State).pkg.retries = [.read ⟨0, 7⟩ 0x20000 64]
    ∧ sm.sysPending 0 = false ∧ (sm.updCtx 4 fun k => { k with pend := [⟨3, some 9, [], [], [], [], []⟩] }).sysPending 0 = true
    ∧ ([] : List Nat).length = 0 ∧ (flitRange (.store 0x20000 0 [1] 1 0)).2 ≠ 0 ∧ (frz tabs).rangeFrozen (flitRange (.store 0x20000 0 [1] 1 0)).1 1 = true := by decide +kernel
theorem witness_PortCommands : let fr : Frame := ⟨0, 7⟩
    let at_ (n : Nat) : State := { State.reset with pkg := { bring := { step := n } } }
    ((at_ 8).heldResp fr.seq = none ∧ (at_ 8).pkg.port.sysloads = [] ∧ cmdAllowed 8 7 = true ∧ cmdAllowed 6 4 = true ∧ cmdAllowed 7 4 = false ∧ cmdAllowed 2 1 = true ∧ cmdAllowed 3 0x36 = true)
    ∧ (({ at_ 8 with pkg := { bring := { step := 8 }, port := { resp := [⟨0, 1, 7, 0, 0, []⟩] } } } : State).heldResp fr.seq).isSome = true
    ∧ 2047 < 2048 ∧ (List.replicate 2048 0).length = 2048 ∧ (at_ 8).hostBarred (2 ^ 52) 64 = true
    ∧ ([0].head? = some (at_ 8).pkg.pkgId ∧ [0].Nodup ∧ hkb.length = 128) ∧ (at_ 8).queued true < 1024
    ∧ (sm.portTarget 40 = some 40 ∧ (sm.ctx 40).ctl.trap = none ∧ sm.portTarget 41 = none ∧ sm.lidOf 40 ≠ 0 ∧ (sm.updCtx 40 fun k => k.updCtl fun c => { c with trap := some ⟨0, false⟩ }).portTarget 40 = some 40)
    ∧ (sm.launch 5 = some ln ∧ sm.launch 6 = none) ∧ (at_ 8).pkg.trust.keys.length < 16 ∧ (at_ 8).pkg.trust.kslots = [] ∧ (at_ 8).granLive 0 = true ∧ (at_ 8).blockTag 0 = 0
    ∧ (∃ k ∈ [[(1 : Byte)]], sm3 k = sm3 [1]) ∧ SMap.has [(3, (true, false))] 3 = true ∧ (at_ 8).frondHeld 3 = false
    ∧ imageErr ⟨true, false, 0, [], fun _ => false⟩ [] = some { code := 1, off := 0 } := by decide +kernel
/-- HBM that holds no table is open to the control node, unless it belongs to a patch store, whose place the manual leaves open. -/
theorem witness_PortCommands_open (h : Config.inPatchStore 0 = false) : State.reset.hostBarred 0 64 = false := by
  have e : State.reset.isTable 0 = false := by decide +kernel
  have r : rangeFrom (0 / 65536) ((0 + 64 - 1) / 65536 + 1 - 0 / 65536) = [0] := by decide +kernel
  have t : State.reset.isRetired 0 = false := by decide +kernel
  have a : State.reset.hostAt 0 = 0 := by decide +kernel
  simp [State.hostBarred, r, State.hostBars, a, e, t, h, isHbm]
theorem witness_BringUpAndTime : let at_ (b : Bring) (t : Time) (u : BitVec 48) (r : List Nat) : State := { State.reset with pkg := { bring := b, time := t, fabric := { up := u, route := r } } }
    (at_ {} {} 0 []).pkg.bring = { step := 1 } ∧ (at_ { step := 2 } {} 0 []).pkg.bring = { step := 2 } ∧ (3, Instr.hbmTraining true) ∈ [(3, Instr.hbmTraining true), (4, .vaultRowTest true), (5, .ucieTraining true)]
    ∧ (at_ { step := 7, trained := true } {} 0 []).pkg.bring.trained = true ∧ (at_ { step := 7 } { tmaster := some 4 } 0 []).pkg.time.tmaster = some 4 ∧ (4 : Nat) ≠ (at_ {} {} 0 []).pkg.pkgId
    ∧ (64 ≤ (at_ {} { disc := .acquiring, inBound := 64 } 0 []).pkg.time.inBound) ∧ 16 * syncNs ≤ (at_ {} { disc := .locked, sinceSync := 16 * syncNs } 0 []).pkg.time.sinceSync
    ∧ ((at_ { step := 8 } {} 4 [0, 4]).pkg.fabric.portFor 1 = some 2 ∧ (at_ { step := 8 } {} 0 [0, 4]).pkg.fabric.portFor 1 = none)
    ∧ (let l : List (Nat × Nat × Nat) := (at_ { step := 8 } {} 0 []).redirected [(0, 0, 64)]
       (at_ { step := 8 } {} 0 []).errIn true l = none ∧ (at_ { step := 8 } {} 0 []).piecesCode 0 true l = none ∧ (bad [0] (at_ { step := 8 } {} 0 [])).errIn false l = some 0
         ∧ (({ State.reset with pkg := { bring := { step := 8 }, marked := [0] } } : State).piecesCode 0 false l).isSome = true)
    ∧ (sc [(5, ln)]).launch 5 = some ln ∧ (7 ≤ 8 ∧ syncNs ≤ syncNs) ∧ (sc []).launch 6 = none ∧ (sc []).inPod 6 = false ∧ (sc []).pkg.pkgId ∉ [1, 2]
    ∧ (at_ { step := 2, failed := true } {} 0 []).pkg.bring.failed = true ∧ (at_ { step := 7 } { tmaster := some 0 } 0 []).pkg.time.tmaster = some 0
    ∧ (at_ {} { disc := .acquiring, locks := 1, inBound := 64 } 0 []).pkg.time.locks ≠ 0 := by decide +kernel
/-! Witnesses for the clauses that more than one state is needed for -/

theorem witness_MovesAndConstants_heads : ((sa.head 0).kind = kDATA ∧ (sa.head 0).sc = false) ∧ ((sa.head 1).kind = kDATA ∧ (sa.head 1).sc = true)
    ∧ ((sa.head 2).kind = kMARK ∧ (sa.head 2).sc = true) ∧ (sa.head 3).kind = kEOS ∧ (sa.head 5).kind = kDRAIN ∧ 191 < 192
    ∧ (∃ x : BitVec 2, Src.x 1 = .x x ∧ (0x40 : Dword) = sa.my.x x.toNat) := by
  refine ⟨by decide +kernel, by decide +kernel, by decide +kernel, by decide +kernel, by decide +kernel, by decide, 1, rfl, by decide +kernel⟩
/-- Two levels: level 1 at its last coordinate, and before it. -/
theorem witness_CounterChains_ends : let k (c : Nat) : Chain := { n := 2, e := [5, 3, 0, 0, 0, 0, 0, 0], c := [5, c, 0, 0, 0, 0, 0, 0] }
    (0 < (k 2).n ∧ (k 2).n ≤ 8 ∧ (k 2).c.length = 8 ∧ (k 2).c.getD 1 0 + 1 = (k 2).e.getD 1 0 ∧ (∀ l, 1 ≤ l → l ≤ 0 → (k 2).c.getD l 0 + 1 = (k 2).e.getD l 0))
    ∧ ((k 0).c.getD 1 0 + 1 ≠ (k 0).e.getD 1 0 ∧ (k 0).endItems = [0] ∧ (k 2).endItems = [0, 8]) := by
  refine ⟨⟨by decide, by decide, by decide, by decide, fun l a b => by omega⟩, by decide +kernel⟩
/-- Finite words whose sum, difference and product are zero and are not. -/
theorem witness_FloatArithmetic_finite : ((val32 0x3F800000#32).special = false ∧ (val32 0x80000000#32).special = false) ∧ (val32 0#32).rat = 0
    ∧ (val32 0x3F800000#32).rat ≠ 0 ∧ (val32 0x3F800000#32).rat + (val32 0xBF800000#32).rat = 0 ∧ (6 < 7 ∧ 6 ≠ 5) := by decide +kernel
/-- Zero times infinity, infinite products, an infinite addend of finite factors. -/
theorem witness_FloatSpecialOperands_products : let i := 0x7F800000#32
    ((∃ p q e, (val32 i = .inf p ∧ val32 0#32 = .fin q 0 e) ∨ (val32 i = .fin q 0 e ∧ val32 0#32 = .inf p))
    ∧ ∃ s p q, s = (p != q) ∧ ((val32 i = .inf p ∧ val32 i = .inf q)
      ∨ (∃ n e, n ≠ 0 ∧ ((val32 i = .inf p ∧ val32 i = .fin q n e) ∨ (val32 i = .fin p n e ∧ val32 i = .inf q)))))
    ∧ ((val32 0x3F800000#32).special = false ∧ val32 i = .inf false) ∧ val32 0x3F800000#32 = .fin false 8388608 (-23)
    ∧ (val32 0xBF800000#32 = .fin true 8388608 (-23)) ∧ (val32 0x7FC00000#32 = .nan false) := by
  refine ⟨⟨⟨false, false, -149, .inl ⟨by decide +kernel, by decide +kernel⟩⟩, false, false, false, by decide, .inl ⟨by decide +kernel, by decide +kernel⟩⟩,
    by decide +kernel, by decide +kernel, by decide +kernel, by decide +kernel⟩
theorem witness_FloatOrderSignClass_numbers : (val32 0x80000000#32).isNan = false ∧ (val32 0x7F800000#32).isNan = false := by decide +kernel
theorem witness_FormatsRoundTrip_rounds : (6 < 7 ∧ e4m3 ∈ [fp32, fp16, bf16, e4m3, e5m2, e2m1]) ∧ e4m3.hasInf = false ∧ e2m1.hasInf = false ∧ (3 : Nat) ≠ 0 := by decide +kernel
/-- A block with an infinity, one of numbers with its greatest magnitude, one of zeros; each kind of element under an S24 scale. -/
theorem witness_BlockFormats_blocks : let one_ := val32 0x3F800000#32
    (∃ v ∈ [one_, .inf false], v.special = true)
    ∧ (¬ (∃ v ∈ [one_, val32 0#32], v.special = true) ∧ ((∃ v ∈ [one_, val32 0#32], 1 = v.rat ∨ 1 = -v.rat) ∧ ∀ v ∈ [one_, val32 0#32], v.rat ≤ 1 ∧ -v.rat ≤ 1)
      ∧ ((2 : Rat) ^ (0 : Int) ≤ 1 ∧ (1 : Rat) < 2 ^ ((0 : Int) + 1)) ∧ (∀ v ∈ [one_, val32 0#32], ∃ w, v = val32 w)
      ∧ [one_, val32 0#32][(1 : Nat)]? = some (.fin false 0 (-149)))
    ∧ ((∃ v ∈ [val32 0#32], 0 = v.rat ∨ 0 = -v.rat) ∧ ∀ v ∈ [val32 0#32], v.rat ≤ 0 ∧ -v.rat ≤ 0)
    ∧ (2 ^ 24 ≤ 2 ^ 24 ∧ 0x00FF0000 / 65536 = 255 ∧ ¬ (2 ^ 24 ≤ 0x00FEFFFF ∨ 0x00FEFFFF / 65536 = 255) ∧ s24Rat 0 = 0) := by
  refine ⟨by decide +kernel, ⟨by decide +kernel, by decide +kernel, by decide +kernel, ?_, by decide +kernel⟩, by decide +kernel, by decide +kernel⟩
  intro v h
  simp only [List.mem_cons, List.not_mem_nil, or_false] at h
  rcases h with h | h
  · exact ⟨_, h⟩
  · exact ⟨_, h⟩
/-- ZIPT on inA's turn with each structural head; MERGE's control on input 0 and its two data heads on 1 and 2, for every line the statement has. -/
theorem witness_PairsOfHeads_three : let p (c j b : Nat) : State := { one 48 (fed [(0, kinds.buf c), (1, kinds.buf j), (2, kinds.buf b)]) with agenda := [] }
    ([(4, 0, 1), (2, 2, 2), (2, 0, 2), (2, 3, 0), (3, 3, 3), (3, 0, 3), (3, 3, 0), (5, 5, 5), (5, 0, 5), (3, 5, 0)].all fun x =>
      let s := p x.1 x.2.1 x.2.2
      (s.headOpt 0).isSome && (s.headOpt 1).isSome && (s.headOpt 2).isSome) = true
    ∧ [2, 3, 5].all (fun j => let s := one 48 { fed [(0, kinds.buf j), (1, [vt])] with slotSt := [(0, { side := true })] }
        s.slotNow.side && (s.headOpt 0).isSome && (s.headOpt 1).isSome) = true := by decide +kernel
/-- A control that is a register or a literal: DATA with a count of 0, of 1 and out of a SWITCH's range, and a head that is not DATA. -/
theorem witness_Steering_registers : sa.my.x 3 = 0 ∧ ¬ (sa.my.x 0).toNat ≤ (7 : BitVec 3).toNat ∧ (Src.zero = .zero ∧ (0 : Dword) = 0) ∧ sa.srcSca (.lit 1) = 1
    ∧ (∃ x : BitVec 4, Src.v 5 = .v x ∧ (7 : Dword) = ((sa.my.v x.toNat).get 0).setWidth 64) ∧ sa.slotNow.loaded = false
    ∧ sa.headOpt 0 = some vt ∧ vt.kind = kDATA ∧ vt.kind ≠ kMARK ∧ (sa.my.x 0).toNat % 2 ^ 32 ≠ 0 ∧ (sa.my.x 3).toNat % 2 ^ 32 = 0 := by
  refine ⟨by decide +kernel, by decide +kernel, by decide, by decide +kernel, ⟨5, rfl, by decide +kernel⟩, by decide +kernel⟩
/-- A UNION's walk: against one head alone, over two, and where a coordinate is not greater than the last of its fibre. -/
theorem witness_IntersectionsAndUnions_walks : let st : SlotState := { ha := true, la := 9, hb := true, lb := 0 }
    ([10, 11] : List Word).Pairwise (fun x y => x.toNat < y.toNat) ∧ ([10, 11] : List Word).all (fun x => decide (st.ha = true → st.la < x.toNat)) = true
    ∧ (st.pa < 2 ^ 32 ∧ st.pb < 2 ^ 32) ∧ ([9] : List Word)[st.ca]? = some 9 ∧ (9 : Word).toNat ≤ st.la ∧ ([10] : List Word)[st.ca]? = some 10 ∧ st.la < (10 : Word).toNat
    ∧ ([0] : List Word)[st.cb]? = some 0 ∧ (0 : Word).toNat ≤ st.lb
    ∧ (sa.headOpt 6 = some (markTok 2 true 4) ∧ (markTok 1 true 4).tag ≠ (markTok 2 true 4).tag) := by decide +kernel
theorem witness_FibresAndPieces_register : (sa.slotNow.pending = false ∧ sa.slotNow.loaded = false) ∧ sa.headOpt 0 = some vt ∧ vt.kind = kDATA
    ∧ sa.headOpt 3 = some (eosTok 0) ∧ (eosTok 0).kind = kEOS ∧ ((sa.my.x 0).toNat % 2 ^ 32 ≠ 0 ∧ (sa.my.x 3).toNat % 2 ^ 32 = 0) := by decide +kernel
/-- Each check of an access, at the edges of its range; entries of each kind; a list whose second access fails first. -/
theorem witness_MemoryAccesses_checks : let a (va : Nat) (op : AccOp := .rd) : Acc := { lane := 0, va, size := 4, op }
    let ent (p : Patch) : State := sm.updGen 40 0 fun g => { g with table := [(1, { p })] }
    (2 ^ 34 ≤ (a (2 ^ 34)).va ∧ (a (2 ^ 34 - 4)).va < 2 ^ 34 ∧ (a 0x1002).va % 4 ≠ 0 ∧ (∃ q ∈ sm.spans 40, q.1 ≤ 0x1FFC ∧ 0x1FFC + 4 ≤ q.1 + q.2)
      ∧ ¬ ∃ q ∈ sm.spans 40, q.1 ≤ 0x2000 ∧ 0x2000 + 4 ≤ q.1 + q.2)
    ∧ (sm.gen 40 0 = some gn ∧ gn.page ≠ 3 ∧ ({ gn with page := 3 } : Gen).page = 3 ∧ (2 ^ 60 / 2 ^ 52 ≠ 0 ∧ 2 ^ 60 / 2 ^ 52 ≠ 4095)
      ∧ (gn.base ≤ 0x1FFFC ∧ 0x1FFFC + 4 ≤ gn.base + gn.extent) ∧ ¬ 0x20000 + 4 ≤ gn.base + gn.extent ∧ (gn.entry 0x10000).awaits = false)
    ∧ (sm.checkAcc 40 0 (a (2 ^ 60)) = 0x20 ∧ sm.checkAcc 40 0 (a 0x10002) = 0x21 ∧ sm.checkAcc 40 0 (a 0x20000) = 0x22
      ∧ (ent (.frame 0 true false true false 0)).checkAcc 40 0 (a 0x10000 (.wr 1)) = 0x23 ∧ (ent (.frame 0 false true true false 0)).checkAcc 40 0 (a 0x10000) = 0x23
      ∧ (ent (.frame 0 true true false false 0)).checkAcc 40 0 (a 0x10000) = 0x23 ∧ (ent .pg).checkAcc 40 0 (a 0x10000) = 0x24 ∧ (ent .np).checkAcc 40 0 (a 0x10000) = 0)
    ∧ ((∀ y ∈ [a 0x1000], sm.checkAcc 40 4 y = 0 ∧ sm.undecided 40 4 y = false) ∧ sm.checkAcc 40 4 (a 0x2000) = 0x22
      ∧ sm.checkAll 40 4 [a 0x1000, a 0x2000, a 0x2001] = some (0x22, 0x2000)) := by
  refine ⟨⟨by decide, by decide, by decide, ⟨(0x1000, 0x1000), by decide +kernel⟩, by decide +kernel⟩, by decide +kernel, by decide +kernel, by decide +kernel⟩
/-- The table as it stood when the cycle began, and a tile that was closed before. -/
theorem witness_Tiles_seen : let s : State := sm.updRegion 0 fun g => { g with tilesSeen := [(1, { tl with st := .empty })] }
    SMap.find (s.region 0).tilesSeen 1 = some { tl with st := .empty } ∧ s.tile 0 1 = some { tl with st := .opened }
    ∧ ({ tl with st := .opened, mark := some 5 } : Tile).st = .opened ∧ SMap.find (sm.region 0).tilesSeen 1 = none := by decide +kernel
/-- PREF of a range with a present page, of one outside the port, and of a V-space port. -/
theorem witness_Allocations_prefetch : sm.gen 40 1 = none ∧ sm.gen 40 0 = some gn
    ∧ (max 0x10000 gn.base < min (0x10000 + 4096 * 2 ^ 0) (gn.base + gn.extent) ∧ 4096 * 16 < min (0x10000 + 4096 * 2 ^ 0) (gn.base + gn.extent)
      ∧ (gn.entry (4096 * 16)).awaits = false ∧ (gn.entry (4096 * 16)).p = .frame 0x20000 true true true false 0)
    ∧ State.prefUnits gn 0x10000 0 = [0x20000] ∧ State.prefUnits gn 0x40 0 = [] ∧ State.prefUnits { gn with page := 3 } 0x10000 0 = [] := by decide +kernel
theorem witness_OrderingInstructions_marks : ((1 : BitVec 4).toNat ≤ 1 ∧ (2 : BitVec 2) ≠ 1) ∧ ¬ ((2 : BitVec 4).toNat ≤ 1) ∧ sm.poisoned [.inp 4] = some pt := by decide +kernel
theorem access_row_waits : (bad [0x800] (rqs [rq rd])).rowWaits (rq rd) rd = false := by
  have e : (bad [0x800] (rqs [rq rd])).pkg.rows = [] := by decide +kernel
  have r : (bad [0x800] (rqs [rq rd])).reqs = [rq rd] := rfl
  have k : rd.pa = some 0x20000 := rfl
  have i : (rq rd).id = 7 := rfl
  have a : (rq rd).accs = [rd] := rfl
  simp only [State.rowWaits, State.waitsOn, State.rowHit, e, r, k, i, List.any_nil, List.any_cons, Bool.and_false, Bool.or_false, Nat.lt_irrefl, decide_false]
  simp [a, k]
/-- An access whose read finds an error. -/
theorem witness_AccessesPerform_finds : let s := bad [0x800] (rqs [rq rd])
    (s.accReady (rq rd) rd = true ∧ s.bulkWaits (rq rd) rd = false ∧ (rq rd).tile = none ∧ s.finds (rq rd) rd = true)
    ∧ (rqs [rq rd]).finds (rq rd) rd = false ∧ rd.op.reads = true
    ∧ (let w : Acc := { rd with op := .wr 1 }
       let t := bad [0x800] (rqs [rq w 4 true])
       t.accReady (rq w 4 true) w = true ∧ w.op.reads = false ∧ t.finds (rq w 4 true) w = true ∧ (rqs [rq w 4 true]).finds (rq w 4 true) w = false
         ∧ (rqs [rq w 4 true]).nodeCode (rq w 4 true) w 0x20000 = 0 ∧ [({ w with st := .placed } : Acc)].all Acc.performed = true)
    ∧ (let p : Acc := { rd with st := .placed }
       (bad [0x800] (rqs [rq p 4 true])).keyReady (rq p 4 true) p = true ∧ (bad [0x800] (rqs [rq p 4 true])).finds (rq p 4 true) p = true) := by decide +kernel
/-- HBMUE for nothing in hand, and a stream with its buffers full of room. -/
theorem witness_MemoryEvents_names : sm.req 7 = none ∧ sm.copyHeads = [] ∧ (∀ e ∈ sm.copyHeads, e.2.id ≠ 7)
    ∧ (let p : SPort := { mode := .gath, rows := [0x10000], roww := 1 }
       p.todo = [] ∧ p.buf.length < 16 ∧ p.mode = .gath ∧ p.rows = 0x10000 :: [])
    ∧ (let t : State := sm.updTile 0 0 fun t => { t with st := .draining, mark := some 5 }
       t.tile 0 0 = some { tl with st := .draining, mark := some 5 } ∧ ({ tl with st := .draining } : Tile).holders = 0) := by decide +kernel
/-- XPROBE meets a leaf, whose migration is between its steps; a completion token, and a register that waits for the word. -/
theorem witness_TranslationAnswers_probe : (tabs.walk 1 0x10000 3).map (fun w => (w.word / 2 ^ 62, w.addr, w.word.testBit 59)) = some (2, leaf, true)
    ∧ (let m : Xev := { ev (.migrate 3) (.frozen 0) with leafAt := leaf, oldBase := 0x20000 }
       0 < m.kind.moves ∧ m.stage.freezes = true ∧ m.asid = 1 ∧ (ev .xprobe .queued).asid = 1)
    ∧ (let e : Xev := { ev .xprobe (.done 0) with out := some (1, 2) }; (evs e).xev 9 = some e ∧ e.pend = some 3 ∧ e.origin = none)
    ∧ (let s := (evs (ev .xprobe (.done 0))).updCtx 44 fun k => { k with pend := [⟨3, none, [], [2], [], [], []⟩] }
       (s.ctx 44).pend = [] ++ ⟨3, none, [], [2], [], [], []⟩ :: [] ∧ (ev .xprobe (.done 0)).out = none)
    ∧ canonical (ev .xprobe .queued).va = true ∧ (ev (.map 0 3) .queued).origin = none
    ∧ (let l := [{ ev (.unmap 0 3) (.sent 0) with id := 8 }, ev .xprobe (.sent 0)]
       (∃ d ∈ l, d.id ≠ 9 ∧ d.asid = 1 ∧ d.away = false) ∧ ¬ ({ ev (.unmap 0 3) (.sent 0) with id := 8 } : Xev).stage.entered = true)
    ∧ (∃ d ∈ [{ ev (.unmap 0 3) .queued with id := 8 }], d.id ≠ 9 ∧ d.away = false ∧ d.stage.entered = true ∧ (ev .xprobe (.sent 0)).waitsFor d = true) := by decide +kernel
/-- A replay that is complete, with nothing of the frame left to perform; the three states of a fetch. -/
theorem witness_TranslationChanges_replay : let m : Xev := { ev (.migrate 3) (.replay 0) 0x10000 (2 ^ 63 + 0x40000) with oldBase := 0x20000, leafAt := leaf, mark := 4 }
    ((evs m).xev 9 = some m ∧ (evs m).refusedLeft m = false ∧ m.acks = [] ∧ m.mark ≠ 0 ∧ (evs m).reqs = [])
    ∧ (let q : Req := { rq { rd with st := .wait, pa := none } 0 with issued := false }
       let f : State := (rqs [q]).updGen 40 0 fun g => { g with window := [], fetchAt := some 9 }
       (f.gen 40 0).bind Gen.fetchAt = some 9 ∧ f.cycle < 9 ∧ (f.gate q = .fetch 1 ∧ f.headReq 40 0 = some q ∧ f.req q.id = some q)
         ∧ (let h : State := (rqs [{ q with fetched := [1] }]).updGen 40 0 fun g => { g with window := [], table := [(1, { p := .frame 0x20000 true true true false 0, stale := true, lazy := true })] }
            h.gate { q with fetched := [1] } = .fetch 1 ∧ (h.gen 40 0).map Gen.fetchAt = some none
              ∧ ([1].filter fun i => !q.stream && !([0] : List Nat).contains i && !([1] : List Nat).contains i) = []))
    ∧ (let h (e : Xev) : Bool := e.kind == .xinval 1; h (ev (.xinval 1) (.inval 0)) = true ∧ h (ev (.unmap 0 3) (.inval 0)) = false) := by decide +kernel
/-- The heads a DTOKEN takes, and of a COPY's dependences a POISON, one that is none, and none. -/
theorem witness_AsynchronousInstructions_heads : ((sa.head 7).kind = kDATA ∧ (sa.head 7).dep = true ∧ (sa.headOpt 7).isSome = true)
    ∧ ((sa.head 1).kind = kDATA ∧ (sa.head 1).dep = false) ∧ (sa.head 4).kind = kPOISON ∧ (sa.head 3).kind = kEOS ∧ ((7 : BitVec 3) = 7)
    ∧ ((one 40 { regs := { kr := 0xFFFF } }).keyFault 5 = true ∧ (one 40 {}).keyFault 5 = false)
    ∧ (let b (o : Option Nat) : State := sm.updTb 0 2 fun t => { t with owner := o }
       (∀ o, ((b none).tb 0 2).owner = some o → o = sm.lidOf 40) ∧ ((b (some 6)).tb 0 2).owner = some 6) := by
  refine ⟨by decide +kernel, by decide +kernel, by decide +kernel, by decide +kernel, rfl, by decide +kernel, fun o h => ?_, by decide +kernel⟩
  have e : ((sm.updTb 0 2 fun t => { t with owner := none }).tb 0 2).owner = none := by decide +kernel
  exact absurd (e.symm.trans h) (by simp)
/-- A copy whose piece nothing keeps from its banks, with no migration in hand. -/
theorem witness_CopyAndBarrierEvents_banks : let s := cpq [cpc]
    (∀ x, s.isFrozen x = false ∧ s.isRetired x = false)
    ∧ (pieceBytes (s.piecePlaces 0 cpc)).all s.linked = true ∧ s.banksFree cpc.cid (pieceBytes (s.piecePlaces 0 cpc)) = true ∧ cpc.q < 4
    ∧ (let b (bad : Bool) (a : Arrival) : State := sm.updBarrier 8199 fun t => { t with leaving := [(0, 4, bad, [a])] }
       ((b true ⟨40, none, none, 9⟩).barrier 8199).leaving = (0, 4, true, [⟨40, none, none, 9⟩]) :: []
         ∧ ((b false ⟨40, some 3, none, 9⟩).barrier 8199).leaving = (0, 4, false, [⟨40, some 3, none, 9⟩]) :: []
         ∧ (let k : State := (b false ⟨40, some 3, none, 9⟩).updCtx 40 fun k => { k with pend := [⟨3, none, [], [1], [], [], []⟩] }
            (k.ctx 40).pend = [] ++ ⟨3, none, [], [1], [], [], []⟩ :: [])) := by
  refine ⟨fun x => ⟨rfl, rfl⟩, by decide +kernel⟩
/-- A register that waits for TIMEW. -/
theorem witness_TimeAndRandom_waits : let s := sm.updCtx 40 fun k => { k with pend := [⟨3, none, [], [1], [], [], []⟩], ctl := { k.ctl with wait := .timew 0 (some 3) } }
    (s.ctx 40).ctl.wait = .timew 0 (some 3) ∧ (s.ctx 40).pend = [] ++ ⟨3, none, [], [1], [], [], []⟩ :: [] ∧ (0 : Dword).toNat ≤ s.pkg.time.tsc.toNat
    ∧ sm.poisoned [.inp 4, .x 0] = some pt := by decide +kernel
/-- A write of ranks that is a permutation, and one that is not; a lost copy; a record in the log; a sink with its origin; and MCMP's read finds an error. -/
theorem witness_SystemInstructions_writes : let w : Dword := 0x1B
    (∀ n, n < 4 → ∃ i, i < 4 ∧ (w.extractLsb' (2 * i) 2).toNat = n) ∧ ¬ (∀ n, n < 4 → ∃ i, i < 4 ∧ ((0 : Dword).extractLsb' (2 * i) 2).toNat = n)
    ∧ (({ sm with badCopies := [(0, 40)] } : State).copyLost 40 = true ∧ sm.copyLost 40 = false)
    ∧ (sm.region 0).sinksSeen = [] ∧ ((sm.updRegion 0 fun g => { g with sinksSeen := [(0, { origin := some (1, 2, 3) })] }).region 0).sinksSeen = [(0, { origin := some (1, 2, 3) })]
    ∧ (bad [0x800] pks).errIn false [(0x20000, 0, 448)] = some 0x20000 ∧ pks.errIn false [(0x20000, 0, 448)] = none
    ∧ sm.lidOf 40 ≠ 0 ∧ (one 40 {}).target 40 = none := by
  refine ⟨by decide, by decide, by decide +kernel⟩
/-- A precise trap's record whose context has a result due, one before a frozen region, one for the port, and one that is on its way to its home. -/
theorem witness_ContextEvents_records : let w : State := sm.updCtx 40 fun k => { k with pend := [⟨3, some 9, [], [], [], [], []⟩] }
    let q (s : State) (f : Option (Nat × Nat)) (l : List Rec) (o : List (Nat × Rec)) (i : List RecIn) : State :=
      { s with cycle := 9 }.updRegion 0 fun g => { g with trapIn := i, trapQ := l, trapOut := o, freeze := f }
    (rc.kind = 0 ∧ w.writesDue (rc.source % 2 ^ 18) = true ∧ w.atAbsent (rc.source % 2 ^ 18) = false ∧ ((q w none [] [] [⟨8, rc⟩]).region 0).trapIn = [⟨8, rc⟩])
    ∧ (((q sm (some (40, 1)) [rc] [] [⟨8, rc⟩]).region 0).freeze = some (40, 1) ∧ 1 < (q sm (some (40, 1)) [rc] [] [⟨8, rc⟩]).cycle
      ∧ ((q sm (some (40, 1)) [rc] [] [⟨8, rc⟩]).region 0).trapQ.length < 64)
    ∧ (let h := q (sm.updRegion 0 fun g => { g with res := [(4, rs 6)] }) none [] [(9, rc)] []
       (h.region 0).trapOut = [(9, rc)] ∧ 9 ≤ h.cycle ∧ (h.res (mkCid 0 6 4)).isSome = true ∧ (h.region 0).trapIn = [] ∧ (h.region 0).trapQ = [])
    ∧ (sm.pkg.port.pending = [] ∧ ¬ (rc.kind = 0 ∧ sm.writesDue (rc.source % 2 ^ 18) = true)) := by decide +kernel
/-- The header of a save record of launch 5, sorus 0, and the trust engine's record of it. -/
def savedHead : List Byte := bytesLE 4 0x56415350 ++ bytesLE 2 1 ++ bytesLE 2 0 ++ bytesLE 4 64 ++ bytesLE 8 0 ++ bytesLE 4 0 ++ bytesLE 8 5
def savedRec : SaveRec := { lid := 5, source := 0, sorus := 0, seqno := 0, used := false, node := {}, sealed := [] }
theorem witness_PoolSendingAndSaving_restores : let s : State := { sm with pkg := { sm.pkg with trust := { saves := [savedRec] } } }
    s.restorable (savedHead ++ hmacSm3 s.sealKey savedHead) = some savedRec := by
  intro s
  have l : (hmacSm3 s.sealKey savedHead).length = 32 := sm3_length _
  have h : savedHead.length = 32 := by decide +kernel
  have a (o n : Nat) (x : o + n ≤ 32) (m : List Byte) : leAt (savedHead ++ m) o n = leAt savedHead o n := by
    have e : ((savedHead ++ m).drop o).take n = (savedHead.drop o).take n := by
      rw [List.drop_append_of_le_length (by omega), List.take_append_of_le_length (by rw [List.length_drop]; omega)]
    simp only [leAt, sliceB, e]
  have n : leAt savedHead 8 4 = 64 := by decide +kernel
  have t (m : List Byte) : (savedHead ++ m).take 32 = savedHead := by rw [← h]; exact List.take_left
  have d (m : List Byte) (x : m.length = 32) : (savedHead ++ m).drop 32 = m := by rw [← h]; exact List.drop_left
  unfold State.restorable
  simp only [a _ _ (by decide : 8 + 4 ≤ 32), a _ _ (by decide : 16 + 4 ≤ 32), a _ _ (by decide : 20 + 1 ≤ 32), a _ _ (by decide : 0 + 4 ≤ 32),
    a _ _ (by decide : 4 + 2 ≤ 32), a _ _ (by decide : 24 + 8 ≤ 32), a _ _ (by decide : 12 + 4 ≤ 32), n, t]
  have z : ((savedHead ++ hmacSm3 s.sealKey savedHead).take 64).drop 64 = [] := List.drop_eq_nil_of_le (by rw [List.length_take]; omega)
  have y : sliceB (savedHead ++ hmacSm3 s.sealKey savedHead) 32 32 = hmacSm3 s.sealKey savedHead := by
    simp [sliceB, d _ l, l, List.take_of_length_le (Nat.le_of_eq l)]
  rw [z, y, List.append_nil]
  have g : (s.pkg.trust.savesOf (leAt savedHead 24 8) (leAt savedHead 16 4 % 2 ^ 29) (leAt savedHead 20 1)).getLast? = some savedRec := by decide +kernel
  have o : leAt savedHead 0 4 = 0x56415350 ∧ leAt savedHead 4 2 = 1 ∧ leAt savedHead 12 4 = 0 := by decide +kernel
  rw [g]
  simp [o, savedRec]
/-- A gathered row of one tile is open to the gather unit, its banks are free, and no error stands in it. -/
theorem witness_PoolCarvingEvents_row : let s := (nd { latch := [(1, [{ lr with here := false }])] }).updRegion 0 fun g => { g with gather := [gr (some 50)] }
    (s.region 0).gather = [gr (some 50)] ∧ (50 ≤ s.cycle ∧ (gr (some 50)).last = false) ∧ s.engineTurn (gr none).cid (gr none).key (gr none).reqs = true
    ∧ s.openTo (s.rowPieces 0 (gr (some 50))) = true ∧ s.banksFree (gr none).cid (blocksOf (s.rowPieces 0 (gr (some 50)))) = true
    ∧ s.errIn false (s.rowPieces 0 (gr (some 50))) = none ∧ (gr (some 50)).num = lr.num ∧ ({ lr with here := false } : LatchRow).here = false := by decide +kernel
/-- A drain's tile write at its turn, with its banks free and no migration in hand. -/
theorem witness_PoolPassAndDrainEvents_write : let w : TileWrite := { cid := 40, tile := 0, bytes := [1], due := 50, pend := none, out := none }
    let k := pc (.drain 0 false true 3)
    let h := ((nd { tileWrites := [w] }).updTile 0 0 fun t => { t with st := .filling }).updNode 0 0 fun n => { n with dq := { cmds := [k] } }
    let pl := h.redirected [(h.vaultKey (vaultVa 0 tl.offset), 0, w.bytes.length)]
    h.openTo pl = true ∧ h.banksFree w.cid (blocksOf pl) = true ∧ ((blocksOf pl).all fun a => !h.vaultBad a) = true ∧ (∀ a, h.redirect (a, 0) = (a, 0))
    ∧ h.piecesCode w.cid true pl = none ∧ regionOf k.cid = 0
    ∧ ((blocksOf pl).find? ({ h with vaultErrs := [(0, h.vaultKey (vaultVa 0 tl.offset) / 128)] } : State).vaultBad).isSome = true
    ∧ ({ gp with sends := [(0, [⟨0, 2, 38, .hole⟩])] } : Group).sends = [] ++ (0, [⟨0, 2, 38, .hole⟩]) :: [] := by
  refine ⟨by decide +kernel, by decide +kernel, by decide +kernel, fun a => rfl, by decide +kernel⟩
/-- A packet of the wrong length, one whose LID lives, and reads and records that find an error. -/
theorem witness_QueueingAndGrants_errors : let q := { ln with st := .queued, pkt := { pk with paramLen := 1, paramVa := 0x10000 } }
    (tabs.recordErr 1 0x10000 = none ∧ (bad [0x800] tabs).recordErr 1 0x10000 = some 0x20000)
    ∧ (tabs.errIn false [(0x20000, 0, 64)] = none ∧ (bad [0x800] tabs).errIn false [(0x20000, 0, 64)] = some 0x20000)
    ∧ (dl hkb).pkgs.head? = some (sc [] [dl hkb]).pkg.pkgId ∧ ({ dl hkb with pkgs := [1, 0] } : Delivery).pkgs.head? ≠ some 0 ∧ pktSound hkb false 2 = false
    ∧ q.st = .queued ∧ ({ ln with waits := [7] } : Launch).waits ≠ [] ∧ ((sc [(5, q)]).reachClear 1 true false 0x10000 64 = .np 0x10000)
    ∧ (∀ v, (sc [(5, q)]).reachClear 1 true false 0x10000 64 ≠ .fail 0x28 v) := by
  refine ⟨by decide +kernel, by decide +kernel, by decide +kernel, by decide +kernel, by decide +kernel, rfl, by decide, by decide +kernel, fun v h => ?_⟩
  have e : (sc [(5, { ln with st := .queued, pkt := { pk with paramLen := 1, paramVa := 0x10000 } })]).reachClear 1 true false 0x10000 64 = .np 0x10000 := by decide +kernel
  exact absurd (e.symm.trans h) (by simp)
/-- Launches in the order of their loads, data for a vault that a migration has frozen, ports that pass and fail, and the phases of a drain. -/
theorem witness_LoadingAndSteps_phases :
    (let l (n : Nat) : Launch := { ln with st := .granted, order := n, seqs := [(0, { region := 0, x := n, pos := none, phase := none, queues := [], since := [] })] }
     let s := sc [(5, l 0), (6, l 1)]
     s.loadsBefore (l 1) = true ∧ s.loadsBefore (l 0) = false ∧ s.launchWaits 6 = true ∧ s.launchWaits 5 = false ∧ ln.st ≠ .granted ∧ SMap.find (l 1).seqs 0 ≠ none)
    ∧ (let d : DataRec := { param := false, region := 0, where_ := 0x2000, bytes := [1], off := 0 }
       (im.data = [] ∧ im.ports = []) ∧ sm.dataWaits 1 [] (fun _ => 0) d = false ∧ sm.dataErr 1 [] d = none)
    ∧ (let p (b : Nat) : PortRec := { cfg := 1, pinna := 0, sport := 0, page := 0, access := 1, param := false, base := b, extent := 0x10000 }
       (∃ q ∈ [p (2 ^ 60)], (match genOf [] q with | some g => !g.extentOk | none => true) = true)
         ∧ (∀ q ∈ [p 0x10000], (match genOf [] q with | some g => !g.extentOk | none => true) = false))
    ∧ (let s (k : Ctx) : State := sm.updCtx 40 fun _ => k
       let d : State := s { ch := { inb := [(0, [vt])], outr := [(0, vt)] } }
       d.tokensAt 40 = 2 ∧ ((d.strandAt 0 0 5).ctx 40).ch.inb = [] ∧ (SMap.get ((d.strandAt 0 0 5).region 0).sinks 0 {}).stranded = 2 ∧ mkCid 0 5 0 = 40 ∧ (s {}).tokensAt 40 = 0
         ∧ ((s {}).strandAt 0 0 5).cmdsFor 0 (fun k => k == 40) = false ∧ (((s {}).strandAt 0 0 5).ctx 40).gathers = false ∧ ((s {}).strandAt 0 0 5).settledAt 40 = true
         ∧ ((s { pend := [⟨3, some 9, [], [], [], [], []⟩] }).strandAt 0 0 5).settledAt 40 = false ∧ ((s {}).strandAt 0 95 0).cmdsOf 0 0 = false) := by
  refine ⟨by decide +kernel, by decide +kernel, by decide +kernel, by decide +kernel⟩
/-- A record that finds an error, a vault that nothing keeps from a save, and one that a migration has frozen. -/
theorem witness_CompletionAndEviction_errors : tabs.recordErr 1 0x10000 = none ∧ (bad [0x800] tabs).recordErr 1 0x10000 = some 0x20000
    ∧ sm.vaultOpen 0 0x2000 128 = true ∧ (evs { ev (.migrate 3) (.frozen 9) with oldBase := sm.vaultKey (vaultVa 0 0) } sm).vaultOpen 0 0x2000 128 = false
    ∧ (sm.maySwap 1 = true ∧ (({ sm with pkg := { sm.pkg with sched := { sm.pkg.sched with sys := [] } } } : State).maySwap 1) = true)
    ∧ ([((0 : Nat), [(1 : Byte)])].all fun b => sm.vaultOpen 1 b.1 b.2.length) = true := by decide +kernel
/-- An error in a context's record, in one that is lost, and in wire records; quotes whose reads and writes find an error. -/
theorem witness_KillsAndErrors_copies : let f (c t0 n : Nat) : State := { sm with cycle := n }.updRegion 0 fun g => { g with freeze := some (c, t0) }
    (elemOf 40 < 96 ∧ sm.copyLost 40 = false ∧ ({ sm with badCopies := [(0, 40)] } : State).copyLost 40 = true)
    ∧ (elemOf (mkCid 0 127 0) = 127 ∧ (sm.res (mkCid 0 127 0)).isSome = true ∧ sm.copyLost (mkCid 0 127 0) = false
      ∧ ((f (mkCid 0 127 0) 0 177).region (regionOf (mkCid 0 127 0))).freeze = some (mkCid 0 127 0, 0)
      ∧ 0 + 177 + 3 * ((sm.region 0).res.map fun p => (8 * p.2.cfg.wires.length + 63) / 64).foldl (· + ·) 0 ≤ 177)
    ∧ ((bad [0x800] tabs).errIn false [(0x20000, 0, 64)] = some 0x20000 ∧ (bad [0x801] tabs).errIn false [(0x20000, 0, 64)] = none
      ∧ (bad [0x801] tabs).errIn true [(0x20040, 0, 250)] = none ∧ (bad [0x801] tabs).errIn true [(0x20048, 0, 256)] = some 0x20040)
    ∧ (f 40 0 1).cycle < 0 + 222 ∧ 0 < (f 40 0 1).cycle ∧ sm.pkg.sched.deliveries = []
    ∧ (({ sm with pkg := { sm.pkg with fabric := { route := [0, 4], up := 4 } } } : State).pkg.fabric.portFor 1 = some 2) := by decide +kernel
/-- The bytes of a transfer of the control node: a command and its payload, with the CRC of R442. -/
def transfer (cmd : Nat) (body : List Byte) : List Byte :=
  let h (crc : Nat) : List Byte := bytesLE 4 0x4E4F4C44 ++ bytesLE 2 cmd ++ bytesLE 2 0 ++ bytesLE 4 7 ++ bytesLE 4 body.length ++ bytesLE 8 0 ++ bytesLE 4 0 ++ bytesLE 4 crc
  h (crc32c (h 0 ++ body)).toNat ++ body ++ List.replicate ((body.length + 31) / 32 * 32 - body.length) 0
/-- Transfers: sound, with a wrong CRC, with a nonzero pad byte, with a command that there is not, and a SETPKG. -/
theorem witness_PortCommands_transfers : let whole (b : List Byte) : Prop := 32 + leAt b 12 4 ≤ b.length ∧ leAt b 0 4 = 0x4E4F4C44 ∧ crc32c (b.take 28 ++ [0, 0, 0, 0] ++ sliceB b 32 (leAt b 12 4)) = BitVec.ofNat 32 (leAt b 28 4)
    whole (transfer 1 []) ∧ whole (transfer 4 [5, 0]) ∧ ¬ whole (listSet (transfer 1 []) 28 0x55) ∧ ¬ whole []
    ∧ (leAt (transfer 4 [5, 0]) 12 4 = 2 ∧ leAt (transfer 4 [5, 0]) 4 2 = 4 ∧ (transfer 4 [5, 0]).length = 32 + (2 + 31) / 32 * 32)
    ∧ (whole (listSet (transfer 4 [5, 0]) 40 1) ∧ (listSet (transfer 4 [5, 0]) 40 1)[(40 : Nat)]? = some 1) ∧ 0x13 ∉ [1, 2, 3, 4] := by decide +kernel
/-- A SYSLOAD, its waits and its errors; a key slot that an event awaits; retries. -/
theorem witness_PortCommands_more : let at_ (n : Nat) : State := { State.reset with pkg := { bring := { step := n } } }
    let l := (at_ 8).redirected [(0x20000, 0, 64)]
    ((at_ 8).errIn false l = none ∧ (bad [0x800] (at_ 8)).errIn false l = some 0x20000 ∧ (at_ 8).piecesCode 4 false l = none
      ∧ (({ at_ 8 with pkg := { (at_ 8).pkg with marked := [0x800] } } : State).piecesCode 4 false l).isSome = true)
    ∧ (2 ≤ 2 ∧ ¬ (2 ≤ 1 ∨ 4096 ≤ 1 ∨ 2 ^ 32 < 64 ∨ 2 ^ 256 ≤ 1)) ∧ Config.fabricFar [] = Config.fabricFar []
    ∧ ((evs { ev (.map 0 3) (.acked 0) with arg := 1 } (sc [])).slotAwaited 1 1 = true ∧ (sc []).slotAwaited 1 1 = false)
    ∧ ((at_ 8).hbmErrs = [] ∧ (∀ x, (at_ 8).redirect (x, 0) = (x, 0)) ∧ (at_ 8).rangeFrozen 0x20000 64 = false)
    ∧ ((State.reset.regions.map Prod.fst).Nodup ∧ (sm.updRegion 0 fun g => { g with withdrawn := true }).regions.map Prod.fst = [0])
    ∧ SMap.find [(3, ({ asid := 1, serial := 1, refs := 0 } : KSlot))] 3 = some { asid := 1, serial := 1, refs := 0 } ∧ (at_ 8).frondHeld 3 = false ∧ sm.frondHeld 0 = true
    ∧ (∃ r ∈ [0], SMap.has ((sm.updRegion 0 fun g => { g with res := [(4, rs 5)] }).region r).res 4 = true) := by
  refine ⟨by decide +kernel, by decide +kernel, rfl, by decide +kernel, ⟨rfl, fun x => rfl, by decide +kernel⟩, by decide +kernel, by decide +kernel, by decide +kernel, by decide +kernel, ?_⟩
  exact ⟨0, by decide, by decide +kernel⟩
/-- Syncs near and far, alone in their interval and not; and messages of the fabric at and before step 8. -/
theorem witness_BringUpAndTime_messages : let at_ (n : Nat) (t : Time) : State := { State.reset with pkg := { bring := { step := n }, time := t, fabric := { route := [0, 4], up := 4 } } }
    ((-8 ≤ (8 : Int) ∧ (8 : Int) ≤ 8) ∧ ¬ (-8 ≤ (9 : Int) ∧ (9 : Int) ≤ 8) ∧ (at_ 7 { tmaster := some 4 }).pkg.time.tmaster = some 4 ∧ 4 ≠ (at_ 7 {}).pkg.pkgId
      ∧ syncNs ≤ 2 * (at_ 7 { sinceIn := syncNs }).pkg.time.sinceIn ∧ ¬ syncNs ≤ 2 * (at_ 7 {}).pkg.time.sinceIn ∧ 2 * syncNs ≤ 2 * syncNs)
    ∧ ((at_ 7 {}).pkg.bring.step ≠ 8 ∧ (at_ 8 {}).pkg.bring.step = 8 ∧ (at_ 8 {}).rangeFrozen 0 1 = false ∧ (at_ 8 {}).pkg.pkgId ∉ [1, 2] ∧ (at_ 8 {}).inPod 6 = false)
    ∧ (∀ q, (at_ 8 {}).pkg.fabric.portFor 1 = some q → q = 2) ∧ (7 ≤ 8 ∧ (at_ 8 { sinceTx := syncNs, tmaster := some 4 }).pkg.fabric.trained = [2]) := by
  refine ⟨by decide +kernel, by decide +kernel, fun q h => ?_, by decide +kernel⟩
  have e : ({ route := [0, 4], up := 4 } : Fabric).portFor 1 = some 2 := by decide +kernel
  exact (Option.some.inj (e.symm.trans h)).symm

theorem witness_EncodeDecodeAgree : (Instr.copy (.out 3) (.v 6) 1 1 5 0 0 0 9).wf = true ∧ encode 2 (.copy (.out 3) (.v 6) 1 1 5 0 0 0 9) = some (0x0B626601#32, some 0xFE280009#32)
    ∧ (Instr.nop).wf = true ∧ (encode 62 .nop).isSome = true := by decide +kernel
/-- A firing, an event, a word of an unassigned opcode, and the agenda's end. -/
theorem witness_StepRunsDecoded : let f (w : Word) : State := { (sm.updCtx 40 fun k => { k with slots := [w], ctl := { released := true } }) with agenda := [.fire [(40, 0)] []] }
    ((f 0x06805900).takes [(40, 0)] = some (40, 0) ∧ ((f 0x06805900).ctx 40).slots.getD 0 0 = 0x06805900#32 ∧ (Instr.vld (.v 2) (.x 1)).wf = true)
    ∧ (f 0x00480000).takes [(40, 0)] = some (40, 0) ∧ sm.takes [(40, 0)] = none ∧ sm.agenda = [] := by decide +kernel
theorem witness_MemoryStaysCanonical : Memory.wf State.reset.mem = true ∧ Memory.wf pks.mem = true := by decide +kernel

end Sys2Proof.Tests
end

/-! SUPPORT. Every instruction and every event answers a next state (O58). The ways in which a firing or an event can end are few, and each of
them is a next state: that is said once for every shared operation. A meaning with branches of its own then answers because each of its
branches ends in one of them; `fun_cases` gives those branches as the definition has them. With `+zetaDelta` a branch's local name, such as
`put` of EMIT, is read as what it stands for. -/

namespace Sys2Proof.Machine

/-- An outcome of `exec` is a next state: neither a fault nor a refusal. -/
def Answers (o : Out) : Prop := ∃ t, o = .next t

@[simp] theorem answers_next (t : State) : Answers (.next t) := ⟨t, rfl⟩

@[simp] theorem answers_ite {c : Prop} [Decidable c] {a b : Out} :
    Answers (if c then a else b) ↔ (c → Answers a) ∧ (¬c → Answers b) := by
  split <;> simp [*]

/-! ### How a firing ends

A firing that retires, with a result (`finish`) or without (`done`), that ends as a precise trap (R92) or that gives poison (R89). -/

@[simp] theorem State.finish_answers (s : State) (lat : Nat) (effs : List Eff) (own : List Nat) : Answers (s.finish lat effs own) :=
  answers_next _
@[simp] theorem State.done_answers (s : State) (own : List Nat) : Answers (s.done own) := answers_next _
@[simp] theorem State.trap_answers (s : State) (code : Nat) (addr : Option Nat) (d1 d2 : Nat) : Answers (s.trap code addr d1 d2) :=
  answers_next _
@[simp] theorem State.poisonTo_answers (s : State) (d : Dst) (lat : Nat) (t : Token) (own : List Nat) :
    Answers (s.poisonTo d lat t own) := by
  cases d <;> simp [State.poisonTo]

/-! ### The operations that instructions of one family share -/

@[simp] theorem State.laneOp_answers (s : State) (lat : Nat) (d : Dst) (l : List Src) (v : Vec) (fl : BitVec 32) :
    Answers (s.laneOp lat d l v fl) := by
  fun_cases State.laneOp <;> simp
@[simp] theorem State.scalarOp_answers (s : State) (lat : Nat) (d : Dst) (l : List Src) (w : Dword) (fl : BitVec 32) :
    Answers (s.scalarOp lat d l w fl) := by
  fun_cases State.scalarOp <;> simp
@[simp] theorem State.runPlan_answers (s : State) (lat : Nat) (p : Option Plan) : Answers (s.runPlan lat p) := by
  fun_cases State.runPlan <;> simp
@[simp] theorem State.int1_answers (s : State) (lv ls : Nat) (d : Dst) (a : Src) (f : Nat → Nat → Nat) : Answers (s.int1 lv ls d a f) := by
  fun_cases State.int1 <;> simp
@[simp] theorem State.int2_answers (s : State) (lv ls : Nat) (d : Dst) (a b : Src) (f : Nat → Nat → Nat → Nat) :
    Answers (s.int2 lv ls d a b f) := by
  fun_cases State.int2 <;> simp
@[simp] theorem State.int3_answers (s : State) (lv ls : Nat) (d : Dst) (a b : Src) (f : Nat → Nat → Nat → Nat → Nat) :
    Answers (s.int3 lv ls d a b f) := by
  fun_cases State.int3 <;> simp
@[simp] theorem State.access_answers (s : State) (d : Dst) (l : List Src) (h : Shot) : Answers (s.access d l h) := by
  fun_cases State.access <;> simp
@[simp] theorem State.atomic_answers (s : State) (op sub : Nat) (d : Dst) (a : Src) (h w v n : BitVec 1) (p : BitVec 2) :
    Answers (s.atomic op sub d a h w v n p) := s.access_answers ..
@[simp] theorem State.sendXev_answers (s : State) (d : Dst) (asid : Nat) (k : XKind) (va arg : Nat) : Answers (s.sendXev d asid k va arg) :=
  State.done_answers ..
@[simp] theorem State.depDone_answers (s : State) (d : Dst) : Answers (s.depDone d) := by
  cases d <;> simp [State.depDone]
@[simp] theorem State.arrive_answers (s : State) (b : Nat) (d : Dst) (a : Src) (sync : Bool) : Answers (s.arrive b d a sync) := by
  fun_cases State.arrive <;> simp
@[simp] theorem State.setPred_answers (s : State) (k : BitVec 2) (d : BitVec 5) (r : Bool) (inv : BitVec 1) :
    Answers (s.setPred k d r inv) := s.finish_answers ..
@[simp] theorem State.fLanes_answers (s : State) (lat : Nat) (d : Dst) (l : List Src) (f : Nat → Fr) : Answers (s.fLanes lat d l f) :=
  s.laneOp_answers ..
@[simp] theorem State.f1_answers (s : State) (lat : Nat) (d : Dst) (a : Src) (f : Word → Fr) : Answers (s.f1 lat d a f) :=
  s.fLanes_answers ..
@[simp] theorem State.f2_answers (s : State) (lat : Nat) (d : Dst) (a b : Src) (f : Word → Word → Fr) : Answers (s.f2 lat d a b f) :=
  s.fLanes_answers ..
@[simp] theorem State.frExt_answers (s : State) (max : Bool) (d : Dst) (a : Src) (m : BitVec 3) : Answers (s.frExt max d a m) := by
  fun_cases State.frExt <;> simp
@[simp] theorem State.narrowOp_answers (s : State) (d : Dst) (a : Src) (w p : Nat) (f : Nat → Word → Nat × Fl) :
    Answers (s.narrowOp d a w p f) := by
  fun_cases State.narrowOp <;> simp
/-- Memory reached or not (a page not present, a store error, a poisoned piece), provided that what follows on the pieces reached answers. -/
@[simp] theorem State.withReach_answers (s : State) (d : Dst) (write : Bool) (va n : Nat) {go : List (Nat × Nat × Nat) → Out}
    (h : ∀ l, Answers (go l)) : Answers (s.withReach d write va n go) := by
  fun_cases State.withReach <;> simp +zetaDelta [h]
@[simp] theorem State.judgePacket_answers (s : State) (d : Dst) (b : List Byte) : Answers (s.judgePacket d b) := by
  fun_cases State.judgePacket <;> simp
/-- A pool command without ownership traps; with it, its own course decides. -/
@[simp] theorem State.poolGate_answers (s : State) (q : Nat) (l : List Nat) {k : Out} (h : Answers k) : Answers (s.poolGate q l k) := by
  fun_cases State.poolGate <;> simp [h]
@[simp] theorem State.sendProbe_answers (s : State) (d : Dst) (so sel gid : Nat) : Answers (s.sendProbe d so sel gid) := by
  cases d <;> simp [State.sendProbe]
/-- A command of the control port answers whatever its effect: a held response again, the step's refusal, or the effect. -/
@[simp] theorem State.command_answers (s : State) (fr : Frame) (cmd : Nat) (run : State → State) : Answers (s.command fr cmd run) := by
  fun_cases State.command <;> simp

/-! ### Channels and tags -/

@[simp] theorem execTalloc_answers (d g st s) : Answers (execTalloc d g st s) := by fun_cases execTalloc <;> simp
@[simp] theorem execTfree_answers (a g s) : Answers (execTfree a g s) := by fun_cases execTfree <;> simp
@[simp] theorem execCompact_answers (d a s) : Answers (execCompact d a s) := by fun_cases execCompact <;> simp
@[simp] theorem execOrder_answers (d a c s) : Answers (execOrder d a c s) := by fun_cases execOrder <;> simp
@[simp] theorem execEnds_answers (d a st s) : Answers (execEnds d a st s) := by fun_cases execEnds <;> simp

/-! ### Integer instructions -/

@[simp] theorem execAddr_answers (d a b h n s) : Answers (execAddr d a b h n s) := by fun_cases execAddr <;> simp
@[simp] theorem execCchain_answers (a g p s) : Answers (execCchain a g p s) := by fun_cases execCchain <;> simp
@[simp] theorem execCstep_answers (d w m s) : Answers (execCstep d w m s) := by fun_cases execCstep <;> simp

/-! ### Memory instructions -/

@[simp] theorem execSport_answers (a p u m s) : Answers (execSport a p u m s) := by fun_cases execSport <;> simp
@[simp] theorem execSreqRead_answers (d p s) : Answers (execSreqRead d p s) := by fun_cases execSreqRead <;> simp
@[simp] theorem execSreqWrite_answers (j p s) : Answers (execSreqWrite j p s) := by fun_cases execSreqWrite <;> simp
@[simp] theorem execSreq_answers (d a p w s) : Answers (execSreq d a p w s) := by fun_cases execSreq <;> simp
@[simp] theorem execSgath_answers (d a p s) : Answers (execSgath d a p s) := by fun_cases execSgath <;> simp
@[simp] theorem execTilest_answers (d a b m tile s) : Answers (execTilest d a b m tile s) := by fun_cases execTilest <;> simp
@[simp] theorem execTileq_answers (d o tile s) : Answers (execTileq d o tile s) := by fun_cases execTileq <;> simp
@[simp] theorem execValloc_answers (d a v f at_ off s) : Answers (execValloc d a v f at_ off s) := by fun_cases execValloc <;> simp
@[simp] theorem execVfree_answers (a s) : Answers (execVfree a s) := by fun_cases execVfree <;> simp
@[simp] theorem execPref_answers (a p n s) : Answers (execPref a p n s) := by fun_cases execPref <;> simp
@[simp] theorem execAwadd_answers (d a v n p s) : Answers (execAwadd d a v n p s) := by fun_cases execAwadd <;> simp

/-! ### Translation events -/

@[simp] theorem execTranslationEventEntry_answers (n s) : Answers (execTranslationEventEntry n s) := by
  fun_cases execTranslationEventEntry <;> simp
@[simp] theorem execInvalidationAck_answers (n s) : Answers (execInvalidationAck n s) := by fun_cases execInvalidationAck <;> simp
@[simp] theorem execRepatch_answers (n s) : Answers (execRepatch n s) := by fun_cases execRepatch <;> simp
@[simp] theorem execMigrateFreeze_answers (n s) : Answers (execMigrateFreeze n s) := by fun_cases execMigrateFreeze <;> simp
@[simp] theorem execMigrateCopy_answers (n s) : Answers (execMigrateCopy n s) := by fun_cases execMigrateCopy <;> simp
@[simp] theorem execMigrateRemap_answers (n s) : Answers (execMigrateRemap n s) := by fun_cases execMigrateRemap <;> simp
@[simp] theorem execMigrateReplay_answers (n s) : Answers (execMigrateReplay n s) := by fun_cases execMigrateReplay <;> simp
@[simp] theorem execTranslationCompletion_answers (n s) : Answers (execTranslationCompletion n s) := by
  fun_cases execTranslationCompletion <;> simp
@[simp] theorem execPatchFetch_answers (r x p s) : Answers (execPatchFetch r x p s) := by fun_cases execPatchFetch <;> simp
@[simp] theorem execDirtyUpdate_answers (r x p s) : Answers (execDirtyUpdate r x p s) := by fun_cases execDirtyUpdate <;> simp

/-! ### Ordering instructions -/

@[simp] theorem execSeqkey_answers (d a k s) : Answers (execSeqkey d a k s) := by fun_cases execSeqkey <;> simp
@[simp] theorem execMcsync_answers (a s) : Answers (execMcsync a s) := by fun_cases execMcsync <;> simp

/-! ### Events of ports, accesses and tiles -/

@[simp] theorem execAccessPerform_answers (n lane s) : Answers (execAccessPerform n lane s) := by fun_cases execAccessPerform <;> simp
@[simp] theorem execKeyedApply_answers (n lane s) : Answers (execKeyedApply n lane s) := by fun_cases execKeyedApply <;> simp
@[simp] theorem execPortReturn_answers (c p s) : Answers (execPortReturn c p s) := by fun_cases execPortReturn <;> simp
@[simp] theorem execBulkAgeing_answers (n s) : Answers (execBulkAgeing n s) := by fun_cases execBulkAgeing <;> simp
@[simp] theorem execDlmiss_answers (n s) : Answers (execDlmiss n s) := by fun_cases execDlmiss <;> simp
@[simp] theorem execStreamRequest_answers (c p s) : Answers (execStreamRequest c p s) := by fun_cases execStreamRequest <;> simp
@[simp] theorem execSgathRowEmit_answers (c p s) : Answers (execSgathRowEmit c p s) := by fun_cases execSgathRowEmit <;> simp
@[simp] theorem execTileCloseDone_answers (r t s) : Answers (execTileCloseDone r t s) := by fun_cases execTileCloseDone <;> simp
@[simp] theorem execTileFreeDone_answers (r t s) : Answers (execTileFreeDone r t s) := by fun_cases execTileFreeDone <;> simp

/-! ### Copies, barriers and timers -/

@[simp] theorem execCopy_answers (d a q tben tbid bulk dep2 dep1 dep0 s) : Answers (execCopy d a q tben tbid bulk dep2 dep1 dep0 s) := by
  fun_cases execCopy <;> simp
@[simp] theorem execCopyRun_answers (r q s) : Answers (execCopyRun r q s) := by fun_cases execCopyRun <;> simp
@[simp] theorem execCopyCompletion_answers (r q s) : Answers (execCopyCompletion r q s) := by fun_cases execCopyCompletion <;> simp
@[simp] theorem execTbarr_answers (d a b k s) : Answers (execTbarr d a b k s) := by fun_cases execTbarr <;> simp
@[simp] theorem execTbwait_answers (d a b s) : Answers (execTbwait d a b s) := by fun_cases execTbwait <;> simp
@[simp] theorem execTbany_answers (d a s) : Answers (execTbany d a s) := by fun_cases execTbany <;> simp
@[simp] theorem execGenerationClose_answers (r b s) : Answers (execGenerationClose r b s) := by fun_cases execGenerationClose <;> simp
@[simp] theorem execBarrierInstanceComplete_answers (b s) : Answers (execBarrierInstanceComplete b s) := by
  fun_cases execBarrierInstanceComplete <;> simp
@[simp] theorem execTimew_answers (d a r s) : Answers (execTimew d a r s) := by fun_cases execTimew <;> simp
@[simp] theorem execTimewWake_answers (c s) : Answers (execTimewWake c s) := by fun_cases execTimewWake <;> simp
@[simp] theorem execRand_answers (d a b s0) : Answers (execRand d a b s0) := by fun_cases execRand <;> simp

/-! ### Element control -/

@[simp] theorem execMov_answers (d a m s) : Answers (execMov d a m s) := by fun_cases execMov <;> simp
@[simp] theorem execSel_answers (d a b m s) : Answers (execSel d a b m s) := by fun_cases execSel <;> simp
@[simp] theorem execEmit_answers (d a g c s) : Answers (execEmit d a g c s) := by fun_cases execEmit <;> simp +zetaDelta
@[simp] theorem execTagset_answers (d a g c s) : Answers (execTagset d a g c s) := by fun_cases execTagset <;> simp
@[simp] theorem execHdread_answers (d a c s) : Answers (execHdread d a c s) := by fun_cases execHdread <;> simp
@[simp] theorem execMaskset_answers (a m s) : Answers (execMaskset a m s) := by fun_cases execMaskset <;> simp

/-! ### Floating point -/

@[simp] theorem execFsgn_answers (d a b m s) : Answers (execFsgn d a b m s) := by fun_cases execFsgn <;> simp
@[simp] theorem execFred_answers (d a s) : Answers (execFred d a s) := by fun_cases execFred <;> simp
@[simp] theorem execCvtf_answers (d a r f p n s) : Answers (execCvtf d a r f p n s) := by fun_cases execCvtf <;> simp
@[simp] theorem execCvti_answers (d a g p n s) : Answers (execCvti d a g p n s) := by fun_cases execCvti <;> simp
@[simp] theorem execFround_answers (d a b m s) : Answers (execFround d a b m s) := by fun_cases execFround <;> simp
@[simp] theorem execMxpack_answers (d a p x s) : Answers (execMxpack d a p x s) := by fun_cases execMxpack <;> simp
@[simp] theorem execScpack_answers (d a k f g p n s) : Answers (execScpack d a k f g p n s) := by fun_cases execScpack <;> simp

/-! ### Launches and steps -/

@[simp] theorem execLaunch_answers (d a v s) : Answers (execLaunch d a v s) := by fun_cases execLaunch <;> simp
@[simp] theorem execJoinc_answers (d a s) : Answers (execJoinc d a s) := by fun_cases execJoinc <;> simp
@[simp] theorem execCfgnextPost_answers (a cfg s) : Answers (execCfgnextPost a cfg s) := by fun_cases execCfgnextPost <;> simp
@[simp] theorem execStrand_answers (d a g c s) : Answers (execStrand d a g c s) := by fun_cases execStrand <;> simp
@[simp] theorem execRetire_answers (d a l s) : Answers (execRetire d a l s) := by fun_cases execRetire <;> simp
@[simp] theorem execPrio_answers (d _a g c s) : Answers (execPrio d _a g c s) := by fun_cases execPrio <;> simp

/-! ### Pool instructions -/

@[simp] theorem execPcarve_answers (a s) : Answers (execPcarve a s) := by fun_cases execPcarve <;> simp
@[simp] theorem execPmap_answers (a s) : Answers (execPmap a s) := by fun_cases execPmap <;> simp
@[simp] theorem execPcommit_answers (d l so s) : Answers (execPcommit d l so s) := s.poolGate_answers _ _ (State.done_answers ..)
@[simp] theorem execPgather_answers (d a l so tile col wid s) : Answers (execPgather d a l so tile col wid s) := by
  fun_cases execPgather <;> simp
@[simp] theorem execPissue_answers (d so all load n s) : Answers (execPissue d so all load n s) := s.poolGate_answers _ _ (State.done_answers ..)
@[simp] theorem execPissuex_answers (d so all b n s) : Answers (execPissuex d so all b n s) := s.poolGate_answers _ _ (State.done_answers ..)
@[simp] theorem execPdrain_answers (d a clr to_ so gid s) : Answers (execPdrain d a clr to_ so gid s) := by fun_cases execPdrain <;> simp
@[simp] theorem execPclear_answers (d a so gid s) : Answers (execPclear d a so gid s) := by fun_cases execPclear <;> simp
@[simp] theorem execPsort_answers (d a so gid s) : Answers (execPsort d a so gid s) := by fun_cases execPsort <;> simp
@[simp] theorem execPsortk_answers (d idx desc so gid s) : Answers (execPsortk d idx desc so gid s) := s.poolGate_answers _ _ (State.done_answers ..)
@[simp] theorem execPstat_answers (d a g so s) : Answers (execPstat d a g so s) := by fun_cases execPstat <;> simp
@[simp] theorem execPsave_answers (d a so s) : Answers (execPsave d a so s) := by fun_cases execPsave <;> simp
/-- PRESTORE reaches memory twice, the record's head and then the whole record, before its checks. -/
@[simp] theorem execPrestore_answers (d a x so s) : Answers (execPrestore d a x so s) := by
  fun_cases execPrestore with
  | case1 => simp
  | case2 =>
    refine State.withReach_answers _ _ _ _ _ fun h => State.withReach_answers _ _ _ _ _ fun l => ?_
    split
    · simp
    · split
      · simp
      · split <;> simp

/-! ### Pool events -/

@[simp] theorem execCarveStage_answers (r so s) : Answers (execCarveStage r so s) := by fun_cases execCarveStage <;> simp
@[simp] theorem execCommitCheck_answers (r so s) : Answers (execCommitCheck r so s) := by fun_cases execCommitCheck <;> simp
@[simp] theorem execGroupRelease_answers (r so gid s) : Answers (execGroupRelease r so gid s) := by fun_cases execGroupRelease <;> simp
@[simp] theorem execGatherRowFetch_answers (r so l s) : Answers (execGatherRowFetch r so l s) := by fun_cases execGatherRowFetch <;> simp
@[simp] theorem execPassStart_answers (r so s) : Answers (execPassStart r so s) := by fun_cases execPassStart <;> simp
@[simp] theorem execDrainStart_answers (r so s) : Answers (execDrainStart r so s) := by fun_cases execDrainStart <;> simp
@[simp] theorem execClearStart_answers (r so s) : Answers (execClearStart r so s) := by fun_cases execClearStart <;> simp
@[simp] theorem execSortAppend_answers (r so s) : Answers (execSortAppend r so s) := by fun_cases execSortAppend <;> simp
@[simp] theorem execSortEmit_answers (r so s) : Answers (execSortEmit r so s) := by fun_cases execSortEmit <;> simp
@[simp] theorem execDrainTileWriteDone_answers (r so s) : Answers (execDrainTileWriteDone r so s) := by
  fun_cases execDrainTileWriteDone <;> simp
@[simp] theorem execPoolecc_answers (r so q gid s) : Answers (execPoolecc r so q gid s) := by fun_cases execPoolecc <;> simp

/-! ### Scheduling events -/

@[simp] theorem execPacketAcceptance_answers (lid s) : Answers (execPacketAcceptance lid s) := by fun_cases execPacketAcceptance <;> simp
@[simp] theorem execPriorityRankUpdate_answers (r s) : Answers (execPriorityRankUpdate r s) := by fun_cases execPriorityRankUpdate <;> simp
@[simp] theorem execRegionGrant_answers (lid s) : Answers (execRegionGrant lid s) := by fun_cases execRegionGrant <;> simp
@[simp] theorem execImageLoad_answers (lid s) : Answers (execImageLoad lid s) := by fun_cases execImageLoad <;> simp +zetaDelta
@[simp] theorem execStepPlacement_answers (r x s) : Answers (execStepPlacement r x s) := by fun_cases execStepPlacement <;> simp
@[simp] theorem execConfigurationLoad_answers (r x s) : Answers (execConfigurationLoad r x s) := by fun_cases execConfigurationLoad <;> simp
@[simp] theorem execStepDrain_answers (r x s) : Answers (execStepDrain r x s) := by fun_cases execStepDrain <;> simp
@[simp] theorem execLaunchCompletion_answers (lid s) : Answers (execLaunchCompletion lid s) := by fun_cases execLaunchCompletion <;> simp
@[simp] theorem execCompletionReport_answers (lid s) : Answers (execCompletionReport lid s) := by fun_cases execCompletionReport <;> simp
@[simp] theorem execEviction_answers (r x s) : Answers (execEviction r x s) := by fun_cases execEviction <;> simp
@[simp] theorem execEvictionSave_answers (r x s) : Answers (execEvictionSave r x s) := by fun_cases execEvictionSave <;> simp
@[simp] theorem execRestore_answers (lid s) : Answers (execRestore lid s) := by fun_cases execRestore <;> simp
@[simp] theorem execQuiescentPoint_answers (r s) : Answers (execQuiescentPoint r s) := by fun_cases execQuiescentPoint <;> simp

/-! ### Kills and soft errors -/

@[simp] theorem execHbmue_answers (n lane s) : Answers (execHbmue n lane s) := by fun_cases execHbmue <;> simp
@[simp] theorem execCfgecc_answers (c s) : Answers (execCfgecc c s) := by fun_cases execCfgecc <;> simp
@[simp] theorem execCfgeccThaw_answers (r readable s) : Answers (execCfgeccThaw r readable s) := by fun_cases execCfgeccThaw <;> simp
@[simp] theorem execStateecc_answers (c s) : Answers (execStateecc c s) := by fun_cases execStateecc <;> simp

/-! ### System instructions -/

@[simp] theorem execTret_answers (d a c s) : Answers (execTret d a c s) := by fun_cases execTret <;> simp
@[simp] theorem execCtxsw_answers (a c s) : Answers (execCtxsw a c s) := by fun_cases execCtxsw <;> simp
@[simp] theorem execQstop_answers (d a c s) : Answers (execQstop d a c s) := by fun_cases execQstop <;> simp
@[simp] theorem execErrlog_answers (d a c s) : Answers (execErrlog d a c s) := by fun_cases execErrlog <;> simp
@[simp] theorem execMcmp_answers (d a s) : Answers (execMcmp d a s) := by fun_cases execMcmp <;> simp
@[simp] theorem execAttest_answers (d a s) : Answers (execAttest d a s) := by fun_cases execAttest <;> simp
@[simp] theorem execAttestQuoteDone_answers (s) : Answers (execAttestQuoteDone s) := by fun_cases execAttestQuoteDone <;> simp +zetaDelta
@[simp] theorem execCfgld_answers (d a s) : Answers (execCfgld d a s) := by fun_cases execCfgld <;> simp
@[simp] theorem execCfgsig_answers (d a c s) : Answers (execCfgsig d a c s) := by fun_cases execCfgsig <;> simp
@[simp] theorem execSysrd_answers (d a g s) : Answers (execSysrd d a g s) := by fun_cases execSysrd <;> simp +zetaDelta

/-! ### Writeback, links and traps -/

@[simp] theorem execIdleExpiry_answers (c s) : Answers (execIdleExpiry c s) := by fun_cases execIdleExpiry <;> simp
@[simp] theorem execTokenSend_answers (e k s) : Answers (execTokenSend e k s) := by fun_cases execTokenSend <;> simp
@[simp] theorem execTokenArrival_answers (n s) : Answers (execTokenArrival n s) := by fun_cases execTokenArrival <;> simp
@[simp] theorem execDeadlock_answers (r s) : Answers (execDeadlock r s) := by fun_cases execDeadlock <;> simp
@[simp] theorem execMcastStall_answers (c k s) : Answers (execMcastStall c k s) := by fun_cases execMcastStall <;> simp
@[simp] theorem execTrapQueueDelivery_answers (r s) : Answers (execTrapQueueDelivery r s) := by fun_cases execTrapQueueDelivery <;> simp

/-! ### Commands of the control port, bring-up, time and the fabric -/

@[simp] theorem execIdent_answers (fr s) : Answers (execIdent fr s) := State.command_answers ..
@[simp] theorem execFwload_answers (fr img s) : Answers (execFwload fr img s) := State.command_answers ..
@[simp] theorem execReset_answers (fr s) : Answers (execReset fr s) := State.command_answers ..
@[simp] theorem execSetpkg_answers (fr id s) : Answers (execSetpkg fr id s) := State.command_answers ..
@[simp] theorem execRoute_answers (fr ents s) : Answers (execRoute fr ents s) := State.command_answers ..
@[simp] theorem execTmaster_answers (fr id s) : Answers (execTmaster fr id s) := State.command_answers ..
@[simp] theorem execMemrd_answers (fr pa len s) : Answers (execMemrd fr pa len s) := by fun_cases execMemrd <;> simp
@[simp] theorem execMemwr_answers (fr pa bytes s) : Answers (execMemwr fr pa bytes s) := by fun_cases execMemwr <;> simp
@[simp] theorem execSysload_answers (fr pa len asid flags regs s) : Answers (execSysload fr pa len asid flags regs s) := by
  fun_cases execSysload <;> simp
@[simp] theorem execSubmit_answers (fr pkgs asid pkt s) : Answers (execSubmit fr pkgs asid pkt s) := State.command_answers ..
@[simp] theorem execResume_answers (fr src act s) : Answers (execResume fr src act s) := State.command_answers ..
@[simp] theorem execKill_answers (fr lid s) : Answers (execKill fr lid s) := State.command_answers ..
@[simp] theorem execKeyadd_answers (fr key s) : Answers (execKeyadd fr key s) := State.command_answers ..
@[simp] theorem execKeydel_answers (fr keyid s) : Answers (execKeydel fr keyid s) := State.command_answers ..
@[simp] theorem execKsnew_answers (fr asid s) : Answers (execKsnew fr asid s) := State.command_answers ..
@[simp] theorem execKsdel_answers (fr slot s) : Answers (execKsdel fr slot s) := State.command_answers ..
@[simp] theorem execQuote_answers (fr nonce lid s) : Answers (execQuote fr nonce lid s) := State.command_answers ..
@[simp] theorem execManif_answers (fr lid s) : Answers (execManif fr lid s) := State.command_answers ..
@[simp] theorem execRmap_answers (fr n s) : Answers (execRmap fr n s) := State.command_answers ..
@[simp] theorem execRepair_answers (fr f evict s) : Answers (execRepair fr f evict s) := State.command_answers ..
@[simp] theorem execRepairWindowStart_answers (f s) : Answers (execRepairWindowStart f s) := by fun_cases execRepairWindowStart <;> simp
@[simp] theorem execFirmwareVerify_answers (s) : Answers (execFirmwareVerify s) := by fun_cases execFirmwareVerify <;> simp
@[simp] theorem execFabricTraining_answers (ports s) : Answers (execFabricTraining ports s) := by fun_cases execFabricTraining <;> simp
@[simp] theorem execRegionRelease_answers (s) : Answers (execRegionRelease s) := by fun_cases execRegionRelease <;> simp
@[simp] theorem execLockedEntry_answers (s) : Answers (execLockedEntry s) := by fun_cases execLockedEntry <;> simp
@[simp] theorem execHoldoverEntry_answers (s) : Answers (execHoldoverEntry s) := by fun_cases execHoldoverEntry <;> simp
@[simp] theorem execSyncTransmit_answers (s) : Answers (execSyncTransmit s) := by fun_cases execSyncTransmit <;> simp
@[simp] theorem execFabricFlit_answers (dst m s) : Answers (execFabricFlit dst m s) := by fun_cases execFabricFlit <;> simp
@[simp] theorem runCommand_answers (fr cmd b s) : Answers (runCommand fr cmd b s) := by fun_cases runCommand <;> simp
@[simp] theorem execBadframe_answers (port b s) : Answers (execBadframe port b s) := by fun_cases execBadframe <;> simp

/-! ### Every instruction and every event -/

/-- An arm either is one shared operation, or branches and has its own lemma above: then `simp` finds it. -/
theorem exec_answers (i : Instr) (s : State) : Answers (exec i s) := by
  unfold exec
  cases i with
  | nop | deq | fence | perfw | cfgnextStep => exact State.done_answers ..
  | idle | halt | brk | resultWriteback | sharedUnitFree | mergeWindowClose | poolQueueEntry | leafJoin | passRootApply
  | drainPacketEmit | copyQueueEntry | traprec | packetDelivery | killPropagation | ptpSync | powerOn | hbmTraining
  | vaultRowTest | ucieTraining | controlPortLinkChange | coreCurrentPeak => exact answers_next _
  | pset | plog | pany | pall => exact State.setPred_answers ..
  | movi | lit | fcount | poison | chocc | timer => exact State.finish_answers ..
  | iadd | isub | imul | imulh | imin | imax | and | or | xor | shl | shr | rot | icmp | bfx | idiv => exact State.int2_answers ..
  | imad | bfi => exact State.int3_answers ..
  | iaddi | isat | bitc => exact State.int1_answers ..
  | lscan => exact State.laneOp_answers ..
  | fadd | fsub | fmul | fmin | fmax | fminn | fmaxn | fcmp | fdiv | fscale => exact State.f2_answers ..
  | ffma | cvtif | cvt4 | mxunpk | scunpk => exact State.fLanes_answers ..
  | frcp | frsq | fsqrt | fexp2 | flog2 | fclass => exact State.f1_answers ..
  | frmax | frmin => exact State.frExt_answers ..
  | pqstat => exact State.sendProbe_answers ..
  | steer | merge | lexit | gate | dup | zipt | troute | isect | union | fibre | packv | splitv | switch | dtoken =>
    exact State.runPlan_answers ..
  | vld | vst | vldx | vstx | gld | gst | glda | gstr | acas => exact State.access_answers ..
  | fencex | fencep => exact State.depDone_answers ..
  | aadd | aand | aor | axor | amin | amax | axchg | afadd | afmin | afmax | ainc | abit => exact State.atomic_answers ..
  | map | unmap | protect | migrate | xinval | adread | xprobe | xsync => exact State.sendXev_answers ..
  | nbar | gbar => exact State.arrive_answers ..
  | trap => exact State.trap_answers ..
  | mov | sel | emit | tagset | hdread | maskset | addr | cchain | cstep | fsgn | fred | cvtf | cvti | mxpack | scpack | fround => simp
  | pcarve | pcommit | pmap | pstat | pgather | pissue | pissuex | pdrain | pclear | psort | psortk | psave | prestore => simp
  | talloc | tfree | compact | order | ends => simp
  | sport | sreq | sgath | tilest | tileq | valloc | vfree | pref | seqkey | mcsync | awadd => simp
  | copy | tbarr | tbwait | tbany | timew | rand | launch | joinc | cfgnextPost | strand | retire | prio | tret | ctxsw | qstop
  | errlog | mcmp | attest | cfgld | cfgsig | sysrd => simp
  | idleExpiry | timewWake | tokenSend | tokenArrival | deadlock | mcastStall | trapQueueDelivery => simp
  | packetAcceptance | regionGrant | priorityRankUpdate | imageLoad | configurationLoad | stepPlacement | stepDrain
  | launchCompletion | completionReport | eviction | evictionSave | restore | quiescentPoint => simp
  | accessPerform | keyedApply | portReturn | streamRequest | sgathRowEmit | bulkAgeing | tileCloseDone | tileFreeDone => simp
  | carveStage | commitCheck | groupRelease | gatherRowFetch | passStart | drainStart | drainTileWriteDone | clearStart
  | sortAppend | sortEmit => simp
  | copyRun | copyCompletion | generationClose | barrierInstanceComplete => simp
  | translationEventEntry | invalidationAck | repatch | patchFetch | dirtyUpdate | migrateFreeze | migrateCopy | migrateRemap
  | migrateReplay | translationCompletion => simp
  | cfgeccThaw | repairWindowStart | dlmiss | hbmue | poolecc | cfgecc | stateecc | attestQuoteDone | lockedEntry | holdoverEntry
  | fabricFlit | firmwareVerify | fabricTraining | regionRelease => simp
  | ident | fwload | reset | setpkg | route | tmaster | sysload | submit | resume | kill | memrd | memwr | keyadd | keydel | ksnew
  | ksdel | quote | manif | rmap | repair | badframe | syncTransmit => simp

/-- Settles O58: no arm of the dispatcher ends in a fault or a refusal, whatever the instruction, the event and the state. -/
theorem execAlwaysAnswers : Obligations.ExecAlwaysAnswers := by
  unfold Obligations.ExecAlwaysAnswers
  exact exec_answers

end Sys2Proof.Machine

/-! SUPPORT. Reading a table after every entry has changed, or after those of some keys have gone. -/

namespace Sys2Proof

theorem SMap.find_map {α β : Type} (m : SMap α) (f : Nat × α → β) (k : Nat) :
    SMap.find (m.map fun e => (e.1, f e)) k = (SMap.find m k).map fun v => f (k, v) := by
  induction m with
  | nil => rfl
  | cons e t ih =>
    obtain ⟨j, v⟩ := e
    by_cases hj : j = k
    · subst hj
      simp [SMap.find]
    · simp [SMap.find, hj, ih]

theorem SMap.find_filter_key {α : Type} (m : SMap α) (q : Nat → Bool) (k : Nat) :
    SMap.find (m.filter fun e => q e.1) k = if q k then SMap.find m k else none := by
  induction m with
  | nil => simp
  | cons e t ih =>
    obtain ⟨j, v⟩ := e
    by_cases hj : j = k
    · subst hj
      cases hq : q j <;> simp_all [SMap.find]
    · cases hq : q j <;> simp_all [SMap.find]

theorem SMap.mem_of_find {α : Type} {m : SMap α} {k : Nat} {v : α} (h : SMap.find m k = some v) : (k, v) ∈ m := by
  induction m with
  | nil => simp at h
  | cons e t ih =>
    obtain ⟨j, w⟩ := e
    by_cases hj : j = k
    · simp_all [SMap.find]
    · exact List.mem_cons_of_mem _ (ih (by simpa [SMap.find, hj] using h))

end Sys2Proof

/-! SUPPORT. What a load leaves of the contexts it writes into (R74, R147), and why O50 fails. The last clause that O50 states of
CONFIGURATION_LOAD is a frame: every context but those of the configuration's own records is as it was. The load starts by emptying its context in
every element of the region, so an element for which the configuration has no record loses the FSTAT that an earlier configuration left there. -/

namespace Sys2Proof.Machine

/-! ### Folds -/

/-- A fold keeps what each of its steps keeps. -/
theorem foldl_keeps_eq {σ α β : Type} (g : σ → β) (f : σ → α → σ) (l : List α) (x : σ) (h : ∀ x a, g (f x a) = g x) :
    g (l.foldl f x) = g x :=
  foldl_keeps (fun y => g y = g x) f l rfl fun y a hy => (h y a).trans hy

/-! ### Contexts written one after another -/

/-- Contexts written in a list, each with a value that may hold its own source number: no other context changes. -/
theorem State.ctx_foldl_setCtx_ne {α : Type} (cid : α → Nat) (val : BitVec 29 → α → Ctx) (l : List α) (s : State) (c : Nat)
    (h : ∀ a ∈ l, c ≠ cid a) : (l.foldl (fun s a => s.setCtx (cid a) (val (s.source (cid a)) a)) s).ctx c = s.ctx c := by
  induction l generalizing s with
  | nil => rfl
  | cons a t ih =>
    rw [List.foldl_cons, ih _ fun b hb => h b (List.mem_cons_of_mem _ hb), State.ctx_setCtx, if_neg (h a List.mem_cons_self)]

/-- Each context of such a list holds its value, where no context stands twice. -/
theorem State.ctx_foldl_setCtx_mem {α : Type} (cid : α → Nat) (val : BitVec 29 → α → Ctx) (l : List α) (s : State) (hl : (l.map cid).Nodup)
    {a : α} (ha : a ∈ l) : (l.foldl (fun s a => s.setCtx (cid a) (val (s.source (cid a)) a)) s).ctx (cid a) = val (s.source (cid a)) a := by
  induction l generalizing s with
  | nil => exact absurd ha List.not_mem_nil
  | cons b t ih =>
    obtain ⟨hb, ht⟩ := List.nodup_cons.mp hl
    rw [List.foldl_cons]
    rcases List.mem_cons.mp ha with rfl | ha
    · rw [State.ctx_foldl_setCtx_ne cid val t _ (cid a) fun k hk he => hb (List.mem_map.mpr ⟨k, hk, he.symm⟩), State.ctx_setCtx_self]
    · exact ih (s.setCtx (cid b) (val (s.source (cid b)) b)) ht ha

/-- What a context of a region held is gone, in every element; no other context changes. -/
theorem State.ctx_clearCtxs (s : State) (r x c : Nat) :
    (s.clearCtxs r x).ctx c = if regionOf c = r ∧ ctxOf c = x then {} else s.ctx c := by
  rw [State.ctx, SMap.get_eq_find, State.clearCtxs, SMap.find_filter_key s.ctxs (fun c => !(regionOf c == r && ctxOf c == x))]
  by_cases hc : regionOf c = r ∧ ctxOf c = x
  · simp [hc]
  · have hother : (regionOf c == r && ctxOf c == x) = false :=
      Bool.eq_false_iff.mpr fun h => hc (by simpa only [Bool.and_eq_true, beq_iff_eq] using h)
    rw [if_pos (by rw [hother, Bool.not_false]), if_neg hc, State.ctx, SMap.get_eq_find]

/-! ### CONFIGURATION_LOAD -/

theorem State.respond_ctxs (s : State) (fr : Frame) (cmd status : Nat) (b : List Byte) : (s.respond fr cmd status b).ctxs = s.ctxs :=
  (State.updPkg_ctxs _ _).trans (s.updPkg_ctxs _)

theorem State.answer_ctxs (s : State) (fr : Frame) (cmd status : Nat) (b : List Byte) : (s.answer fr cmd status b).ctxs = s.ctxs := by
  unfold State.answer
  split
  · exact s.updPkg_ctxs _
  · exact s.respond_ctxs ..

theorem State.sysPassed_ctxs (s : State) (r : Nat) : (s.sysPassed r).ctxs = s.ctxs := by
  unfold State.sysPassed
  exact (foldl_keeps_eq State.ctxs (fun u (e : Frame × List Nat) => u.answer e.1 7 0 []) _ _ fun u e => u.answer_ctxs e.1 7 0 []).trans (s.updPkg_ctxs _)

/-- The last record is confirmed: a context of the load in an element without a record is empty, whatever stood there (R147). -/
theorem configurationLoad_empties {s t : State} {r x n : Nat} {p : Resident} (hp : SMap.find (s.region r).res x = some p)
    (hn : p.phase = .loading n) (hdue : n ≤ s.cycle + 1) (ht : exec (.configurationLoad r x) s = .next t) {c : Nat}
    (hr : regionOf c = r) (hx : ctxOf c = x) (hc : ∀ e ∈ p.cfg.elems, c ≠ mkCid r e.elem x) : t.ctx c = {} := by
  change execConfigurationLoad r x s = .next t at ht
  simp only [execConfigurationLoad, hp, hn, if_neg (Nat.not_lt.mpr hdue), Host.Outcome.next.injEq] at ht
  have hctxs : t.ctxs = (p.cfg.elems.foldl (fun s e => s.setCtx (mkCid r e.elem x) (e.ctx p.step)) (s.clearCtxs r x)).ctxs := by
    rw [← ht]
    split
    · rw [State.sysPassed_ctxs, State.updRegion_ctxs]
    · rw [State.updRegion_ctxs]
  have hkeep := State.ctx_foldl_setCtx_ne (fun e : ElemRec => mkCid r e.elem x) (fun _ e => e.ctx p.step) p.cfg.elems (s.clearCtxs r x) c hc
  calc t.ctx c = (p.cfg.elems.foldl (fun s e => s.setCtx (mkCid r e.elem x) (e.ctx p.step)) (s.clearCtxs r x)).ctx c := by
        rw [State.ctx, hctxs]; rfl
    _ = (s.clearCtxs r x).ctx c := hkeep
    _ = {} := by rw [State.ctx_clearCtxs, if_pos ⟨hr, hx⟩]

/-! ### The counterexample -/

/-- A configuration whose one record stands at element 6, and whose records have all been confirmed. -/
def confirmedLoad : Resident where
  lid := 5
  asid := 1
  keyed := false
  g := 0
  cfg := { num := 1, route := false, window := 1, homectx := 0, elems := [⟨6, 0, 0, [], []⟩], wires := [], tiles := [] }
  pos := 0
  step := 0
  pick := false
  gens := []
  phase := .loading 1

/-- Context 0 of region 0 takes that configuration, where at element 7 an earlier one left the flag INX in FSTAT. -/
def flagsLeftBeside : State :=
  { State.reset with regions := [(0, { res := [(0, confirmedLoad)] })], ctxs := [(mkCid 0 7 0, { regs := { fstat := 1 } })] }

/-- Refutes O50: from `flagsLeftBeside` the load resets FSTAT of context 0 at element 7 as well (R147), while the statement says that every context
but the one at element 6 is as it was. -/
theorem not_loadingAndSteps : ¬ Obligations.LoadingAndSteps := by
  unfold Obligations.LoadingAndSteps
  intro h
  obtain ⟨-, -, -, -, hload, -⟩ := h flagsLeftBeside
  obtain ⟨-, hdue, -⟩ := hload 0 0 confirmedLoad 1 rfl rfl
  obtain ⟨t, ht, -, -, -, -, hframe⟩ := hdue (by decide) (by decide) (by decide)
  have hkept : t.ctx (mkCid 0 7 0) = flagsLeftBeside.ctx (mkCid 0 7 0) := hframe _ (by decide)
  have hempty : t.ctx (mkCid 0 7 0) = {} := configurationLoad_empties (n := 1) rfl rfl (by decide) ht (by decide) (by decide) (by decide)
  have hflags : flagsLeftBeside.ctx (mkCid 0 7 0) = { regs := { fstat := 1 } } := by decide
  simp [hempty, hflags] at hkept

end Sys2Proof.Machine

/-! SUPPORT. The end, the eviction and the restore of a launch (O51): what each operation of the scheduler leaves of the state, said once, and
then each event by its own lemma. -/

namespace Sys2Proof.Machine

/-! ### The scheduler's operations -/

theorem State.launch_updLaunch_self {s : State} {lid : Nat} {l : Launch} (f : Launch → Launch) (h : s.launch lid = some l) :
    (s.updLaunch lid f).launch lid = some (f l) := by
  unfold State.updLaunch
  rw [h]
  exact SMap.find_set_self _ _ _

@[simp] theorem State.updLaunch_regions (s : State) (lid : Nat) (f : Launch → Launch) : (s.updLaunch lid f).regions = s.regions := by
  unfold State.updLaunch; split <;> rfl
@[simp] theorem State.updLaunch_ctxs (s : State) (lid : Nat) (f : Launch → Launch) : (s.updLaunch lid f).ctxs = s.ctxs := by
  unfold State.updLaunch; split <;> rfl
@[simp] theorem State.updLaunch_mem (s : State) (lid : Nat) (f : Launch → Launch) : (s.updLaunch lid f).mem = s.mem := by
  unfold State.updLaunch; split <;> rfl
@[simp] theorem State.updLaunch_fabric (s : State) (lid : Nat) (f : Launch → Launch) : (s.updLaunch lid f).pkg.fabric = s.pkg.fabric := by
  unfold State.updLaunch; split <;> rfl
@[simp] theorem State.updLaunch_port (s : State) (lid : Nat) (f : Launch → Launch) : (s.updLaunch lid f).pkg.port = s.pkg.port := by
  unfold State.updLaunch; split <;> rfl
@[simp] theorem State.region_updLaunch (s : State) (lid : Nat) (f : Launch → Launch) (r : Nat) : (s.updLaunch lid f).region r = s.region r := by
  rw [State.region, State.updLaunch_regions, State.region]
@[simp] theorem State.ctx_updLaunch (s : State) (lid : Nat) (f : Launch → Launch) (c : Nat) : (s.updLaunch lid f).ctx c = s.ctx c := by
  rw [State.ctx, State.updLaunch_ctxs, State.ctx]

/-- A message changes the list of what has left through the fabric, and nothing else. -/
theorem State.forward_eq (s : State) (dst : Nat) (m : FabMsg) :
    s.forward dst m = { s with pkg := { s.pkg with fabric := (s.forward dst m).pkg.fabric } } := by
  unfold State.forward; split <;> rfl

@[simp] theorem State.forward_mem (s : State) (dst : Nat) (m : FabMsg) : (s.forward dst m).mem = s.mem := by rw [State.forward_eq]
@[simp] theorem State.forward_ctxs (s : State) (dst : Nat) (m : FabMsg) : (s.forward dst m).ctxs = s.ctxs := by rw [State.forward_eq]
@[simp] theorem State.forward_regions (s : State) (dst : Nat) (m : FabMsg) : (s.forward dst m).regions = s.regions := by rw [State.forward_eq]
@[simp] theorem State.forward_port (s : State) (dst : Nat) (m : FabMsg) : (s.forward dst m).pkg.port = s.pkg.port := by rw [State.forward_eq]
@[simp] theorem State.launch_forward (s : State) (dst : Nat) (m : FabMsg) (lid : Nat) : (s.forward dst m).launch lid = s.launch lid := by
  rw [State.forward_eq]; rfl

theorem State.launch_tellPod (s : State) (listed : List Nat) (m : FabMsg) (lid : Nat) : (s.tellPod listed m).launch lid = s.launch lid :=
  foldl_keeps_eq (fun u => u.launch lid) (fun u p => u.forward p m) _ s fun u p => u.launch_forward p m lid

theorem State.toPort_mem (s : State) (b : List Byte) : (s.toPort b).mem = s.mem := rfl
theorem State.toPort_ctxs (s : State) (b : List Byte) : (s.toPort b).ctxs = s.ctxs := rfl
theorem State.toPort_regions (s : State) (b : List Byte) : (s.toPort b).regions = s.regions := rfl
theorem State.launch_toPort (s : State) (b : List Byte) (lid : Nat) : (s.toPort b).launch lid = s.launch lid := rfl
theorem State.toPort_fabric (s : State) (b : List Byte) : (s.toPort b).pkg.fabric = s.pkg.fabric := rfl
theorem State.toPort_pending (s : State) (b : List Byte) : (s.toPort b).pkg.port.pending = placeBy portKey b s.pkg.port.pending := rfl

/-! ### Completion (R28, R387, R444) -/

theorem State.launch_endWaits_eq_none {s : State} {lid : Nat} (k : Nat) (h : s.launch lid = none) : (s.endWaits k).launch lid = none :=
  (SMap.find_map _ _ _).trans (by rw [State.launch] at h; rw [h]; rfl)

/-- A launch that has ended is no launch any more. -/
theorem State.launch_endLaunch (s : State) (lid : Nat) (l : Launch) (b : List Byte) (refused : Bool) :
    (s.endLaunch lid l b refused).launch lid = none := by
  unfold State.endLaunch
  rw [State.launch_tellPod]
  exact State.launch_endWaits_eq_none lid ((SMap.find_del _ lid lid).trans (if_pos rfl))

/-- The two sums over the other packages' reports, taken together and apart. -/
theorem foldl_sum_pair {α : Type} (f g : α → Nat) (l : List α) (a b : Nat) :
    l.foldl (fun n r => (n.1 + f r, n.2 + g r)) (a, b) = (l.foldl (fun n r => n + f r) a, l.foldl (fun n r => n + g r) b) := by
  induction l generalizing a b with
  | nil => rfl
  | cons r t ih => exact ih (a + f r) (b + g r)

/-- CODE of a completion record (R387). -/
theorem Launch.verdict_code (l : Launch) (poi str : Nat) (ovl child head killed : Bool) :
    (l.verdict poi str ovl child head killed).1
      = if killed then 0x21 else if l.code ≠ 0 then l.code else if 0 < poi ∨ 0 < str ∨ head = true then 0x20 else 0 := rfl

/-- FLAGS of a completion record (R387). -/
theorem Launch.verdict_flags (l : Launch) (poi str : Nat) (ovl child head killed : Bool) :
    (l.verdict poi str ovl child head killed).2
      = (if ovl then 1 else 0) + (if 0 < poi then 2 else 0) + (if 0 < str then 4 else 0) + (if child then 8 else 0) := by
  have hbit (k : Nat) (q : Prop) [Decidable q] : k * bit01 (decide q) = if q then k else 0 := by
    by_cases h : q <;> simp [bit01, h]
  have hchild : 8 * bit01 child = if child then 8 else 0 := by cases child <;> rfl
  simp only [Launch.verdict, hbit, hchild]
  rfl

/-- A completion waits for every listed package's report, and for a migration of the page of its record. -/
theorem execLaunchCompletion_waits {s : State} {lid : Nat} {l : Launch} (hl : s.launch lid = some l)
    (hwait : ¬ l.pkgs.length ≤ l.reports.length + 1 ∨ s.recordReach l.asid l.pkt.compVa = .hold) : execLaunchCompletion lid s = .next s := by
  simp only [execLaunchCompletion, hl]
  rw [if_pos]
  rcases hwait with hmore | hheld
  · exact .inr (.inr (.inl (Nat.not_le.mp hmore)))
  · exact .inr (.inr (.inr hheld))

/-- Where the record's store finds an error, the launch waits for the kill. -/
theorem execLaunchCompletion_found {s : State} {lid : Nat} {l : Launch} (hl : s.launch lid = some l) (hdone : s.partDone lid l = true)
    (hpos : s.podIndex l = 0) (hall : l.pkgs.length ≤ l.reports.length + 1) (hheld : s.recordReach l.asid l.pkt.compVa ≠ .hold)
    {e : Nat} (herr : s.recordErr l.asid l.pkt.compVa = some e) : execLaunchCompletion lid s = .next (s.findErr lid none 0 e 0) := by
  simp [execLaunchCompletion, hl, hdone, hpos, Nat.not_lt.mpr hall, hheld, herr]

/-- A refused launch ends with the record of its refusal (R73). -/
theorem execLaunchCompletion_refused {s : State} {lid : Nat} {l : Launch} (hl : s.launch lid = some l) (hdone : s.partDone lid l = true)
    (hpos : s.podIndex l = 0) (hall : l.pkgs.length ≤ l.reports.length + 1) (hheld : s.recordReach l.asid l.pkt.compVa ≠ .hold)
    (hsound : s.recordErr l.asid l.pkt.compVa = none) (href : l.refusal ≠ []) :
    execLaunchCompletion lid s = .next (s.endLaunch lid l l.refusal true) := by
  simp [execLaunchCompletion, hl, hdone, hpos, Nat.not_lt.mpr hall, hheld, hsound, href]

/-- At position 0, with every listed package heard and the record's place open, the launch ends with its record. -/
theorem execLaunchCompletion_ends {s : State} {lid : Nat} {l : Launch} (hl : s.launch lid = some l) (hdone : s.partDone lid l = true)
    (hpos : s.podIndex l = 0) (hall : l.pkgs.length ≤ l.reports.length + 1) (hheld : s.recordReach l.asid l.pkt.compVa ≠ .hold)
    (hsound : s.recordErr l.asid l.pkt.compVa = none) (href : l.refusal = []) :
    let m := s.sinkSums l
    let poi := l.reports.foldl (fun n r => n + r.2.2.2.1) m.1
    let str := l.reports.foldl (fun n r => n + r.2.2.2.2) m.2
    let told (k : Nat) : Bool := l.reports.any fun r => r.2.2.1 / 2 ^ k % 2 == 1
    let v := l.verdict poi str (l.randOvl || told 0) (l.childErr || told 3) (l.headErr || l.reports.any fun r => r.2.1 != 0 && r.2.1 != 0x21)
      (l.killed.isSome || l.reports.any fun r => r.2.1 == 0x21)
    execLaunchCompletion lid s = .next (s.endLaunch lid l (completionBytes v.1 v.2 lid poi str l.accTime s.now) false) := by
  intro m poi str told v
  have hsums : l.reports.foldl (fun n r => (n.1 + r.2.2.2.1, n.2 + r.2.2.2.2)) (s.sinkSums l) = (poi, str) :=
    foldl_sum_pair (fun r : Nat × Nat × Nat × Nat × Nat => r.2.2.2.1) (fun r => r.2.2.2.2) l.reports m.1 m.2
  simp only [execLaunchCompletion, hl, hdone, hpos, hsound, href, hheld, hsums, Nat.not_lt.mpr hall]
  rfl

/-- A payload is put between what stands before it and what stands after it. -/
theorem placeBy_eq_append {α : Type} (key : α → Nat × Nat × Nat) (x : α) (l : List α) :
    ∃ pre post, l = pre ++ post ∧ placeBy key x l = pre ++ x :: post := by
  have hsplit : l.takeWhile (fun y => !keyLess (key x) (key y)) ++ l.dropWhile (fun y => !keyLess (key x) (key y)) = l :=
    List.takeWhile_append_dropWhile
  have hdrop := (congrArg (List.drop (l.takeWhile fun y => !keyLess (key x) (key y)).length) hsplit.symm).trans List.drop_left
  exact ⟨_, _, hsplit.symm, by rw [placeBy, hdrop]⟩

/-- A part that is not yet reported is, once: its package keeps the launch, and returns the record of a refused image (R73). -/
theorem execCompletionReport_reports {s : State} {lid : Nat} {l : Launch} (hl : s.launch lid = some l) (hdone : s.partDone lid l = true)
    (hpos : s.podIndex l ≠ 0) (hrep : l.reported = false) :
    let m := s.sinkSums l
    let v := l.verdict m.1 m.2 l.randOvl l.childErr l.headErr l.killed.isSome
    let told := s.forward (l.pkgs.getD 0 0) (.report lid s.pkg.pkgId v.1 v.2 m.1 m.2)
    ∃ t, execCompletionReport lid s = .next t ∧ t.launch lid = some { l with reported := true } ∧ t.mem = s.mem ∧ t.ctxs = s.ctxs
      ∧ t.regions = s.regions ∧ (l.refusal = [] → t.pkg.port.pending = s.pkg.port.pending)
      ∧ (l.refusal ≠ [] → ∃ pre post, s.pkg.port.pending = pre ++ post ∧ t.pkg.port.pending = pre ++ l.refusal :: post)
      ∧ t.pkg.fabric = told.pkg.fabric := by
  intro m v told
  let u := told.updLaunch lid fun l => { l with reported := true }
  have hexec : execCompletionReport lid s = .next (if l.refusal = [] then u else u.toPort l.refusal) := by
    simp [execCompletionReport, hl, hdone, hpos, hrep, u, told, v, m]
  have hlaunch : u.launch lid = some { l with reported := true } := State.launch_updLaunch_self _ ((s.launch_forward ..).trans hl)
  have hmem : u.mem = s.mem := (told.updLaunch_mem ..).trans (s.forward_mem ..)
  have hctxs : u.ctxs = s.ctxs := (told.updLaunch_ctxs ..).trans (s.forward_ctxs ..)
  have hregions : u.regions = s.regions := (told.updLaunch_regions ..).trans (s.forward_regions ..)
  have hport : u.pkg.port = s.pkg.port := (told.updLaunch_port ..).trans (s.forward_port ..)
  have hfabric : u.pkg.fabric = told.pkg.fabric := told.updLaunch_fabric ..
  by_cases href : l.refusal = []
  · rw [if_pos href] at hexec
    exact ⟨u, hexec, hlaunch, hmem, hctxs, hregions, fun _ => by rw [hport], fun h => absurd href h, hfabric⟩
  · rw [if_neg href] at hexec
    refine ⟨_, hexec, (u.launch_toPort ..).trans hlaunch, (u.toPort_mem _).trans hmem, (u.toPort_ctxs _).trans hctxs,
      (u.toPort_regions _).trans hregions, fun h => absurd h href, fun _ => ?_, (u.toPort_fabric _).trans hfabric⟩
    rw [State.toPort_pending, hport]
    exact placeBy_eq_append portKey l.refusal s.pkg.port.pending

theorem execCompletionReport_reported {s : State} {lid : Nat} {l : Launch} (hl : s.launch lid = some l) (hrep : l.reported = true) :
    execCompletionReport lid s = .next s := by
  simp [execCompletionReport, hl, hrep]

/-! ### Eviction (R412 step 1) -/

/-- Sources that emit DRAIN change their own context alone: no byte of memory, no request, no region. -/
theorem State.injectCtx_keeps (s : State) (c : Nat) (e : ElemRec) :
    let t := s.injectCtx c e
    (t.mem, t.reqs, t.regions) = (s.mem, s.reqs, s.regions) := by
  refine foldl_keeps_eq (fun u : State => (u.mem, u.reqs, u.regions)) _ _ (s.updCtx c Ctx.drainPorts) fun u p => ?_
  split <;> rfl

theorem State.foldl_injectCtx_keeps (s : State) (r x : Nat) (l : List ElemRec) :
    let t := l.foldl (fun s e => s.injectCtx (mkCid r e.elem x) e) s
    (t.mem, t.reqs, t.regions) = (s.mem, s.reqs, s.regions) :=
  foldl_keeps_eq (fun u : State => (u.mem, u.reqs, u.regions)) _ l s fun u e => u.injectCtx_keeps _ e

/-- A context's one source emits its DRAIN if its output accepts, once the read streams have ended. -/
theorem State.ctx_injectCtx {s : State} {c j o : Nat} {e : ElemRec} (hu : (s.ctx c).undrained e = [(j, o)])
    (ha : (s.ctx c).drainPorts.accepts o = true) :
    (s.injectCtx c e).ctx c = { (s.ctx c).drainPorts.putOut o (s.stamp c { kind := kDRAIN, tag := (s.ctx c).otag o }) with
      drained := SMap.set (s.ctx c).drained j true } := by
  have hx : (s.updCtx c Ctx.drainPorts).ctx c = (s.ctx c).drainPorts := s.ctx_updCtx_self c _
  have hstamp (t : Token) : (s.updCtx c Ctx.drainPorts).stamp c t = s.stamp c t := by
    simp only [State.stamp, hx]; rfl
  unfold State.injectCtx
  rw [hu, List.foldl_cons, List.foldl_nil, hx, if_pos ha, State.putTok, State.ctx_updCtx_self, State.ctx_updCtx_self, hx, hstamp]
  rfl

/-- A configuration that is to leave is marked, and its sources emit DRAIN. -/
theorem execEviction_evicts {s : State} {r x : Nat} {p : Resident} (hp : SMap.find (s.region r).res x = some p)
    (hgo : p.phase = .evicting ∨ p.phase = .running ∧ p.lid ∈ s.victims ∧ s.maySwap r = true) :
    execEviction r x s = .next (p.cfg.elems.foldl (fun s e => s.injectCtx (mkCid r e.elem x) e)
      (s.updRegion r fun g => { g with res := SMap.set g.res x { p with phase := .evicting } })) := by
  have hleaves : (p.phase == .evicting || (p.phase == .running && s.victims.contains p.lid && s.maySwap r)) = true := by
    simp only [Bool.or_eq_true, Bool.and_eq_true, beq_iff_eq, List.contains_iff_mem, and_assoc]
    exact hgo
  simp only [execEviction, hp]
  rw [if_neg (by rw [hleaves]; exact Bool.false_ne_true)]

/-! ### The save (R412 steps 3 and 4) -/

/-- A context emptied keeps FSTAT alone (R147); no context elsewhere changes. -/
theorem State.ctx_emptyCtx (s : State) (r x c : Nat) :
    (s.emptyCtx r x).ctx c = if regionOf c = r ∧ ctxOf c = x then { regs := { fstat := (s.ctx c).regs.fstat } } else s.ctx c := by
  have h := SMap.find_map s.ctxs (fun k => if regionOf k.1 == r && ctxOf k.1 == x then ({ regs := { fstat := k.2.regs.fstat } } : Ctx) else k.2) c
  rw [State.ctx, SMap.get_eq_find, State.ctx, SMap.get_eq_find]
  refine (congrArg (fun o : Option Ctx => o.getD {}) h).trans ?_
  cases SMap.find s.ctxs c <;> simp

/-- Reporting what an access of the loader met changes no context, no byte of memory and no launch. -/
theorem State.reportMigrated_keeps (s : State) (lid asid a : Nat) :
    let u := s.reportMigrated lid asid a
    (u.ctxs, u.mem, u.pkg.sched) = (s.ctxs, s.mem, s.pkg.sched) := by
  intro u
  simp only [u, State.reportMigrated]
  split
  · unfold State.raise
    dsimp only
    split <;> rfl
  · rfl

theorem State.tilesMet_keeps (s : State) (lid asid r : Nat) (l : List Tile) :
    let u := s.tilesMet lid asid r l
    (u.ctxs, u.mem, u.pkg.sched) = (s.ctxs, s.mem, s.pkg.sched) := by
  refine foldl_keeps_eq (fun u : State => (u.ctxs, u.mem, u.pkg.sched)) _ _ s fun u p => ?_
  split
  · exact u.reportMigrated_keeps ..
  · rfl

theorem State.residentsOf_eq_nil_iff (s : State) (lid : Nat) :
    s.residentsOf lid = [] ↔ ∀ g ∈ s.regions, ∀ p ∈ g.2.res, p.2.lid ≠ lid := by
  simp [State.residentsOf, List.flatMap_eq_nil_iff, List.filter_eq_nil_iff]

/-- A region that gains no resident gives no launch one. -/
theorem State.residentsOf_updRegion_eq_nil {s : State} {r lid : Nat} {f : Region → Region} (hf : ∀ g, (f g).res = g.res)
    (h : s.residentsOf lid = []) : (s.updRegion r f).residentsOf lid = [] := by
  rw [State.residentsOf_eq_nil_iff] at h ⊢
  intro g hg
  rcases SMap.mem_set hg with rfl | hg
  · rw [hf, State.region, SMap.get_eq_find]
    cases hr : SMap.find s.regions r with
    | none => intro p hp; simp at hp
    | some k => exact h _ (SMap.mem_of_find hr)
  · exact h g hg

/-- The sinks of some of a launch's regions cleared. -/
def State.clearSinks (s : State) (l : List (Nat × RegSeq)) : State :=
  l.foldl (fun s q => s.updRegion q.2.region fun g => { g with sinks := SMap.set g.sinks q.2.x {} }) s

theorem State.clearSinks_keeps (s : State) (l : List (Nat × RegSeq)) (r : Nat) :
    let u := s.clearSinks l
    (u.ctxs, u.mem, u.pkg, (u.region r).res) = (s.ctxs, s.mem, s.pkg, (s.region r).res) := by
  refine foldl_keeps_eq (fun u : State => (u.ctxs, u.mem, u.pkg, (u.region r).res)) _ _ s fun u q => ?_
  simp only [State.updRegion_ctxs, State.updRegion_mem, State.updRegion_pkg, State.region_updRegion]
  split
  · next hr => rw [hr]
  · rfl

theorem State.residentsOf_clearSinks_eq_nil {s : State} (l : List (Nat × RegSeq)) {lid : Nat} (h : s.residentsOf lid = []) :
    (s.clearSinks l).residentsOf lid = [] :=
  foldl_keeps (fun u : State => u.residentsOf lid = []) _ l h fun _ _ => State.residentsOf_updRegion_eq_nil fun _ => rfl

/-- A launch without a resident waits for a grant again, with what it has saved; only sinks of regions change beside it. -/
theorem State.leaveRegions_spec {s : State} {lid : Nat} {l : Launch} (h : s.launch lid = some l) (r : Nat) (hnone : s.residentsOf lid = []) :
    let t := s.leaveRegions lid
    t.ctxs = s.ctxs ∧ t.mem = s.mem ∧ (t.region r).res = (s.region r).res ∧ t.residentsOf lid = []
      ∧ ∃ m, t.launch lid = some m ∧ m.st = .accepted ∧ m.evicted = true ∧ m.saved = l.saved := by
  let bare := l.seqs.filter fun q => !(l.saved.any fun v => v.g == q.1)
  have hkeeps := s.clearSinks_keeps bare r
  simp only [Prod.mk.injEq] at hkeeps
  obtain ⟨hctxs, hmem, hpkg, hres⟩ := hkeeps
  have hl : (s.clearSinks bare).launch lid = some l := by rw [State.launch, hpkg]; exact h
  have ht : s.leaveRegions lid = (s.clearSinks bare).updLaunch lid fun l =>
      { l with st := .accepted, evicted := true, sinks := bare.map fun q => (q.1, SMap.get (s.region q.2.region).sinks q.2.x {}) } := by
    unfold State.leaveRegions
    rw [h]
    rfl
  intro t
  simp only [t, ht, State.updLaunch_ctxs, State.updLaunch_mem, State.region_updLaunch]
  refine ⟨hctxs, hmem, hres, ?_, _, State.launch_updLaunch_self _ hl, rfl, rfl, rfl⟩
  rw [State.residentsOf, State.updLaunch_regions]
  exact State.residentsOf_clearSinks_eq_nil bare hnone

/-- What the save of a context keeps of it (R412). -/
def State.savedOf (s : State) (r x : Nat) (p : Resident) : Saved :=
  let tiles := (s.region r).tiles.filter fun t => t.2.owner == x
  { g := p.g, region := r, res := { p with phase := .running }, ctxs := p.cfg.elems.map fun e => (e.elem, s.ctx (mkCid r e.elem x)),
    sink := SMap.get (s.region r).sinks x {}, nodes := (s.region r).nodes.filter fun n => n.2.owner == some x, tiles := tiles,
    bytes := tiles.flatMap fun t => s.tileContents r t.2, mark := s.resMark r x p (0, 9) }

/-- A context emptied, with its tile-table entries, its sori and its sink given up. -/
def State.vacate (s : State) (r x : Nat) : State :=
  (((s.emptyCtx r x).dropTiles r x).releaseSori r x true).updRegion r fun g => { g with sinks := SMap.set g.sinks x {} }

theorem State.ctx_vacate (s : State) (r x c : Nat) :
    (s.vacate r x).ctx c = if regionOf c = r ∧ ctxOf c = x then { regs := { fstat := (s.ctx c).regs.fstat } } else s.ctx c :=
  s.ctx_emptyCtx r x c

theorem State.vacate_mem (s : State) (r x : Nat) : (s.vacate r x).mem = s.mem := rfl

theorem State.launch_vacate (s : State) (r x lid : Nat) : (s.vacate r x).launch lid = s.launch lid := rfl

theorem State.find_res_vacate (s : State) (r x : Nat) : SMap.find ((s.vacate r x).region r).res x = none := by
  simp only [State.vacate, State.releaseSori, State.dropTiles, State.emptyCtx, State.region_updRegion_self, SMap.find_del, if_true]

/-- The machine once a context is saved and empty, before its launch leaves its regions. -/
def State.saveAway (s : State) (r x : Nat) (p : Resident) : State :=
  let tiles := (s.region r).tiles.filter fun t => t.2.owner == x
  (((s.tilesMet p.lid p.asid r (tiles.map Prod.snd)).vacate r x).updLaunch p.lid fun l => { l with saved := l.saved ++ [s.savedOf r x p] }).addDeadline
    (mkCid r 0 x) 0 0 [] (moveCycles ((tiles.map fun t => t.2.bytes).foldl (· + ·) 0))

/-- A context that has quiesced, and whose tiles nothing freezes, is saved; its launch leaves its regions if it has no other. -/
theorem execEvictionSave_saves {s : State} {r x : Nat} {p : Resident} (hp : SMap.find (s.region r).res x = some p)
    (hphase : p.phase = .evicting) (hquiet : s.quiesced r x p = true)
    (hopen : ∀ y ∈ (s.region r).tiles, y.2.owner = x → s.vaultOpen r y.2.offset y.2.bytes = true) :
    execEvictionSave r x s
      = .next (if ((s.saveAway r x p).residentsOf p.lid).isEmpty then (s.saveAway r x p).leaveRegions p.lid else s.saveAway r x p) := by
  have hall : ((s.region r).tiles.filter fun t => t.2.owner == x).all (fun t => s.vaultOpen r t.2.offset t.2.bytes) = true := by
    simp only [List.all_eq_true, List.mem_filter, beq_iff_eq]
    exact fun y hy => hopen y hy.1 hy.2
  simp only [execEvictionSave, hp]
  rw [if_neg (by simp [hphase, hquiet, hall])]
  rfl

@[simp] theorem State.ctx_addDeadline (s : State) (c fcount : Nat) (key : Dword) (pas : List Nat) (n d : Nat) :
    (s.addDeadline c fcount key pas n).ctx d = s.ctx d := rfl
@[simp] theorem State.addDeadline_mem (s : State) (c fcount : Nat) (key : Dword) (pas : List Nat) (n : Nat) :
    (s.addDeadline c fcount key pas n).mem = s.mem := rfl
@[simp] theorem State.region_addDeadline (s : State) (c fcount : Nat) (key : Dword) (pas : List Nat) (n r : Nat) :
    (s.addDeadline c fcount key pas n).region r = s.region r := rfl
@[simp] theorem State.launch_addDeadline (s : State) (c fcount : Nat) (key : Dword) (pas : List Nat) (n lid : Nat) :
    (s.addDeadline c fcount key pas n).launch lid = s.launch lid := rfl

theorem State.saveAway_spec (s : State) (r x : Nat) (p : Resident) {l : Launch} (hl : s.launch p.lid = some l) :
    let t := s.saveAway r x p
    (∀ c, t.ctx c = if regionOf c = r ∧ ctxOf c = x then { regs := { fstat := (s.ctx c).regs.fstat } } else s.ctx c) ∧ t.mem = s.mem
      ∧ SMap.find (t.region r).res x = none ∧ t.launch p.lid = some { l with saved := l.saved ++ [s.savedOf r x p] } := by
  have hkeeps := s.tilesMet_keeps p.lid p.asid r (((s.region r).tiles.filter fun t => t.2.owner == x).map Prod.snd)
  simp only [State.saveAway]
  generalize s.tilesMet p.lid p.asid r (((s.region r).tiles.filter fun t => t.2.owner == x).map Prod.snd) = met at hkeeps ⊢
  simp only [Prod.mk.injEq] at hkeeps
  obtain ⟨hctxs, hmem, hsched⟩ := hkeeps
  have hctx (c : Nat) : met.ctx c = s.ctx c := by rw [State.ctx, hctxs, State.ctx]
  have hlaunch : (met.vacate r x).launch p.lid = some l := by rw [State.launch_vacate, State.launch, hsched]; exact hl
  refine ⟨fun c => ?_, ?_, ?_, ?_⟩
  · rw [State.ctx_addDeadline, State.ctx_updLaunch, State.ctx_vacate, hctx]
  · rw [State.addDeadline_mem, State.updLaunch_mem, State.vacate_mem, hmem]
  · rw [State.region_addDeadline, State.region_updLaunch, State.find_res_vacate]
  · rw [State.launch_addDeadline, State.launch_updLaunch_self _ hlaunch]

/-! ### The restore (R413) -/

/-- A saved context's resident and sink stand in its new place, the resident with its generators patched anew. -/
theorem State.restoreOne_region (s : State) (r x : Nat) (v : Saved) :
    ∃ gens, SMap.find ((s.restoreOne r x v).region r).res x = some { v.res with gens := gens }
      ∧ SMap.get ((s.restoreOne r x v).region r).sinks x {} = v.sink ∧ (v.res.gens = [] → gens = []) := by
  unfold State.restoreOne
  simp only [State.region_updRegion_self, SMap.find_set_self, SMap.get_set_self]
  refine ⟨_, rfl, trivial, fun h => ?_⟩
  rw [h]
  rfl

/-- The saved contexts of a configuration in place of whatever context x of region r held. -/
def State.placeCtxs (s : State) (r x : Nat) (l : SMap Ctx) : State :=
  l.foldl (fun s k => s.setCtx (mkCid r k.1 x) (k.2.replace (s.source (mkCid r k.1 x)).toNat)) (((s.releaseSori r x true).dropTiles r x).clearCtxs r x)

/-- Without generators to patch and bytes of tiles to write, a restore moves the contexts, and changes no launch. -/
theorem State.restoreOne_bare (s : State) (r x : Nat) {v : Saved} (hg : v.res.gens = []) (hb : v.bytes = []) :
    (s.restoreOne r x v).ctxs = (s.placeCtxs r x v.ctxs).ctxs ∧ (s.restoreOne r x v).pkg.sched = s.pkg.sched := by
  have hnodes (u : State) : ((v.nodes.foldl (fun s n => s.installNode r n.1 x n.2) u).ctxs, (v.nodes.foldl (fun s n => s.installNode r n.1 x n.2) u).pkg)
      = (u.ctxs, u.pkg) :=
    foldl_keeps_eq (fun u : State => (u.ctxs, u.pkg)) _ _ u fun _ _ => rfl
  have hpkg : (s.placeCtxs r x v.ctxs).pkg = s.pkg :=
    foldl_keeps_eq State.pkg (fun s (k : Nat × Ctx) => s.setCtx (mkCid r k.1 x) (k.2.replace (s.source (mkCid r k.1 x)).toNat)) v.ctxs _ fun _ _ => rfl
  have hplaced := Prod.mk.inj (hnodes (s.placeCtxs r x v.ctxs))
  simp only [State.restoreOne, hg, hb, State.patchAll, List.foldl_nil, State.updRegion_ctxs, State.updRegion_pkg]
  exact ⟨hplaced.1, (congrArg Pkg.sched hplaced.2).trans (congrArg Pkg.sched hpkg)⟩

theorem State.ctx_placeCtxs_ne (s : State) (r x : Nat) (l : SMap Ctx) {c : Nat} (h : ∀ k ∈ l, c ≠ mkCid r k.1 x) :
    (s.placeCtxs r x l).ctx c = if regionOf c = r ∧ ctxOf c = x then {} else s.ctx c :=
  (State.ctx_foldl_setCtx_ne (fun k : Nat × Ctx => mkCid r k.1 x) (fun src k => k.2.replace src.toNat) l _ c h).trans (State.ctx_clearCtxs _ r x c)

theorem State.ctx_placeCtxs_mem (s : State) (r x : Nat) {l : SMap Ctx} (hl : (l.map Prod.fst).Nodup) {k : Nat × Ctx} (hk : k ∈ l) :
    (s.placeCtxs r x l).ctx (mkCid r k.1 x) = k.2.replace (s.source (mkCid r k.1 x)).toNat := by
  have hne (a b : Nat) (hab : a ≠ b) : mkCid r a x ≠ mkCid r b x := by
    simp only [mkCid]
    omega
  have hcids : (l.map fun k : Nat × Ctx => mkCid r k.1 x).Nodup := by
    have h : ((l.map Prod.fst).map fun e => mkCid r e x).Nodup := List.Pairwise.map _ hne hl
    rw [List.map_map] at h
    exact h
  exact State.ctx_foldl_setCtx_mem (fun k : Nat × Ctx => mkCid r k.1 x) (fun src k => k.2.replace src.toNat) l _ hcids hk

/-- A restore of one saved context waits while its region may not be swapped or a frozen frame keeps its bytes out. -/
theorem execRestore_waits {s : State} {lid : Nat} {l : Launch} {v : Saved} {q : RegSeq} (hl : s.launch lid = some l) (hs : l.saved = [v])
    (hq : SMap.find l.seqs v.g = some q)
    (hwait : s.maySwap q.region = false ∨ ∃ b ∈ v.bytes, s.vaultOpen q.region b.1 b.2.length = false) : execRestore lid s = .next s := by
  have hready : (s.maySwap q.region && v.bytes.all fun b => s.vaultOpen q.region b.1 b.2.length) = false := by
    rcases hwait with hswap | ⟨b, hb, hshut⟩
    · rw [hswap, Bool.false_and]
    · rw [List.all_eq_false.mpr ⟨b, hb, by rw [hshut]; exact Bool.false_ne_true⟩, Bool.and_false]
  simp only [execRestore, hl, hs, List.all_cons, List.all_nil, hq, hready]
  simp

/-- The one saved context of a launch is reinstated, and the launch has nothing saved any more. -/
theorem execRestore_restores {s : State} {lid : Nat} {l : Launch} {v : Saved} {q : RegSeq} (hl : s.launch lid = some l) (hst : l.st = .loaded)
    (hev : l.evicted = true) (hs : l.saved = [v]) (hq : SMap.find l.seqs v.g = some q) (hswap : s.maySwap q.region = true)
    (hopen : ∀ b ∈ v.bytes, s.vaultOpen q.region b.1 b.2.length = true) :
    execRestore lid s = .next ((s.restoreOne q.region q.x v).updLaunch lid fun l => { l with saved := [], evicted := false }) := by
  have hready : (v.bytes.all fun b => s.vaultOpen q.region b.1 b.2.length) = true := List.all_eq_true.mpr hopen
  simp only [execRestore, hl, hst, hev, hs, List.all_cons, List.all_nil, hq, hswap, hready, List.foldl_cons, List.foldl_nil]
  simp

/-! ### O51 -/

/-- Settles O51: each event by the lemma that says what it does. -/
theorem completionAndEviction : Obligations.CompletionAndEviction := by
  unfold Obligations.CompletionAndEviction
  intro s
  refine ⟨?completion, ?eviction, ?save, ?restore⟩
  case completion =>
    intro lid l hl hdone
    refine ⟨fun _ => execLaunchCompletion_waits hl, fun e hpos hall hheld => execLaunchCompletion_found hl hdone hpos hall hheld,
      execLaunchCompletion_refused hl hdone, fun hpos hall hheld hsound href => ?record, s.launch_endLaunch lid l,
      fun _ => execCompletionReport_reported hl, fun hpos hrep => ?report⟩
    case record =>
      have h := execLaunchCompletion_ends hl hdone hpos hall hheld hsound href
      simp only [Launch.verdict_code, Launch.verdict_flags] at h
      exact h
    case report =>
      have h := execCompletionReport_reports hl hdone hpos hrep
      simp only [Launch.verdict_code, Launch.verdict_flags] at h
      exact h
  case eviction =>
    intro r x p hp hgo
    let marked := s.updRegion r fun g => { g with res := SMap.set g.res x { p with phase := .evicting } }
    have hkeeps := marked.foldl_injectCtx_keeps r x p.cfg.elems
    simp only [Prod.mk.injEq] at hkeeps
    obtain ⟨hmem, hreqs, hregions⟩ := hkeeps
    refine ⟨_, execEviction_evicts hp hgo, hmem, hreqs, ?_, fun e j o helems hu ha => ?_⟩
    · rw [State.region, hregions, ← State.region, State.region_updRegion_self, SMap.find_set_self]
    · have hctx := State.ctx_injectCtx (s := marked) hu ha
      dsimp only
      rw [helems, List.foldl_cons, List.foldl_nil, hctx]
      exact ⟨SMap.find_set_self _ _ _, SMap.get_set_self _ _ _ _⟩
  case save =>
    intro r x p l hp hphase hquiet hl hopen
    obtain ⟨hctx, hmem, hres, hlaunch⟩ := s.saveAway_spec r x p hl
    have hexec := execEvictionSave_saves hp hphase hquiet hopen
    by_cases hlast : (s.saveAway r x p).residentsOf p.lid = []
    · obtain ⟨hctxs, hmem', hres', hnone, m, hm, hst, hev, hsaved⟩ := State.leaveRegions_spec hlaunch r hlast
      rw [if_pos (List.isEmpty_iff.mpr hlast)] at hexec
      have hctx' (c : Nat) : ((s.saveAway r x p).leaveRegions p.lid).ctx c = (s.saveAway r x p).ctx c := by rw [State.ctx, hctxs, State.ctx]
      exact ⟨_, m, s.savedOf r x p, hexec, hmem'.trans hmem, (congrArg (SMap.find · x) hres').trans hres, fun c => (hctx' c).trans (hctx c), hm, hsaved,
        rfl, rfl, rfl, rfl, rfl, rfl, rfl, fun _ => ⟨hst, hev⟩, fun h => absurd hnone h⟩
    · rw [if_neg (mt List.isEmpty_iff.mp hlast)] at hexec
      exact ⟨_, _, s.savedOf r x p, hexec, hmem, hres, hctx, hlaunch, rfl, rfl, rfl, rfl, rfl, rfl, rfl, rfl,
        fun h => absurd h hlast, fun _ => ⟨rfl, rfl⟩⟩
  case restore =>
    intro lid l v q hl hst hev hs hq hnodup
    refine ⟨fun hwait => execRestore_waits hl hs hq hwait, fun k n => ⟨rfl, rfl, rfl, rfl, rfl, rfl, rfl⟩, fun hswap hopen => ?_⟩
    obtain ⟨gens, hres, hsink, hgens⟩ := s.restoreOne_region q.region q.x v
    refine ⟨_, { v.res with gens := gens }, execRestore_restores hl hst hev hs hq hswap hopen, ?_, rfl, ?_, fun hg hb => ?_⟩
    · rw [State.region_updLaunch, hres]
    · rw [State.region_updLaunch, hsink]
    · obtain ⟨hctxs, hsched⟩ := s.restoreOne_bare q.region q.x hg hb
      have hctx (c : Nat) : ((s.restoreOne q.region q.x v).updLaunch lid fun l => { l with saved := [], evicted := false }).ctx c
          = (s.placeCtxs q.region q.x v.ctxs).ctx c := by
        rw [State.ctx_updLaunch, State.ctx, hctxs, State.ctx]
      have hlaunch : (s.restoreOne q.region q.x v).launch lid = some l := by rw [State.launch, hsched]; exact hl
      exact ⟨hgens hg, State.launch_updLaunch_self _ hlaunch, fun k hk => (hctx _).trans (s.ctx_placeCtxs_mem _ _ hnodup hk),
        fun c hc => (hctx c).trans (s.ctx_placeCtxs_ne _ _ _ hc)⟩

end Sys2Proof.Machine

/-! SUPPORT. Why O55 fails, and the words of O56. PSORT's entry has a literal word of its own, so that the decoder refuses specifier 30 as its source
(R56); the loader's check of PSORT's source refuses an x register only. PSORT of the literal therefore passes for well-formed, and no words give it
back. -/

namespace Sys2Proof

/-- PSORT of the literal into group 0 of sorus 0. -/
def psortOfLiteral : Instr := .psort .null (.lit 0) 0 0

theorem psortOfLiteral_wf : psortOfLiteral.wf = true := by decide

theorem encode_psortOfLiteral : encode 0 psortOfLiteral = some (0x01E79E00#32, some 0xFC000000#32) := by decide

/-- Specifier 30 in an entry with its own literal word is BADSPEC at the source's field (R56). -/
theorem decode_psortOfLiteral : decode 0x01E79E00#32 (some 0xFC000000#32) = .error ⟨5, 8⟩ := rfl

/-- Refutes O55: the words of a well-formed PSORT of the literal are refused with BADSPEC. -/
theorem not_encodeDecodeAgree : ¬ Obligations.EncodeDecodeAgree := by
  unfold Obligations.EncodeDecodeAgree
  rintro ⟨hreads, -⟩
  obtain ⟨hback, -⟩ := hreads 0 psortOfLiteral _ _ psortOfLiteral_wf encode_psortOfLiteral
  have hrefused := hback.symm.trans decode_psortOfLiteral
  exact nomatch hrefused

/-- Settles O56: each word is decoded; an unassigned opcode is refused before any other field or the next word is looked at. -/
theorem printedWordsDecode : Obligations.PrintedWordsDecode := by
  unfold Obligations.PrintedWordsDecode
  refine ⟨rfl, rfl, rfl, rfl, rfl, rfl, rfl, rfl, rfl, rfl, rfl, rfl, rfl, rfl, rfl, fun op hop nx => ?unassigned⟩
  case unassigned =>
    simp only [List.mem_cons, List.not_mem_nil, or_false] at hop
    rcases hop with rfl | rfl | rfl | rfl | rfl | rfl | rfl | rfl | rfl | rfl | rfl | rfl | rfl | rfl | rfl | rfl <;> rfl

end Sys2Proof

/-! SUPPORT. What each source yields (R35, R36, R85, R89, R115), said once for each kind of source, and what MOV, MOVI, LIT and SEL write (R103 to
R106). -/

namespace Sys2Proof

/-! ### Lanes read back -/

theorem Vec.get_gen (f : Nat → Word) {k : Nat} (hk : k < 192) : (Vec.gen f).get k = f k := by
  simp only [Vec.get, Vec.gen, List.getD_eq_getElem?_getD, List.getElem?_map, List.getElem?_range hk, Option.map_some, Option.getD_some]

theorem Vec.get_splat (w : Word) {k : Nat} (hk : k < 192) : (Vec.splat w).get k = w := by
  simp only [Vec.get, Vec.splat, List.getD_eq_getElem?_getD, List.getElem?_replicate, hk, if_true, Option.getD_some]

/-! ### Fields and their numbers -/

theorem ofNat_mul_add_eq_append {m n : Nat} (hi : BitVec m) (lo : BitVec n) :
    BitVec.ofNat (m + n) (hi.toNat * 2 ^ n + lo.toNat) = hi ++ lo := by
  have happend : (hi ++ lo).toNat = hi.toNat * 2 ^ n + lo.toNat := by
    rw [BitVec.toNat_append, ← Nat.shiftLeft_add_eq_or_of_lt lo.isLt, Nat.shiftLeft_eq]
  rw [← happend, BitVec.ofNat_toNat, BitVec.setWidth_eq]

theorem fld_eq_toNat {n : Nat} (w : BitVec n) (hi lo : Nat) : fld w hi lo = (w.extractLsb' lo (hi + 1 - lo)).toNat := by
  rw [fld, bitsN, BitVec.extractLsb'_toNat, Nat.shiftRight_eq_div_pow]

theorem signedN_toNat {n : Nat} (x : BitVec (n + 1)) : signedN (n + 1) x.toNat = x.toInt := by
  have hlt := x.isLt
  rw [signedN, Nat.mod_eq_of_lt hlt, BitVec.toInt_eq_toNat_cond, Nat.add_sub_cancel]
  have hiff : x.toNat < 2 ^ n ↔ 2 * x.toNat < 2 ^ (n + 1) := by rw [Nat.pow_succ]; omega
  simp only [hiff, Int.natCast_pow, Int.cast_ofNat_Int]

end Sys2Proof

namespace Sys2Proof.Machine

/-! ### The literal (R35) -/

/-- L by its form: zero-extended, sign-extended, the high bits of a word, one half twice. -/
theorem litVal_eq (w : BitVec 26) :
    let lv := w.extractLsb' 0 24
    let lf := w.extractLsb' 24 2
    litVal w = if lf = 0 then lv.setWidth 32 else if lf = 1 then lv.signExtend 32 else if lf = 2 then lv ++ 0#8
      else w.extractLsb' 0 16 ++ w.extractLsb' 0 16 := by
  intro lv lf
  have hlv : fld w 23 0 = lv.toNat := fld_eq_toNat w 23 0
  have hlf : fld w 25 24 = lf.toNat := fld_eq_toNat w 25 24
  have hform0 : lf.toNat = 0 ↔ lf = 0 := BitVec.toNat_inj (y := 0#2)
  have hform1 : lf.toNat = 1 ↔ lf = 1 := BitVec.toNat_inj (y := 1#2)
  have hform2 : lf.toNat = 2 ↔ lf = 2 := BitVec.toNat_inj (y := 2#2)
  have hhalf : lv.toNat % 65536 = (w.extractLsb' 0 16).toNat := by
    simp only [lv, BitVec.extractLsb'_toNat]
    omega
  have hzero : BitVec.ofNat 32 lv.toNat = lv.setWidth 32 := BitVec.ofNat_toNat 32 lv
  have hsign : BitVec.ofInt 32 (signedN 24 lv.toNat) = lv.signExtend 32 := congrArg (BitVec.ofInt 32) (signedN_toNat lv)
  have hhigh : BitVec.ofNat 32 (lv.toNat * 256) = lv ++ 0#8 := by
    simpa only [BitVec.toNat_ofNat, Nat.zero_mod, Nat.add_zero, Nat.reducePow] using ofNat_mul_add_eq_append lv 0#8
  have htwice (h : BitVec 16) : BitVec.ofNat 32 (h.toNat * 65536 + h.toNat) = h ++ h := ofNat_mul_add_eq_append h h
  simp only [litVal, hlv, hlf, hform0, hform1, hform2, hhalf, hzero, hsign, hhigh, htwice]

/-! ### Heads (R85, R89, R115) -/

theorem Token.vec_of_lanes {t : Token} (hkind : t.kind = kDATA) (hsc : t.sc = false) : t.vec = t.lanes := by
  simp only [Token.vec, hkind, hsc, true_or, if_true, Bool.false_eq_true, if_false]

theorem Token.sca_of_lanes {t : Token} (hkind : t.kind = kDATA) (hsc : t.sc = false) : t.sca = t.lanes.get 1 ++ t.lanes.get 0 := by
  rw [← ofNat_mul_add_eq_append]
  simp only [Token.sca, hkind, hsc, true_or, if_true, Bool.false_eq_true, if_false]

theorem Token.vec_of_scalar {t : Token} (hkind : t.kind = kDATA ∨ t.kind = kMARK) (hsc : t.sc = true) :
    t.vec = Vec.splat (t.scalar.setWidth 32) := by
  rw [Token.vec, if_pos hkind, if_pos hsc]

theorem Token.sca_of_scalar {t : Token} (hkind : t.kind = kDATA ∨ t.kind = kMARK) (hsc : t.sc = true) : t.sca = t.scalar := by
  rw [Token.sca, if_pos hkind, if_pos hsc]

/-- EOS and DRAIN carry no payload. -/
theorem not_payload_of_end {k : BitVec 3} (hkind : k = kEOS ∨ k = kDRAIN) : ¬ (k = kDATA ∨ k = kMARK) := by
  rcases hkind with rfl | rfl <;> decide

theorem Token.vec_of_end {t : Token} (hkind : t.kind = kEOS ∨ t.kind = kDRAIN) : t.vec = ⟨[]⟩ :=
  if_neg (not_payload_of_end hkind)

theorem Token.sca_of_end {t : Token} (hkind : t.kind = kEOS ∨ t.kind = kDRAIN) : t.sca = 0 :=
  if_neg (not_payload_of_end hkind)

theorem State.srcVal_inp_of_lanes {s : State} {k : BitVec 3} (d : Dst) (hsc : (s.head k.toNat).sc = false) :
    s.srcVal d (.inp k) = .vec (s.head k.toNat).vec := by
  simp only [State.srcVal, hsc, Bool.false_eq_true, if_false]

theorem State.srcVal_inp_of_scalar {s : State} {k : BitVec 3} (d : Dst) (hsc : (s.head k.toNat).sc = true) :
    s.srcVal d (.inp k) = .sca (s.head k.toNat).sca := by
  simp only [State.srcVal, hsc, if_true]

/-! ### Firings with no poison on a source -/

/-- The one-bit modifier of MOV and SEL in its three-bit field. -/
theorem setWidth_beq_one (m : BitVec 1) : (m.setWidth 3 == (1 : BitVec 3)) = decide (m = 1) := by
  revert m
  decide

theorem State.gives_mov {s : State} {a : Src} {d : Dst} {val : Val} (h : s.poisoned [a] = none) (hval : s.srcVal d a = val) (m : BitVec 1) :
    s.Gives (.mov d a (m.setWidth 3)) 1 (s.write d val (if m = 1 then Mask.full else s.my.regs.mask)) := by
  refine State.gives_of_finish ?_
  show execMov d a _ s = _
  simp only [execMov, h, hval, State.maskFor, setWidth_beq_one, decide_eq_true_eq]

theorem State.gives_lit (s : State) (d : Dst) (zx : BitVec 1) (hi : BitVec 8) (lo : BitVec 24) :
    s.Gives (.lit d zx hi lo) 1
      (s.write d (if isScalar d then .sca (if zx = 1 then (hi ++ lo).setWidth 64 else (hi ++ lo).signExtend 64)
        else .vec (Vec.splat (hi ++ lo))) s.my.regs.mask) := by
  have hword : BitVec.ofNat 32 (hi.toNat * 2 ^ 24 + lo.toNat) = hi ++ lo := ofNat_mul_add_eq_append hi lo
  refine State.gives_of_finish ?_
  show execLit d zx hi lo s = _
  simp only [execLit, hword]

/-- The lanes that SEL writes (R106). -/
def State.blend (s : State) (d : Dst) (a b : Src) (n : BitVec 1) : Vec :=
  Vec.gen fun k => if s.my.regs.mask.getLsbD k = (n == 0) then (s.srcVal d a).lanes.get k else (s.srcVal d b).lanes.get k

theorem State.gives_sel {s : State} {a b : Src} (h : s.poisoned [a, b] = none) (d : Dst) (n : BitVec 1) :
    s.Gives (.sel d a b (n.setWidth 3)) 1 (s.write d (.vec (s.blend d a b n)) Mask.full) := by
  have hside (bit : Bool) : (bit != decide (n = 1)) = decide (bit = (n == 0)) := by
    revert n bit
    decide
  refine State.gives_of_finish ?_
  show execSel d a b _ s = _
  simp only [execSel, h, State.blend, setWidth_beq_one, hside, decide_eq_true_eq]

/-! ### O3 -/

/-- Settles O3: the firings by their lemmas, then each kind of source by what it yields. -/
theorem movesAndConstants : Obligations.MovesAndConstants := by
  unfold Obligations.MovesAndConstants
  refine ⟨fun s a m hclean => ?mov, fun s d => ⟨fun n => State.gives_of_finish rfl, fun hi lo => ⟨s.gives_lit d 0 hi lo, s.gives_lit d 1 hi lo⟩,
    fun a b n hclean => ⟨s.blend d a b n, fun k hk => Vec.get_gen _ hk, State.gives_sel hclean d n⟩, fun k => ⟨rfl, rfl⟩,
    ⟨⟨_, rfl, rfl, fun j hj => Vec.get_gen _ hj⟩, fun k => ⟨rfl, rfl, fun j hj => Vec.get_splat _ hj⟩, ⟨rfl, rfl, fun j hj => rfl⟩,
      fun w => ?literal, fun k => ?head⟩,
    fun g m v j hj => Vec.get_gen _ hj⟩⟩
  case mov =>
    refine ⟨State.gives_mov hclean rfl m, fun k v hv => State.gives_mov hclean hv m, fun k w hw => State.gives_mov hclean hw m, fun k v hv => ?_,
      fun k w hw => State.gives_mov hclean hw m, fun k v hv => State.gives_mov hclean hv m, fun k w hw => State.gives_mov hclean hw m⟩
    rw [← ofNat_mul_add_eq_append]
    exact State.gives_mov hclean hv m
  case literal =>
    intro lv lf l
    have hl : litVal w = l := litVal_eq w
    rw [← hl]
    exact ⟨rfl, rfl, fun j hj => Vec.get_splat _ hj⟩
  case head =>
    intro h
    refine ⟨fun hkind hsc => ?lanes, fun hkind hsc => ?scalar, fun hkind => ⟨Token.sca_of_end hkind, fun j _ => ?ended⟩⟩
    case lanes =>
      exact ⟨(State.srcVal_inp_of_lanes d hsc).trans (congrArg Val.vec (Token.vec_of_lanes hkind hsc)), Token.vec_of_lanes hkind hsc,
        Token.sca_of_lanes hkind hsc⟩
    case scalar =>
      refine ⟨(State.srcVal_inp_of_scalar d hsc).trans (congrArg Val.sca (Token.sca_of_scalar hkind hsc)), Token.sca_of_scalar hkind hsc,
        fun j hj => ?_⟩
      exact (congrArg (Vec.get · j) (Token.vec_of_scalar hkind hsc)).trans (Vec.get_splat _ hj)
    case ended => exact congrArg (Vec.get · j) (Token.vec_of_end hkind)

end Sys2Proof.Machine

/-! SUPPORT. Sums and products as operations of words of any width (R118, R119): an exact result narrowed once is the word of an integer. What
holds of an integer instruction's operation at every width holds of its two shapes (R114). -/

namespace Sys2Proof

/-! ### Words and their numbers -/

theorem ofNat_toNat_self {w : Nat} (x : BitVec w) : BitVec.ofNat w x.toNat = x := (BitVec.ofNat_toNat w x).trans (BitVec.setWidth_eq x)

theorem ofInt_toNat {w : Nat} (x : BitVec w) : BitVec.ofInt w x.toNat = x := (BitVec.ofInt_natCast w x.toNat).trans (ofNat_toNat_self x)

theorem int_two_pow_pos (w : Nat) : (0 : Int) < 2 ^ w := Int.pow_pos (by decide)

theorem ofNat_toNat_emod (w : Nat) (e : Int) : BitVec.ofNat w (e % 2 ^ w).toNat = BitVec.ofInt w e := by
  apply BitVec.eq_of_toNat_eq
  have hlt : (e % 2 ^ w).toNat < 2 ^ w := by
    rw [Int.toNat_lt (Int.emod_nonneg e (Int.ne_of_gt (int_two_pow_pos w))), Int.natCast_pow, Int.cast_ofNat_Int]
    exact Int.emod_lt_of_pos e (int_two_pow_pos w)
  rw [BitVec.toNat_ofNat, BitVec.toNat_ofInt, Nat.mod_eq_of_lt hlt, Int.natCast_pow, Int.cast_ofNat_Int]

theorem ofNat_toNat_of_nonneg (w : Nat) {e : Int} (he : 0 ≤ e) : BitVec.ofNat w e.toNat = BitVec.ofInt w e := by
  rw [← BitVec.ofInt_natCast, Int.toNat_of_nonneg he]

theorem ofInt_sub (w : Nat) (x y : Int) : BitVec.ofInt w (x - y) = BitVec.ofInt w x - BitVec.ofInt w y := by
  rw [Int.sub_eq_add_neg, BitVec.ofInt_add, BitVec.ofInt_neg, BitVec.sub_eq_add_neg]

theorem two_pow_sub_one_nonneg (w : Nat) : (0 : Int) ≤ 2 ^ w - 1 := Int.sub_nonneg_of_le (int_two_pow_pos w)

theorem clampI_zero_nonneg {hi : Int} (hhi : 0 ≤ hi) (e : Int) : 0 ≤ clampI 0 hi e := by
  unfold clampI
  split
  · exact Int.le_refl 0
  · split <;> omega

end Sys2Proof

namespace Sys2Proof.Machine

/-! ### Exact results narrowed once (R118) -/

/-- The word of w bits to which signed saturation narrows an exact result (.SS of R118). -/
def signedSat (w : Nat) (e : Int) : BitVec w := BitVec.ofInt w (clampI (-(2 ^ (w - 1))) (2 ^ (w - 1) - 1) e)

/-- The word of w bits to which unsigned saturation narrows an exact result (.US of R118). -/
def unsignedSat (w : Nat) (e : Int) : BitVec w := BitVec.ofInt w (clampI 0 (2 ^ w - 1) e)

theorem ofNat_narrow_wrap (w : Nat) (e : Int) : BitVec.ofNat w (narrow w 0 e) = BitVec.ofInt w e := ofNat_toNat_emod w e

theorem ofNat_narrow_signed (w : Nat) (e : Int) : BitVec.ofNat w (narrow w 1 e) = signedSat w e := ofNat_toNat_emod w _

theorem ofNat_narrow_unsigned (w : Nat) (e : Int) : BitVec.ofNat w (narrow w 2 e) = unsignedSat w e :=
  ofNat_toNat_of_nonneg w (clampI_zero_nonneg (two_pow_sub_one_nonneg w) e)

theorem readAs_signed {n : Nat} (x : BitVec (n + 1)) : readAs (n + 1) 1 x.toNat = x.toInt := signedN_toNat x

theorem readAs_unsigned {w m : Nat} (hm : m ≠ 1) (x : BitVec w) : readAs w m x.toNat = x.toNat := by
  rw [readAs, if_neg hm, Nat.mod_eq_of_lt x.isLt]

/-! ### An integer instruction by its operation at every width (R114) -/

theorem State.givesInt1_of_width {s : State} {i : Instr} {d : Dst} {a : Src} {lv ls : Nat} (g : Nat → Nat → Nat)
    {f : (w : Nat) → BitVec w → BitVec w} (h : exec i s = s.int1 lv ls d a g) (hp : s.poisoned [a] = none)
    (hg : ∀ (n : Nat) (x : BitVec (n + 1)), BitVec.ofNat (n + 1) (g (n + 1) x.toNat) = f (n + 1) x) : s.GivesInt1 i d a lv ls f :=
  State.givesInt1_of h hp (hg 31) (hg 63)

theorem State.givesInt2_of_width {s : State} {i : Instr} {d : Dst} {a b : Src} {lv ls : Nat} (g : Nat → Nat → Nat → Nat)
    {f : (w : Nat) → BitVec w → BitVec w → BitVec w} (h : exec i s = s.int2 lv ls d a b g) (hp : s.poisoned [a, b] = none)
    (hg : ∀ (n : Nat) (x y : BitVec (n + 1)), BitVec.ofNat (n + 1) (g (n + 1) x.toNat y.toNat) = f (n + 1) x y) : s.GivesInt2 i d a b lv ls f :=
  State.givesInt2_of h hp (hg 31) (hg 63)

theorem State.givesInt3_of_width {s : State} {i : Instr} {d : Dst} {a b : Src} {lv ls : Nat} (g : Nat → Nat → Nat → Nat → Nat)
    {f : (w : Nat) → BitVec w → BitVec w → BitVec w → BitVec w} (h : exec i s = s.int3 lv ls d a b g) (hp : s.poisoned [a, b] = none)
    (hg : ∀ (n : Nat) (z x y : BitVec (n + 1)), BitVec.ofNat (n + 1) (g (n + 1) z.toNat x.toNat y.toNat) = f (n + 1) z x y) :
    s.GivesInt3 i d a b lv ls f :=
  State.givesInt3_of h hp (hg 31) (hg 63)

/-! ### Sums and products (R118, R119) -/

section
variable {n : Nat}

/-- A saturating operation, whose exact result is an expression `e` of its operands as integers, reads every one of them as signed (.SS). -/
theorem narrow_of_signed (e : (BitVec (n + 1) → Int) → Int) :
    BitVec.ofNat (n + 1) (narrow (n + 1) 1 (e fun v => readAs (n + 1) 1 v.toNat)) = signedSat (n + 1) (e BitVec.toInt) := by
  simp only [ofNat_narrow_signed, readAs_signed]

/-- The same for unsigned saturation (.US). -/
theorem narrow_of_unsigned (e : (BitVec (n + 1) → Int) → Int) :
    BitVec.ofNat (n + 1) (narrow (n + 1) 2 (e fun v => readAs (n + 1) 2 v.toNat)) = unsignedSat (n + 1) (e fun v => v.toNat) := by
  simp only [ofNat_narrow_unsigned, readAs_unsigned (m := 2) (by decide)]

variable (z x y : BitVec (n + 1))

theorem addOp_wrap : BitVec.ofNat (n + 1) (addOp 0 (n + 1) x.toNat y.toNat) = x + y := by
  simp only [addOp, ofNat_narrow_wrap, readAs_unsigned Nat.zero_ne_one, BitVec.ofInt_add, ofInt_toNat]

theorem subOp_wrap : BitVec.ofNat (n + 1) (subOp 0 (n + 1) x.toNat y.toNat) = x - y := by
  simp only [subOp, ofNat_narrow_wrap, readAs_unsigned Nat.zero_ne_one, ofInt_sub, ofInt_toNat]

theorem mulOp_wrap : BitVec.ofNat (n + 1) (mulOp 0 (n + 1) x.toNat y.toNat) = x * y := by
  simp only [mulOp, ofNat_narrow_wrap, readAs_unsigned Nat.zero_ne_one, BitVec.ofInt_mul, ofInt_toNat]

theorem madOp_wrap : BitVec.ofNat (n + 1) (madOp 0 (n + 1) z.toNat x.toNat y.toNat) = z + x * y := by
  simp only [madOp, ofNat_narrow_wrap, readAs_unsigned Nat.zero_ne_one, BitVec.ofInt_add, BitVec.ofInt_mul, ofInt_toNat]

theorem mulhOp_signed :
    BitVec.ofNat (n + 1) (mulhOp 0 (n + 1) x.toNat y.toNat) = BitVec.ofInt (n + 1) (x.toInt * y.toInt / 2 ^ (n + 1)) := by
  simp only [mulhOp, ofNat_toNat_emod, signedN_toNat, Nat.zero_ne_one, if_false, if_true]

theorem mulhOp_unsigned :
    BitVec.ofNat (n + 1) (mulhOp 1 (n + 1) x.toNat y.toNat) = BitVec.ofNat (n + 1) (x.toNat * y.toNat / 2 ^ (n + 1)) := by
  simp only [mulhOp, ofNat_toNat_emod, Nat.one_ne_zero, if_false, if_true]
  rw [← BitVec.ofInt_natCast]
  push_cast
  rfl

theorem mulhOp_mixed :
    BitVec.ofNat (n + 1) (mulhOp 2 (n + 1) x.toNat y.toNat) = BitVec.ofInt (n + 1) (x.toInt * y.toNat / 2 ^ (n + 1)) := by
  have hone : (2 : Nat) ≠ 1 := by decide
  have hzero : (2 : Nat) ≠ 0 := by decide
  simp only [mulhOp, ofNat_toNat_emod, signedN_toNat, hone, hzero, if_false]

end

theorem narrow_add_signExtend {n : Nat} (x : BitVec (n + 1)) (i : BitVec 8) :
    BitVec.ofNat (n + 1) (narrow (n + 1) 0 ((x.toNat : Int) + i.toInt)) = x + i.signExtend (n + 1) := by
  rw [ofNat_narrow_wrap, BitVec.ofInt_add, ofInt_toNat, BitVec.signExtend]

/-! ### O7 -/

/-- Settles O7: every operation by its lemma, at both widths. -/
theorem integerSums : Obligations.IntegerSums := by
  unfold Obligations.IntegerSums
  intro s d a b hab ha ss us nat
  refine ⟨?add, ?addSigned, ?addUnsigned, ?sub, ?subSigned, ?subUnsigned, ?mul, ?mulSigned, ?mulUnsigned, ?mad, ?madSigned, ?madUnsigned,
    ?mulhSigned, ?mulhUnsigned, ?mulhMixed, fun i => ?addi⟩
  case add => exact State.givesInt2_of_width (addOp 0) rfl hab fun n => addOp_wrap
  case addSigned => exact State.givesInt2_of_width (addOp 1) rfl hab fun n x y => narrow_of_signed fun r => r x + r y
  case addUnsigned => exact State.givesInt2_of_width (addOp 2) rfl hab fun n x y => narrow_of_unsigned fun r => r x + r y
  case sub => exact State.givesInt2_of_width (subOp 0) rfl hab fun n => subOp_wrap
  case subSigned => exact State.givesInt2_of_width (subOp 1) rfl hab fun n x y => narrow_of_signed fun r => r x - r y
  case subUnsigned => exact State.givesInt2_of_width (subOp 2) rfl hab fun n x y => narrow_of_unsigned fun r => r x - r y
  case mul => exact State.givesInt2_of_width (mulOp 0) rfl hab fun n => mulOp_wrap
  case mulSigned => exact State.givesInt2_of_width (mulOp 1) rfl hab fun n x y => narrow_of_signed fun r => r x * r y
  case mulUnsigned => exact State.givesInt2_of_width (mulOp 2) rfl hab fun n x y => narrow_of_unsigned fun r => r x * r y
  case mad => exact State.givesInt3_of_width (madOp 0) rfl hab fun n => madOp_wrap
  case madSigned => exact State.givesInt3_of_width (madOp 1) rfl hab fun n z x y => narrow_of_signed fun r => r z + r x * r y
  case madUnsigned => exact State.givesInt3_of_width (madOp 2) rfl hab fun n z x y => narrow_of_unsigned fun r => r z + r x * r y
  case mulhSigned => exact State.givesInt2_of_width (mulhOp 0) rfl hab fun n => mulhOp_signed
  case mulhUnsigned => exact State.givesInt2_of_width (mulhOp 1) rfl hab fun n => mulhOp_unsigned
  case mulhMixed => exact State.givesInt2_of_width (mulhOp 2) rfl hab fun n => mulhOp_mixed
  case addi => exact State.givesInt1_of_width (fun w v => narrow w 0 ((v : Int) + i.toInt)) rfl ha fun n x => narrow_add_signExtend x i

end Sys2Proof.Machine

/-! SUPPORT. The order, logic, shift, rotate and compare operations (R120 to R123) as the operations of words. -/

namespace Sys2Proof.Machine

/-! ### Order (R120) -/

section
variable {n : Nat} (x y : BitVec (n + 1))

theorem below_signed : below 0 (n + 1) x.toNat y.toNat = x.slt y := by
  simp only [below, if_true, signedN_toNat, BitVec.slt]

theorem below_unsigned : below 1 (n + 1) x.toNat y.toNat = x.ult y := rfl

theorem ofNat_toNat_ite (c : Bool) : BitVec.ofNat (n + 1) (if c then x.toNat else y.toNat) = if c then x else y := by
  cases c
  · exact ofNat_toNat_self y
  · exact ofNat_toNat_self x

/-- Of two words it does not matter which one is asked to lie below the other: where neither does they are equal. -/
theorem lesser_of_slt : (if y.slt x then y else x) = if x.slt y then x else y := by
  simp only [BitVec.slt_iff_toInt_lt]
  split
  · split
    · omega
    · rfl
  · split
    · rfl
    · exact BitVec.eq_of_toInt_eq (by omega)

theorem lesser_of_ult : (if y.ult x then y else x) = if x.ult y then x else y := by
  simp only [BitVec.ult_iff_lt, BitVec.lt_def]
  split
  · split
    · omega
    · rfl
  · split
    · rfl
    · exact BitVec.eq_of_toNat_eq (by omega)

theorem ofNat_min_signed :
    BitVec.ofNat (n + 1) (if below 0 (n + 1) y.toNat x.toNat then y.toNat else x.toNat) = if x.slt y then x else y := by
  rw [below_signed, ofNat_toNat_ite, lesser_of_slt]

theorem ofNat_min_unsigned :
    BitVec.ofNat (n + 1) (if below 1 (n + 1) y.toNat x.toNat then y.toNat else x.toNat) = if x.ult y then x else y := by
  rw [below_unsigned, ofNat_toNat_ite, lesser_of_ult]

theorem ofNat_max_signed :
    BitVec.ofNat (n + 1) (if below 0 (n + 1) x.toNat y.toNat then y.toNat else x.toNat) = if x.slt y then y else x := by
  rw [below_signed, ofNat_toNat_ite]

theorem ofNat_max_unsigned :
    BitVec.ofNat (n + 1) (if below 1 (n + 1) x.toNat y.toNat then y.toNat else x.toNat) = if x.ult y then y else x := by
  rw [below_unsigned, ofNat_toNat_ite]

/-! ### Compare (R123) -/

theorem ofNat_ones (w : Nat) : BitVec.ofNat w (2 ^ w - 1) = BitVec.allOnes w := by
  have hlt : 2 ^ w - 1 < 2 ^ w := Nat.sub_one_lt_of_lt (Nat.two_pow_pos w)
  exact BitVec.eq_of_toNat_eq (by rw [BitVec.toNat_ofNat, BitVec.toNat_allOnes, Nat.mod_eq_of_lt hlt])

theorem ofNat_ones_ite (w : Nat) (c : Bool) : BitVec.ofNat w (if c then 2 ^ w - 1 else 0) = if c then BitVec.allOnes w else 0 := by
  cases c
  · rfl
  · exact ofNat_ones w

theorem decide_toNat_eq : decide (x.toNat = y.toNat) = (x == y) := decide_eq_decide.2 BitVec.toNat_inj

theorem icmpHolds_eq : icmpHolds 0 (n + 1) x.toNat y.toNat = (x == y) := decide_toNat_eq x y

theorem icmpHolds_ne : icmpHolds 1 (n + 1) x.toNat y.toNat = (x != y) := decide_not.trans (congrArg not (decide_toNat_eq x y))

end

/-! ### Logic (R121) -/

section
variable {w : Nat} (x y : BitVec w)

theorem notN_toNat : notN w y.toNat = (~~~y).toNat := by
  rw [notN, Nat.mod_eq_of_lt y.isLt, BitVec.toNat_not]

theorem ofNat_and : BitVec.ofNat w (x.toNat &&& y.toNat) = x &&& y := by
  rw [← BitVec.toNat_and, ofNat_toNat_self]

theorem ofNat_or : BitVec.ofNat w (x.toNat ||| y.toNat) = x ||| y := by
  rw [← BitVec.toNat_or, ofNat_toNat_self]

theorem ofNat_xor : BitVec.ofNat w (x.toNat ^^^ y.toNat) = x ^^^ y := by
  rw [← BitVec.toNat_xor, ofNat_toNat_self]

end

/-! ### Shifts and rotations (R122) -/

section
variable {w : Nat} (x : BitVec w) (c : Nat)

theorem ofNat_shl : BitVec.ofNat w (if c < w then x.toNat * 2 ^ c % 2 ^ w else 0) = x <<< c := by
  by_cases hc : c < w
  · rw [if_pos hc]
    exact BitVec.eq_of_toNat_eq (by rw [BitVec.toNat_ofNat, BitVec.toNat_shiftLeft, Nat.shiftLeft_eq, Nat.mod_mod])
  · rw [if_neg hc]
    exact (BitVec.shiftLeft_eq_zero (Nat.not_lt.1 hc)).symm

theorem ofNat_shr : BitVec.ofNat w (if c < w then x.toNat / 2 ^ c else 0) = x >>> c := by
  by_cases hc : c < w
  · rw [if_pos hc, ← Nat.shiftRight_eq_div_pow, ← BitVec.toNat_ushiftRight, ofNat_toNat_self]
  · rw [if_neg hc]
    exact (BitVec.ushiftRight_eq_zero (Nat.not_lt.1 hc)).symm

/-- Shifted by its width or further, a number leaves only its sign. -/
theorem toInt_div_two_pow_min : x.toInt / 2 ^ min c w = x.toInt / 2 ^ c := by
  rcases Nat.lt_or_ge c w with hc | hc
  · rw [Nat.min_eq_left (Nat.le_of_lt hc)]
  · have hpow : (2 : Int) ^ w ≤ 2 ^ c := by exact_mod_cast Nat.pow_le_pow_right (n := 2) (by decide) hc
    have hlt := BitVec.two_mul_toInt_lt (x := x)
    have hle := BitVec.le_two_mul_toInt (x := x)
    rw [Nat.min_eq_right hc]
    rcases Int.lt_or_le x.toInt 0 with hneg | hpos
    · rw [Int.ediv_eq_neg_one_of_neg_of_le hneg (by omega), Int.ediv_eq_neg_one_of_neg_of_le hneg (by omega)]
    · rw [Int.ediv_eq_zero_of_lt hpos (by omega), Int.ediv_eq_zero_of_lt hpos (by omega)]

/-- The bits rotated out of the top lie below the others. -/
theorem ofNat_rotl : BitVec.ofNat w (rotl w c x.toNat) = x.rotateLeft c := by
  rcases Nat.eq_zero_or_pos w with rfl | hw
  · exact Subsingleton.elim _ _
  apply BitVec.eq_of_toNat_eq
  have hr : c % w < w := Nat.mod_lt c hw
  have hlow : x.toNat / 2 ^ (w - c % w) < 2 ^ (c % w) := by
    rw [Nat.div_lt_iff_lt_mul (Nat.two_pow_pos _), ← Nat.pow_add]
    exact (Nat.add_sub_cancel' (Nat.le_of_lt hr)).symm ▸ x.isLt
  have hhigh : x.toNat * 2 ^ (c % w) % 2 ^ w = 2 ^ (c % w) * (x.toNat % 2 ^ (w - c % w)) := by
    rw [← Nat.mul_mod_mul_left, ← Nat.pow_add, Nat.add_sub_cancel' (Nat.le_of_lt hr), Nat.mul_comm]
  have hsum : rotl w c x.toNat = (x.rotateLeft c).toNat := by
    rw [BitVec.toNat_rotateLeft, rotl, Nat.shiftLeft_eq, Nat.shiftRight_eq_div_pow, hhigh, Nat.two_pow_add_eq_or_of_lt hlow]
  rw [hsum, ofNat_toNat_self]

theorem rotateLeft_sub_mod : x.rotateLeft (w - c % w) = x.rotateRight c := by
  apply BitVec.eq_of_toNat_eq
  rcases Nat.eq_zero_or_pos w with rfl | hw
  · rw [Subsingleton.elim (x.rotateLeft _)]
  rw [BitVec.toNat_rotateLeft, BitVec.toNat_rotateRight]
  rcases Nat.eq_zero_or_pos (c % w) with hr | hr
  · have hout : x.toNat >>> w = 0 := by rw [Nat.shiftRight_eq_div_pow, Nat.div_eq_of_lt x.isLt]
    have hover : x.toNat <<< w % 2 ^ w = 0 := by rw [Nat.shiftLeft_eq, Nat.mul_mod_left]
    simp [hr, hout, hover, Nat.mod_eq_of_lt x.isLt]
  · have hlt : c % w < w := Nat.mod_lt c hw
    rw [Nat.mod_eq_of_lt (by omega : w - c % w < w), Nat.sub_sub_self (Nat.le_of_lt hlt), Nat.or_comm]

end

theorem ofNat_sshr {n : Nat} (x : BitVec (n + 1)) (c : Nat) :
    BitVec.ofNat (n + 1) (signedN (n + 1) x.toNat / 2 ^ min c (n + 1) % 2 ^ (n + 1)).toNat = x.sshiftRight c := by
  rw [ofNat_toNat_emod, signedN_toNat, toInt_div_two_pow_min, BitVec.sshiftRight, Int.shiftRight_eq_div_pow]
  push_cast
  rfl

/-! ### O8 -/

/-- Settles O8: every operation by its lemma, at both widths. -/
theorem integerLogic : Obligations.IntegerLogic := by
  unfold Obligations.IntegerLogic
  intro s d a b hab one ones
  have hicmp (m : BitVec 3) (f : (w : Nat) → BitVec w → BitVec w → Bool)
      (hf : ∀ n (x y : BitVec (n + 1)), icmpHolds m.toNat (n + 1) x.toNat y.toNat = f (n + 1) x y) :
      one (.icmp d a b m) fun w x y => ones w (f w x y) :=
    State.givesInt2_of_width (fun w x y => if icmpHolds m.toNat w x y then 2 ^ w - 1 else 0) rfl hab fun n x y =>
      (hf n x y).symm ▸ ofNat_ones_ite (n + 1) _
  refine ⟨?min, ?minUnsigned, ?max, ?maxUnsigned, ?and, ?andNot, ?or, ?orNot, ?xor, ?xorNot, ?shl, ?shr, ?sar, ?rotl, ?rotr,
    hicmp 0 _ fun n => icmpHolds_eq, hicmp 1 _ fun n => icmpHolds_ne, hicmp 2 _ fun n => below_signed,
    hicmp 3 _ fun n x y => congrArg not (below_signed x y), hicmp 4 _ fun n => below_unsigned,
    hicmp 5 _ fun n x y => congrArg not (below_unsigned x y)⟩
  case min => exact State.givesInt2_of_width (fun w x y => if below 0 w y x then y else x) rfl hab fun n => ofNat_min_signed
  case minUnsigned => exact State.givesInt2_of_width (fun w x y => if below 1 w y x then y else x) rfl hab fun n => ofNat_min_unsigned
  case max => exact State.givesInt2_of_width (fun w x y => if below 0 w x y then y else x) rfl hab fun n => ofNat_max_signed
  case maxUnsigned => exact State.givesInt2_of_width (fun w x y => if below 1 w x y then y else x) rfl hab fun n => ofNat_max_unsigned
  case and => exact State.givesInt2_of_width (fun _ x y => x &&& y) rfl hab fun n => ofNat_and
  case andNot => exact State.givesInt2_of_width (fun w x y => x &&& notN w y) rfl hab fun n x y => notN_toNat y ▸ ofNat_and x (~~~y)
  case or => exact State.givesInt2_of_width (fun _ x y => x ||| y) rfl hab fun n => ofNat_or
  case orNot => exact State.givesInt2_of_width (fun w x y => x ||| notN w y) rfl hab fun n x y => notN_toNat y ▸ ofNat_or x (~~~y)
  case xor => exact State.givesInt2_of_width (fun _ x y => x ^^^ y) rfl hab fun n => ofNat_xor
  case xorNot => exact State.givesInt2_of_width (fun w x y => x ^^^ notN w y) rfl hab fun n x y => notN_toNat y ▸ ofNat_xor x (~~~y)
  case shl =>
    exact State.givesInt2_of_width (fun w x c => if c < w then x * 2 ^ c % 2 ^ w else 0) rfl hab fun n x y => ofNat_shl x y.toNat
  case shr => exact State.givesInt2_of_width (fun w x c => if c < w then x / 2 ^ c else 0) rfl hab fun n x y => ofNat_shr x y.toNat
  case sar =>
    exact State.givesInt2_of_width (fun w x c => (signedN w x / 2 ^ min c w % 2 ^ w).toNat) rfl hab fun n x y => ofNat_sshr x y.toNat
  case rotl => exact State.givesInt2_of_width (fun w x c => rotl w c x) rfl hab fun n x y => ofNat_rotl x y.toNat
  case rotr =>
    exact State.givesInt2_of_width (fun w x c => rotl w (w - c % w) x) rfl hab fun n x y =>
      (ofNat_rotl x _).trans (rotateLeft_sub_mod x y.toNat)

end Sys2Proof.Machine

/-! SUPPORT. Results of bits, read bit by bit (R124 to R126). -/

namespace Sys2Proof

/-! ### Numbers given by their bits -/

theorem natOfBits_lt (f : Nat → Bool) (n : Nat) : natOfBits f n < 2 ^ n := by
  induction n with
  | zero => exact Nat.one_pos
  | succ n ih =>
    have hbit : bit01 (f n) * 2 ^ n ≤ 2 ^ n := by cases f n <;> simp [bit01]
    rw [natOfBits, Nat.pow_succ]
    omega

theorem testBit_natOfBits (f : Nat → Bool) (n : Nat) {i : Nat} (hi : i < n) : (natOfBits f n).testBit i = f i := by
  induction n with
  | zero => omega
  | succ n ih =>
    rw [natOfBits, Nat.add_comm, Nat.mul_comm, Nat.testBit_two_pow_mul_add _ (natOfBits_lt f n)]
    by_cases hin : i < n
    · rw [if_pos hin, ih hin]
    · rw [if_neg hin]
      obtain rfl : i = n := by omega
      cases f i <;> simp [bit01]

theorem getLsbD_ofNat_natOfBits (f : Nat → Bool) {w i : Nat} (hi : i < w) : (BitVec.ofNat w (natOfBits f w)).getLsbD i = f i := by
  rw [BitVec.getLsbD_ofNat, testBit_natOfBits f w hi, decide_eq_true hi, Bool.true_and]

/-- A word is known by its bits. -/
theorem eq_ofNat_natOfBits {w : Nat} {x : BitVec w} {f : Nat → Bool} (h : ∀ i, i < w → x.getLsbD i = f i) :
    x = BitVec.ofNat w (natOfBits f w) :=
  BitVec.eq_of_getLsbD_eq fun i hi => (h i hi).trans (getLsbD_ofNat_natOfBits f hi).symm

theorem ofNat_eq_ofNat_natOfBits {w v : Nat} {f : Nat → Bool} (h : ∀ i, i < w → v.testBit i = f i) :
    BitVec.ofNat w v = BitVec.ofNat w (natOfBits f w) :=
  eq_ofNat_natOfBits fun i hi => by rw [BitVec.getLsbD_ofNat, decide_eq_true hi, Bool.true_and, h i hi]

/-! ### The bits of a byte string -/

theorem testBit_natLE (l : List Byte) (i : Nat) : (natLE l).testBit i = (l.getD (i / 8) 0).getLsbD (i % 8) := by
  induction l generalizing i with
  | nil => simp [natLE]
  | cons b t ih =>
    rw [natLE, Nat.add_comm, Nat.testBit_two_pow_mul_add (i := 8) _ b.isLt]
    by_cases hi : i < 8
    · rw [if_pos hi, Nat.div_eq_of_lt hi, Nat.mod_eq_of_lt hi]; rfl
    · obtain ⟨k, rfl⟩ := Nat.exists_eq_add_of_le (Nat.not_lt.1 hi)
      rw [if_neg hi, ih, Nat.add_sub_cancel_left, Nat.add_div_left _ (by decide), Nat.add_mod_left]; rfl

theorem getD_bytesLE (n v : Nat) {j : Nat} (hj : j < n) : (bytesLE n v).getD j 0 = BitVec.ofNat 8 (v / 256 ^ j) := by
  induction n generalizing v j with
  | zero => omega
  | succ n ih =>
    cases j with
    | zero => simp [bytesLE]
    | succ j =>
      rw [bytesLE, List.getD_cons_succ, ih _ (by omega), Nat.div_div_eq_div_mul, Nat.pow_succ, Nat.mul_comm]

end Sys2Proof

namespace Sys2Proof.Machine

theorem testBit_natBE_bytesLE (n v : Nat) {i : Nat} (hi : i < 8 * n) :
    (natBE (bytesLE n v)).testBit i = v.testBit (8 * n - 8 - i / 8 * 8 + i % 8) := by
  have hlen := bytesLE_length n v
  have hbyte : (bytesLE n v).reverse.getD (i / 8) 0 = (bytesLE n v).getD (n - 1 - i / 8) 0 := by
    rw [List.getD_eq_getElem?_getD, List.getElem?_reverse (by omega), hlen, List.getD_eq_getElem?_getD]
  have hpow : (256 : Nat) ^ (n - 1 - i / 8) = 2 ^ (8 * (n - 1 - i / 8)) := by rw [Nat.pow_mul]
  rw [natBE, testBit_natLE, hbyte, getD_bytesLE n v (by omega), BitVec.getLsbD_ofNat, hpow, Nat.testBit_div_two_pow,
    decide_eq_true (Nat.mod_lt i (by decide)), Bool.true_and]
  congr 1
  omega

/-! ### ISAT (R124) -/

theorem isat_unsigned (w g : Nat) (e : Int) :
    BitVec.ofNat w (clampI 0 (2 ^ (g + 1) - 1) e).toNat = BitVec.ofInt w (clampI 0 (2 ^ (g + 1) - 1) e) :=
  ofNat_toNat_of_nonneg w (clampI_zero_nonneg (two_pow_sub_one_nonneg (g + 1)) e)

/-! ### BITC (R125) -/

section
variable {w : Nat} (x : BitVec w)

theorem ofNat_clz (hw : 0 < w) : BitVec.ofNat w (clz w x.toNat) = x.clz := by
  by_cases hx : x = 0#w
  · subst hx
    exact (BitVec.clz_eq_iff_eq_zero.2 rfl).symm
  have hne : x.toNat ≠ 0 := fun h => hx (BitVec.eq_of_toNat_eq h)
  have hlt : x.clz.toNat < w := by
    have h := BitVec.clz_lt_iff_ne_zero.2 hx
    rw [BitVec.lt_def] at h
    exact Nat.lt_of_lt_of_le h (Nat.mod_le w _)
  have hlow : 2 ^ (w - 1 - x.clz.toNat) ≤ x.toNat := BitVec.two_pow_sub_clz_le_toNat_of_ne_zero hw hx
  have hhigh : x.toNat < 2 ^ (w - x.clz.toNat) := BitVec.toNat_lt_two_pow_sub_clz
  have hlog : Nat.log2 x.toNat = w - 1 - x.clz.toNat := by
    rw [Nat.log2_eq_iff hne]
    exact ⟨hlow, by rwa [show w - 1 - x.clz.toNat + 1 = w - x.clz.toNat by omega]⟩
  rw [clz, if_neg hne, hlog, show w - 1 - (w - 1 - x.clz.toNat) = x.clz.toNat by omega, ofNat_toNat_self]

theorem ctz_zero (w : Nat) : ctz w 0 = w := by
  have hnone : (List.range w).find? (fun i => Nat.testBit 0 i) = none := by simp
  rw [ctz, hnone]

theorem ofNat_ctz : BitVec.ofNat w (ctz w x.toNat) = x.ctz := by
  by_cases hx : x = 0#w
  · subst hx
    have hrev : (0#w).reverse = 0#w := BitVec.eq_of_getLsbD_eq fun i _ => by simp [BitVec.getLsbD_reverse]
    rw [BitVec.toNat_zero, ctz_zero, BitVec.ctz, hrev]
    exact (BitVec.clz_eq_iff_eq_zero.2 rfl).symm
  have hset : x.toNat.testBit x.ctz.toNat = true := BitVec.getLsbD_true_ctz_of_ne_zero hx
  have hclear : ∀ i, i < x.ctz.toNat → x.toNat.testBit i = false := fun i hi => BitVec.getLsbD_false_of_lt_ctz hi
  have hfind : (List.range w).find? (fun i => x.toNat.testBit i) = some x.ctz.toNat := by
    rw [List.find?_range_eq_some]
    exact ⟨hset, List.mem_range.2 (BitVec.lt_of_getLsbD hset), fun j hj => by simp [hclear j hj]⟩
  rw [ctz, hfind, ofNat_toNat_self]

theorem ofNat_bitReverse : BitVec.ofNat w (natOfBits (fun i => x.toNat.testBit (w - 1 - i)) w) = x.reverse := by
  refine (eq_ofNat_natOfBits fun i hi => ?_).symm
  rw [BitVec.getLsbD_reverse, BitVec.getMsbD, decide_eq_true hi, Bool.true_and]
  rfl

end

theorem ofNat_byteReverse {k : Nat} (x : BitVec (8 * k)) :
    BitVec.ofNat (8 * k) (natBE (bytesLE (8 * k / 8) x.toNat))
      = BitVec.ofNat (8 * k) (natOfBits (fun i => x.getLsbD (8 * k - 8 - i / 8 * 8 + i % 8)) (8 * k)) := by
  rw [Nat.mul_div_cancel_left k (by decide : 0 < 8)]
  exact ofNat_eq_ofNat_natOfBits fun i hi => testBit_natBE_bytesLE k x.toNat hi

/-! ### BFX and BFI (R126) -/

theorem bitsN_pos (c : Nat) : bitsN c 5 0 = c % 64 := congrArg (· % 64) (Nat.div_one c)
theorem bitsN_len (c : Nat) : bitsN c 13 8 = c / 256 % 64 := rfl

theorem testBit_field (v pos len i : Nat) : (v / 2 ^ pos % 2 ^ len).testBit i = (decide (i < len) && v.testBit (pos + i)) := by
  rw [Nat.testBit_mod_two_pow, Nat.testBit_div_two_pow, Nat.add_comm i pos]

theorem getLsbD_ofInt_signedN {w k v i : Nat} (hi : i < w) :
    (BitVec.ofInt w (signedN (k + 1) v)).getLsbD i = v.testBit (min i k) := by
  have hmod : signedN (k + 1) v = signedN (k + 1) (BitVec.ofNat (k + 1) v).toNat := by
    rw [BitVec.toNat_ofNat, signedN, signedN, Nat.mod_mod]
  rw [hmod, signedN_toNat, ← BitVec.signExtend, BitVec.getLsbD_signExtend, decide_eq_true hi, Bool.true_and]
  by_cases hik : i < k + 1
  · rw [if_pos hik, BitVec.getLsbD_ofNat, decide_eq_true hik, Bool.true_and, Nat.min_eq_left (by omega)]
  · rw [if_neg hik, BitVec.msb_eq_getLsbD_last, BitVec.getLsbD_ofNat, Nat.min_eq_right (by omega), Nat.add_sub_cancel,
      decide_eq_true k.lt_succ_self, Bool.true_and]

theorem ofNat_bfx_unsigned {w : Nat} (x y : BitVec w) :
    BitVec.ofNat w (bfxOp false w x.toNat y.toNat)
      = BitVec.ofNat w (natOfBits (fun i => decide (i < min (y.toNat / 256 % 64) w) && x.getLsbD (y.toNat % 64 + i)) w) := by
  simp only [bfxOp, bitsN_pos, bitsN_len, Bool.false_eq_true, false_and, if_false]
  exact ofNat_eq_ofNat_natOfBits fun i _ => testBit_field x.toNat _ _ i

theorem ofNat_bfx_signed {w : Nat} (x y : BitVec w) :
    BitVec.ofNat w (bfxOp true w x.toNat y.toNat)
      = BitVec.ofNat w (natOfBits (fun i => decide (0 < min (y.toNat / 256 % 64) w)
          && x.getLsbD (y.toNat % 64 + min i (min (y.toNat / 256 % 64) w - 1))) w) := by
  simp only [bfxOp, bitsN_pos, bitsN_len, true_and]
  generalize min (y.toNat / 256 % 64) w = len
  generalize y.toNat % 64 = pos
  cases len with
  | zero =>
    refine ofNat_eq_ofNat_natOfBits fun i _ => ?_
    rw [if_neg (Nat.lt_irrefl 0), Nat.pow_zero, Nat.mod_one, Nat.zero_testBit, decide_eq_false (Nat.lt_irrefl 0), Bool.false_and]
  | succ k =>
    rw [if_pos k.succ_pos, ofNat_toNat_emod]
    refine eq_ofNat_natOfBits fun i hi => ?_
    rw [getLsbD_ofInt_signedN hi, testBit_field, Nat.add_sub_cancel, decide_eq_true (by omega), decide_eq_true k.succ_pos]
    rfl

theorem bfiOp_eq {w : Nat} (z x y : BitVec w) :
    bfiOp w z.toNat x.toNat y.toNat = natOfBits (fun i => if y.toNat % 64 ≤ i ∧ i < y.toNat % 64 + min (y.toNat / 256 % 64) w then
      x.getLsbD (i - y.toNat % 64) else z.getLsbD i) w := by
  simp only [bfiOp, bitsN_pos, bitsN_len]
  rfl

/-! ### O9 -/

/-- Settles O9: every operation by its lemma, at both widths. -/
theorem integerBitFields : Obligations.IntegerBitFields := by
  unfold Obligations.IntegerBitFields
  intro s d a b hab ha bits pos len
  refine ⟨fun g => ⟨?isatSigned, ?isatUnsigned⟩, ?pop, ?clz, ?ctz, ?rev, ?bswap, ?bfxUnsigned, ?bfxSigned, ?bfi⟩
  case isatSigned =>
    exact State.givesInt1_of_width (fun w v => (clampI (-(2 ^ (g.toNat + 1 - 1))) (2 ^ (g.toNat + 1 - 1) - 1) (signedN w v) % 2 ^ w).toNat) rfl ha
      fun n x => signedN_toNat x ▸ ofNat_toNat_emod (n + 1) _
  case isatUnsigned =>
    exact State.givesInt1_of_width (fun w v => (clampI 0 (2 ^ (g.toNat + 1) - 1) (signedN w v)).toNat) rfl ha
      fun n x => signedN_toNat x ▸ isat_unsigned (n + 1) g.toNat _
  case pop => exact State.givesInt1_of_width popcount rfl ha fun n x => rfl
  case clz => exact State.givesInt1_of_width clz rfl ha fun n x => ofNat_clz x n.succ_pos
  case ctz => exact State.givesInt1_of_width ctz rfl ha fun n => ofNat_ctz
  case rev => exact State.givesInt1_of_width (fun w v => natOfBits (fun i => v.testBit (w - 1 - i)) w) rfl ha fun n => ofNat_bitReverse
  case bswap =>
    exact State.givesInt1_of (g := fun w v => natBE (bytesLE (w / 8) v)) rfl ha (ofNat_byteReverse (k := 4)) (ofNat_byteReverse (k := 8))
  case bfxUnsigned => exact State.givesInt2_of_width (bfxOp false) rfl hab fun n => ofNat_bfx_unsigned
  case bfxSigned => exact State.givesInt2_of_width (bfxOp true) rfl hab fun n => ofNat_bfx_signed
  case bfi => exact State.givesInt3_of_width bfiOp rfl hab fun n z x y => congrArg (BitVec.ofNat (n + 1)) (bfiOp_eq z x y)

end Sys2Proof.Machine

/-! SUPPORT. Addresses, scans and quotients (R127 to R129). -/

namespace Sys2Proof.Machine

/-! ### Address formation (R127) -/

theorem addrOf_eq (base : Dword) (n : Nat) (ix : Int) : addrOf base n ix = base + BitVec.ofInt 64 ix <<< n := by
  have hpow : BitVec.ofInt 64 (2 ^ n) = BitVec.twoPow 64 n := by
    rw [← Int.cast_ofNat_Int, ← Int.natCast_pow, BitVec.ofInt_natCast]
    exact BitVec.eq_of_toNat_eq (by simp)
  rw [addrOf, BitVec.ofInt_add, ofInt_toNat, BitVec.ofInt_mul, hpow, BitVec.shiftLeft_eq_mul_twoPow]

theorem append_halves (a : Dword) : (a >>> 32).setWidth 32 ++ a.setWidth 32 = a := by
  rw [← ofNat_mul_add_eq_append]
  apply BitVec.eq_of_toNat_eq
  have hlt := a.isLt
  simp only [BitVec.toNat_ofNat, BitVec.toNat_setWidth, BitVec.toNat_ushiftRight, Nat.shiftRight_eq_div_pow]
  omega

section
variable (base : Dword) (n h : Nat) (v : Vec) (m : Mask) {j : Nat}

theorem addrPairs_get (hj : j < 96) : (addrPairs base n h v).get (2 * j + 1) ++ (addrPairs base n h v).get (2 * j)
    = base + ((v.get (96 * h + j)).signExtend 64) <<< n := by
  have hodd : (2 * j + 1) / 2 = j := by omega
  have heven : 2 * j / 2 = j := by omega
  rw [addrPairs, Vec.get_gen _ (by omega), Vec.get_gen _ (by omega), hodd, heven, if_neg (by omega), if_pos (by omega), append_halves,
    addrOf_eq, BitVec.signExtend]

theorem pairMask_get {i : Nat} (hi : i < 192) : (pairMask h m).getLsbD i = m.getLsbD (96 * h + i / 2) :=
  getLsbD_ofNat_natOfBits (fun i => m.getLsbD (96 * h + i / 2)) hi

end

theorem State.gives_addr_scalar {s : State} {a b : Src} (hp : s.poisoned [a, b] = none) (k n : BitVec 2) :
    s.Gives (.addr (.x k) a b 0 n) 2 [.sreg k.toNat (s.srcSca a + s.srcSca b <<< n.toNat)] := by
  refine State.gives_of_finish ?_
  show execAddr (.x k) a b 0 n s = _
  have hscalar : isScalar (.x k) = true := rfl
  rw [execAddr, if_pos hscalar, State.scalarOp_clean hp, addrOf_eq, BitVec.ofInt_toInt]
  rfl

theorem State.gives_addr_pairs {s : State} {a b : Src} {d : Dst} (hp : s.poisoned [a, b] = none) (hd : isScalar d = false) (h : BitVec 1)
    (n : BitVec 2) : s.Gives (.addr d a b h n) 2
      (s.write d (.vec (addrPairs (s.srcSca a) n.toNat h.toNat (s.srcVec b))) (pairMask h.toNat s.my.regs.mask)) := by
  refine State.gives_of_finish ?_
  show execAddr d a b h n s = _
  simp only [execAddr, hd, hp, Bool.false_eq_true, if_false]

/-! ### Lane scan (R129) -/

/-- What a scan has gathered before lane n: the carry combined with the lanes under the mask, in rising order. -/
def scanFold (f : Word → Word → Word) (mask : Mask) (v : Nat → Word) (carry : Word) (n : Nat) : Word :=
  ((List.range n).filter fun j => mask.getLsbD j).foldl (fun w j => f w (v j)) carry

section
variable (f : Word → Word → Word) (mask : Mask) (v : Nat → Word) (carry : Word)

theorem scanFold_zero : scanFold f mask v carry 0 = carry := rfl

theorem scanFold_succ (n : Nat) : scanFold f mask v carry (n + 1)
    = if mask.getLsbD n then f (scanFold f mask v carry n) (v n) else scanFold f mask v carry n := by
  rw [scanFold, List.range_succ, List.filter_append, List.foldl_append]
  cases hn : mask.getLsbD n <;> simp [hn, scanFold]

/-- A masked lane of a scan that began at lane i with what was gathered before it. -/
theorem scanLanes_getD (m i j len : Nat) (hj : j < len) (hmask : mask.getLsbD (i + j) = true) :
    (scanLanes m mask i (scanFold (scanOp m) mask v carry i) ((List.range' i len).map v)).getD j 0
      = scanFold (scanOp m) mask v carry (if m = 1 then i + j else i + j + 1) := by
  induction len generalizing i j with
  | zero => omega
  | succ len ih =>
    have hstep : scanLanes m mask i (scanFold (scanOp m) mask v carry i) ((List.range' i (len + 1)).map v)
        = (if mask.getLsbD i then scanFold (scanOp m) mask v carry (if m = 1 then i else i + 1) else v i)
          :: scanLanes m mask (i + 1) (scanFold (scanOp m) mask v carry (i + 1)) ((List.range' (i + 1) len).map v) := by
      rw [List.range'_succ, List.map_cons, scanLanes, scanFold_succ]
      cases hi : mask.getLsbD i
      · simp
      · by_cases hm : m = 1 <;> simp [hm, hi, scanFold_succ]
    rw [hstep]
    cases j with
    | zero =>
      simp only [Nat.add_zero] at hmask ⊢
      rw [List.getD_cons_zero, if_pos hmask]
    | succ j =>
      have hidx : i + 1 + j = i + (j + 1) := by omega
      rw [List.getD_cons_succ, ih (i + 1) j (by omega) (by rwa [hidx]), hidx]

theorem scanLanes_get (m : Nat) {k : Nat} (hk : k < 192) (hmask : mask.getLsbD k = true) :
    Vec.get ⟨scanLanes m mask 0 carry ((List.range 192).map v)⟩ k = scanFold (scanOp m) mask v carry (if m = 1 then k else k + 1) := by
  have h := scanLanes_getD mask v carry m 0 k 192 hk ((Nat.zero_add k).symm ▸ hmask)
  rwa [scanFold_zero, Nat.zero_add, ← List.range_eq_range'] at h

end

theorem scanOp_maxs : scanOp 2 = fun x y => if x.slt y then y else x := by
  funext x y
  simp [scanOp, BitVec.slt_iff_toInt_lt]

theorem scanOp_maxu : scanOp 3 = fun x y => if x.ult y then y else x := by
  funext x y
  simp [scanOp, BitVec.ult_iff_lt, BitVec.lt_def]

theorem scanOp_mins : scanOp 4 = fun x y => if y.slt x then y else x := by
  funext x y
  simp [scanOp, BitVec.slt_iff_toInt_lt]

theorem scanOp_minu : scanOp 5 = fun x y => if y.ult x then y else x := by
  funext x y
  simp [scanOp, BitVec.ult_iff_lt, BitVec.lt_def]

theorem State.gives_lscan {s : State} {a b : Src} (hp : s.poisoned [a, b] = none) (d : Dst) (m : BitVec 3) :
    s.Gives (.lscan d a b m) 4 (s.write d
      (.vec ⟨scanLanes m.toNat s.my.regs.mask 0 ((s.srcSca b).setWidth 32) ((List.range 192).map (s.srcVec a).get)⟩) s.my.regs.mask) := by
  refine State.gives_of_finish ?_
  show execLscan d a b m s = _
  rw [execLscan, State.laneOp_clean hp, if_pos rfl, List.append_nil]

/-! ### Division (R128) -/

section
variable {n : Nat} (x y : BitVec (n + 1))

theorem toNat_eq_zero_iff : y.toNat = 0 ↔ y = 0 := BitVec.toNat_inj (y := 0#(n + 1))

theorem ofInt_tdiv : BitVec.ofInt (n + 1) (x.toInt.tdiv y.toInt) = x.sdiv y :=
  BitVec.eq_of_toInt_eq (by rw [BitVec.toInt_ofInt, BitVec.toInt_sdiv])

theorem ofInt_tmod : BitVec.ofInt (n + 1) (x.toInt.tmod y.toInt) = x.srem y := by
  rw [← BitVec.toInt_srem, BitVec.ofInt_toInt]

theorem ofNat_idiv_s : BitVec.ofNat (n + 1) (idivOp 0 (n + 1) x.toNat y.toNat) = if y = 0 then BitVec.allOnes (n + 1) else x.sdiv y := by
  simp only [idivOp, toNat_eq_zero_iff, apply_ite (BitVec.ofNat (n + 1)), ofNat_toNat_emod, signedN_toNat, ofInt_tdiv, ofNat_ones]
  rfl

theorem ofNat_idiv_u : BitVec.ofNat (n + 1) (idivOp 1 (n + 1) x.toNat y.toNat) = if y = 0 then BitVec.allOnes (n + 1) else x / y := by
  simp only [idivOp, toNat_eq_zero_iff, apply_ite (BitVec.ofNat (n + 1)), ← BitVec.toNat_udiv, ofNat_toNat_self, ofNat_ones]
  rfl

theorem ofNat_idiv_sr : BitVec.ofNat (n + 1) (idivOp 2 (n + 1) x.toNat y.toNat) = if y = 0 then x else x.srem y := by
  simp only [idivOp, toNat_eq_zero_iff, apply_ite (BitVec.ofNat (n + 1)), ofNat_toNat_emod, signedN_toNat, ofInt_tmod, ofNat_toNat_self]
  rfl

theorem ofNat_idiv_ur : BitVec.ofNat (n + 1) (idivOp 3 (n + 1) x.toNat y.toNat) = if y = 0 then x else x % y := by
  simp only [idivOp, toNat_eq_zero_iff, apply_ite (BitVec.ofNat (n + 1)), ← BitVec.toNat_umod, ofNat_toNat_self]
  rfl

end

section
variable (s : State) (n : Nat)

@[simp] theorem State.srcSca_takeDivider (a : Src) : (s.takeDivider n).srcSca a = s.srcSca a := rfl
@[simp] theorem State.srcVec_takeDivider (a : Src) : (s.takeDivider n).srcVec a = s.srcVec a := rfl
@[simp] theorem State.write_takeDivider (d : Dst) (v : Val) (m : Mask) : (s.takeDivider n).write d v m = s.write d v m := rfl
@[simp] theorem State.my_takeDivider : (s.takeDivider n).my = s.my := rfl
@[simp] theorem State.poisoned_takeDivider (l : List Src) : (s.takeDivider n).poisoned l = s.poisoned l := by
  induction l with
  | nil => rfl
  | cons a t ih => rw [State.poisoned, State.poisoned, ih]; rfl

end

/-- IDIV by its operation at every width: the divider is taken, and the result is that of the two shapes. -/
theorem State.gives_idiv {s : State} {a b : Src} (hp : s.poisoned [a, b] = none) (d : Dst) (m : BitVec 3)
    (f : (w : Nat) → BitVec w → BitVec w → BitVec w)
    (hf : ∀ (n : Nat) (x y : BitVec (n + 1)), BitVec.ofNat (n + 1) (idivOp m.toNat (n + 1) x.toNat y.toNat) = f (n + 1) x y) :
    if isScalar d then
      s.GivesFrom (s.takeDivider 16) (.idiv d a b m) 22 (s.write d (.sca (f 64 (s.srcSca a) (s.srcSca b))) s.my.regs.mask)
    else s.GivesFrom (s.takeDivider 8) (.idiv d a b m) 12
      (s.write d (.vec (Vec.gen fun k => f 32 ((s.srcVec a).get k) ((s.srcVec b).get k))) s.my.regs.mask) := by
  have h64 : ∀ x y : BitVec 64, BitVec.ofNat 64 (idivOp m.toNat 64 x.toNat y.toNat) = f 64 x y := hf 63
  have h32 : ∀ x y : BitVec 32, BitVec.ofNat 32 (idivOp m.toNat 32 x.toNat y.toNat) = f 32 x y := hf 31
  have hclean (k : Nat) : (s.takeDivider k).poisoned [a, b] = none := (s.poisoned_takeDivider k [a, b]).trans hp
  split <;> rename_i hd <;> refine State.gives_of_finish ?_ <;> show execIdiv d a b m s = _
  · simp only [execIdiv, State.int2, hd, if_true, State.scalarOp_clean (hclean 16), h64, State.srcSca_takeDivider, State.write_takeDivider,
      State.my_takeDivider]
  · simp [execIdiv, State.int2, hd, State.laneOp_clean (hclean 8), h32]

/-! ### O10 -/

/-- Settles O10: ADDR, LSCAN and IDIV by their lemmas. -/
theorem addressScanDivide : Obligations.AddressScanDivide := by
  unfold Obligations.AddressScanDivide
  intro s a b hab
  refine ⟨State.gives_addr_scalar hab, ?pairs, ?scans, ?quotients⟩
  case pairs =>
    intro d h n hd
    have hmask {i j : Nat} (hi : i < 192) (hij : i / 2 = j) :
        (pairMask h.toNat s.my.regs.mask).getLsbD i = s.my.regs.mask.getLsbD (96 * h.toNat + j) := hij ▸ pairMask_get _ _ hi
    exact ⟨_, _, fun j hj => ⟨addrPairs_get _ _ _ _ hj, hmask (by omega) (by omega), hmask (by omega) (by omega)⟩,
      State.gives_addr_pairs hab hd h n⟩
  case scans =>
    intro d _ acc scan
    have hscan (m : BitVec 3) (f : Word → Word → Word) (upTo : Nat → Nat) (hf : scanOp m.toNat = f)
        (hup : ∀ k, (if m.toNat = 1 then k else k + 1) = upTo k) : scan m f upTo :=
      ⟨_, fun k hk hmask => by rw [scanLanes_get _ _ _ _ hk hmask, hf, hup]; rfl, State.gives_lscan hab d m⟩
    exact ⟨hscan 0 _ _ rfl fun k => rfl, hscan 1 _ _ rfl fun k => rfl, hscan 2 _ _ scanOp_maxs fun k => rfl, hscan 3 _ _ scanOp_maxu fun k => rfl,
      hscan 4 _ _ scanOp_mins fun k => rfl, hscan 5 _ _ scanOp_minu fun k => rfl, hscan 6 _ _ rfl fun k => rfl⟩
  case quotients =>
    intro d div
    have hdiv (m : BitVec 3) (f : (w : Nat) → BitVec w → BitVec w → BitVec w)
        (hf : ∀ (n : Nat) (x y : BitVec (n + 1)), BitVec.ofNat (n + 1) (idivOp m.toNat (n + 1) x.toNat y.toNat) = f (n + 1) x y) : div m f :=
      State.gives_idiv hab d m f hf
    clear_value div
    exact ⟨hdiv 0 _ fun n => ofNat_idiv_s, hdiv 1 _ fun n => ofNat_idiv_u, hdiv 2 _ fun n => ofNat_idiv_sr, hdiv 3 _ fun n => ofNat_idiv_ur⟩

end Sys2Proof.Machine

/-! SUPPORT. Counter chains (R130 to R132): what a stage, a step and an advance leave of a chain. -/

namespace Sys2Proof

theorem listSet_eq_set {α : Type} (l : List α) (i : Nat) (v : α) : listSet l i v = l.set i v := by
  induction l generalizing i with
  | nil => rfl
  | cons h t ih => cases i <;> simp [listSet, ih]

theorem length_listSet {α : Type} (l : List α) (i : Nat) (v : α) : (listSet l i v).length = l.length := by
  rw [listSet_eq_set, List.length_set]

theorem getD_listSet_self {α : Type} {l : List α} {i : Nat} (v d : α) (hi : i < l.length) : (listSet l i v).getD i d = v := by
  rw [listSet_eq_set, List.getD_eq_getElem?_getD, List.getElem?_set_self hi, Option.getD_some]

theorem getD_listSet_ne {α : Type} (l : List α) {i j : Nat} (v d : α) (hij : j ≠ i) : (listSet l i v).getD j d = l.getD j d := by
  rw [listSet_eq_set, List.getD_eq_getElem?_getD, List.getElem?_set_ne hij.symm, List.getD_eq_getElem?_getD]

theorem getD_map_range {α : Type} (f : Nat → α) (d : α) {n i : Nat} (hi : i < n) : ((List.range n).map f).getD i d = f i := by
  rw [List.getD_eq_getElem?_getD, List.getElem?_map, List.getElem?_range hi, Option.map_some, Option.getD_some]

end Sys2Proof

namespace Sys2Proof.Machine

/-- The state with another chain in the context of the firing. -/
def State.withChain (s : State) (c : Chain) : State := s.updCtx s.cur.cid fun k => { k with chain := c }

/-! ### CCHAIN (R131) -/

theorem State.ends_cchain {s : State} {a : Src} (hp : s.poisoned [a] = none) (g : BitVec 4) (p : BitVec 1) :
    s.EndsFrom (s.withChain (s.my.chain.stage g.toNat ((s.srcSca a).toNat % 2 ^ 32) (p == 1))) (.cchain a g p) := by
  refine State.ends_of_done ?_
  show execCchain a g p s = _
  rw [execCchain, hp]
  rfl

/-! ### CSTEP (R132) -/

theorem State.gives_cstep {s : State} {w m : BitVec 2} {t : ChainTok} {c : Chain} (h : s.my.chain.next (chainWidth w) (m == 1) = (t, c))
    (k : BitVec 3) : s.GivesFrom (s.withChain c) (.cstep (.out k) w m) 1
      [.emit k.toNat (s.stamp s.cur.cid (t.token (s.my.otag k.toNat)))] := by
  refine State.gives_of_finish ?_
  show execCstep (.out k) w m s = _
  rw [execCstep, h]
  rfl

section
variable {k : Chain} (w : Nat) (lin : Bool)

theorem Chain.next_of_eos {rest : List Nat} (h : k.pending = 8 :: rest) :
    k.next w lin = (.eos, { k with pending := rest, spent := true }) := by
  simp only [Chain.next, h, if_true]

theorem Chain.next_of_mark {t : Nat} {rest : List Nat} (ht : t < 8) (h : k.pending = t :: rest) :
    k.next w lin = (.mark t (k.c.getD (t + 1) 0),
      if rest.any (· < 8) then { k with pending := rest } else ({ k with pending := rest } : Chain).advance) := by
  simp only [Chain.next, h, if_neg (Nat.ne_of_lt ht)]

theorem Chain.next_of_zero_extent (h : k.pending = []) (hzero : ∃ l, l < k.n ∧ k.e.getD l 0 = 0) :
    k.next w lin = (.eos, { k with spent := true }) := by
  have hany : (List.range k.n).any (fun l => k.e.getD l 0 = 0) = true := by simpa using hzero
  simp only [Chain.next, h, hany, if_true]

/-- The chain once `cnt` further lanes of level 0 are out. -/
def Chain.counted (k : Chain) (cnt : Nat) : Chain :=
  { k with c := listSet k.c 0 (k.c.getD 0 0 + cnt), li := (k.li + cnt) % 2 ^ 32 }

/-- The chain with the items of an iteration's end pending, advanced at once where no MARK is among them. -/
def Chain.ended (k : Chain) : Chain :=
  if k.endItems.any (· < 8) then { k with pending := k.endItems } else ({ k with pending := k.endItems } : Chain).advance

theorem Chain.next_of_data (h : k.pending = []) (hne : ∀ l, l < k.n → k.e.getD l 0 ≠ 0) :
    let cnt := min w (k.e.getD 0 0 - k.c.getD 0 0)
    k.next w lin = (.data cnt (if lin then k.li else k.c.getD 0 0),
      if k.c.getD 0 0 + cnt = k.e.getD 0 0 then (k.counted cnt).ended else k.counted cnt) := by
  have hany : (List.range k.n).any (fun l => k.e.getD l 0 = 0) = false := by simpa using hne
  intro cnt
  simp only [Chain.next, Chain.counted, Chain.ended, h, hany, Bool.false_eq_true, if_false]
  rfl

end

/-! ### The end of an iteration -/

theorem foldl_max_eq {l : List Nat} {h : Nat} (hmem : h ∈ l) (hle : ∀ m ∈ l, m ≤ h) : l.foldl max 0 = h := by
  have hmax : l.max? = some h := List.max?_eq_some_iff.2 ⟨hmem, hle⟩
  rw [List.foldl_max, hmax, Option.getD_some, Nat.zero_max]

theorem Chain.lastLevel_eq {k : Chain} {h : Nat} (hn : h < k.n) (hlast : ∀ l, 1 ≤ l → l ≤ h → k.c.getD l 0 + 1 = k.e.getD l 0)
    (hmax : ∀ g, g < k.n → (∀ l, 1 ≤ l → l ≤ g → k.c.getD l 0 + 1 = k.e.getD l 0) → g ≤ h) : k.lastLevel = h := by
  have hall (m : Nat) : ((rangeFrom 1 m).all fun j => decide (k.c.getD j 0 + 1 = k.e.getD j 0)) = true
      ↔ ∀ l, 1 ≤ l → l ≤ m → k.c.getD l 0 + 1 = k.e.getD l 0 := by
    simp only [rangeFrom, List.all_map, List.all_eq_true, List.mem_range, Function.comp, decide_eq_true_eq]
    exact ⟨fun hj l h1 hm => by simpa [Nat.add_sub_cancel' h1] using hj (l - 1) (by omega), fun hl j hj => hl (1 + j) (by omega) (by omega)⟩
  refine foldl_max_eq (List.mem_filter.2 ⟨List.mem_range.2 hn, (hall h).2 hlast⟩) fun m hm => ?_
  obtain ⟨hmem, hm⟩ := List.mem_filter.1 hm
  exact hmax m (List.mem_range.1 hmem) ((hall m).1 hm)

theorem Chain.endItems_eq {k : Chain} {h : Nat} (hn : h < k.n) (hlast : k.lastLevel = h) :
    k.endItems = List.range (min (h + 1) (k.n - 1)) ++ if h + 1 = k.n then [8] else [] := by
  simp only [Chain.endItems, hlast]
  congr 1
  by_cases htwo : 2 ≤ k.n
  · rw [if_pos htwo]
    congr 1
    omega
  · rw [if_neg htwo, show min (h + 1) (k.n - 1) = 0 by omega, List.range_zero]

/-! ### The advance -/

section
variable (e : List Nat) (n : Nat)

/-- An advance that reached level l carries into level j: each level between stands at its last coordinate. -/
def Carried (c : List Nat) (l j : Nat) : Prop := j < n ∧ ∀ i, l ≤ i → i < j → c.getD i 0 + 1 = e.getD i 0

theorem carryFrom_below (f l : Nat) (c : List Nat) {j : Nat} (hj : j < l) : (carryFrom e n f l c).getD j 0 = c.getD j 0 := by
  induction f generalizing l c with
  | zero => rfl
  | succ f ih =>
    rw [carryFrom]
    split
    · rfl
    · split
      · rw [ih (l + 1) _ (by omega), getD_listSet_ne _ _ _ (by omega)]
      · rw [getD_listSet_ne _ _ _ (by omega)]

theorem carryFrom_getD (f l : Nat) (c : List Nat) {j : Nat} (hlj : l ≤ j) (hjf : j < l + f) (hlen : j < c.length) :
    (Carried e n c l j → (carryFrom e n f l c).getD j 0 = if c.getD j 0 + 1 = e.getD j 0 then 0 else c.getD j 0 + 1)
      ∧ (¬ Carried e n c l j → (carryFrom e n f l c).getD j 0 = c.getD j 0) := by
  induction f generalizing l c with
  | zero => omega
  | succ f ih =>
    by_cases hn : n ≤ l
    · rw [carryFrom, if_pos hn]
      exact ⟨fun hc => absurd hc.1 (by omega), fun _ => rfl⟩
    have hhere : Carried e n c l l := ⟨by omega, fun i h1 h2 => by omega⟩
    by_cases hl : c.getD l 0 + 1 = e.getD l 0
    · rw [carryFrom, if_neg hn, if_pos hl]
      rcases Nat.eq_or_lt_of_le hlj with rfl | hlt
      · have hzero : (carryFrom e n f (l + 1) (listSet c l 0)).getD l 0 = 0 :=
          (carryFrom_below e n f _ _ l.lt_succ_self).trans (getD_listSet_self 0 0 hlen)
        exact ⟨fun _ => by rw [hzero, if_pos hl], fun hc => absurd hhere hc⟩
      · have hsame (i : Nat) (hi : l < i) : (listSet c l 0).getD i 0 = c.getD i 0 := getD_listSet_ne _ _ _ (by omega)
        have hcarried : Carried e n (listSet c l 0) (l + 1) j ↔ Carried e n c l j := by
          refine and_congr_right fun _ => ⟨fun h i hli hij => ?_, fun h i hli hij => by rw [hsame i hli]; exact h i (by omega) hij⟩
          rcases Nat.eq_or_lt_of_le hli with rfl | hi
          · exact hl
          · exact hsame i hi ▸ h i hi hij
        have hrest := ih (l + 1) (listSet c l 0) hlt (by omega) (by rwa [length_listSet])
        rwa [hcarried, hsame j hlt] at hrest
    · rw [carryFrom, if_neg hn, if_neg hl]
      rcases Nat.eq_or_lt_of_le hlj with rfl | hlt
      · exact ⟨fun _ => by rw [getD_listSet_self _ _ hlen, if_neg hl], fun hc => absurd hhere hc⟩
      · exact ⟨fun hc => absurd (hc.2 l (Nat.le_refl l) hlt) hl, fun _ => getD_listSet_ne _ _ _ (by omega)⟩

end

theorem Chain.advance_level_zero {k : Chain} (hlen : 0 < k.c.length) : k.advance.c.getD 0 0 = 0 :=
  (carryFrom_below k.e k.n 8 1 _ Nat.one_pos).trans (getD_listSet_self 0 0 hlen)

theorem Chain.advance_level {k : Chain} (hlen : k.c.length = 8) {l : Nat} (hl : 1 ≤ l) (hl8 : l < 8) :
    (Carried k.e k.n k.c 1 l → k.advance.c.getD l 0 = if k.c.getD l 0 + 1 = k.e.getD l 0 then 0 else k.c.getD l 0 + 1)
      ∧ (¬ Carried k.e k.n k.c 1 l → k.advance.c.getD l 0 = k.c.getD l 0) := by
  have hsame (i : Nat) (hi : 1 ≤ i) : (listSet k.c 0 0).getD i 0 = k.c.getD i 0 := getD_listSet_ne _ _ _ (by omega)
  have hcarried : Carried k.e k.n (listSet k.c 0 0) 1 l ↔ Carried k.e k.n k.c 1 l :=
    and_congr_right fun _ => forall₂_congr fun i hi => by rw [hsame i hi]
  have h := carryFrom_getD k.e k.n 8 1 (listSet k.c 0 0) hl (by omega) (by rw [length_listSet, hlen]; exact hl8)
  rwa [hcarried, hsame l hl] at h

/-! ### O11 -/

/-- Settles O11: CCHAIN and each case of CSTEP by their lemmas, then the end of an iteration and the advance. -/
theorem counterChains : Obligations.CounterChains := by
  unfold Obligations.CounterChains
  intro s k0 with_
  refine ⟨fun a g hg ha hlen => ?cchain, fun k w m => ?cstep⟩
  case cchain =>
    refine ⟨listSet k0.se g.toNat ((s.srcSca a).toNat % 2 ^ 32), fun l hl => ?_, State.ends_cchain ha g 0, _, _, fun l hl => ?_,
      State.ends_cchain ha g 1⟩
    · by_cases hlg : l = g.toNat
      · rw [if_pos hlg, hlg, getD_listSet_self _ _ (by omega)]
      · rw [if_neg hlg, getD_listSet_ne _ _ _ hlg]
    · constructor <;> rw [getD_map_range _ _ (by omega), if_pos hl]
  case cstep =>
    intro gives tag
    refine ⟨fun rest h => State.gives_cstep (Chain.next_of_eos _ _ h) k, fun t rest ht h => State.gives_cstep (Chain.next_of_mark _ _ ht h) k,
      fun h hzero => State.gives_cstep (Chain.next_of_zero_extent _ _ h hzero) k, fun h hne => ?data, fun k1 _ _ hlen => ?chain⟩
    case data =>
      have hlin : ((m == 1) = true) = (m = 1) := propext beq_iff_eq
      have hnext := State.gives_cstep (w := w) (Chain.next_of_data _ (m == 1) h hne) k
      simp only [hlin] at hnext
      exact hnext
    case chain =>
      exact ⟨fun h hh hlast hmax => Chain.endItems_eq hh (Chain.lastLevel_eq hh hlast hmax), Chain.advance_level_zero (by omega),
        fun l h1 h8 => Chain.advance_level hlen h1 h8, rfl⟩

end Sys2Proof.Machine

/-! SUPPORT. Order, sign and class of FP32 (R163 to R166). The magnitude field of an encoding, exponent above fraction, rises with the number it
stands for; the keys by which words are compared are that field with its sign. -/

namespace Sys2Proof.Machine

/-! ### The fields of an FP32 word (R136) -/

/-- The magnitude field of a word: its exponent above its fraction. -/
def magOf (w : Word) : Nat := w.toNat % 2 ^ 31

theorem toNat_exponent (w : Word) : (w.extractLsb' 23 8).toNat = magOf w / 2 ^ 23 := by
  rw [BitVec.extractLsb'_toNat, Nat.shiftRight_eq_div_pow, magOf]
  omega

theorem toNat_fraction (w : Word) : (w.extractLsb' 0 23).toNat = magOf w % 2 ^ 23 := by
  rw [BitVec.extractLsb'_toNat, Nat.shiftRight_eq_div_pow, magOf]
  omega

theorem val32_eq (w : Word) :
    val32 w = if magOf w / 2 ^ 23 = 0 then .fin (w.getLsbD 31) (magOf w % 2 ^ 23) (-149)
      else if magOf w / 2 ^ 23 = 255 then
        (if magOf w % 2 ^ 23 = 0 then .inf (w.getLsbD 31) else .nan (!(magOf w % 2 ^ 23).testBit 22))
      else .fin (w.getLsbD 31) (2 ^ 23 + magOf w % 2 ^ 23) (((magOf w / 2 ^ 23 : Nat) : Int) - 150) := by
  have hsign : w.toNat.testBit 31 = w.getLsbD 31 := rfl
  have hex : bitsN w.toNat 30 23 = magOf w / 2 ^ 23 := by
    rw [bitsN, magOf]
    omega
  have hfraction : w.toNat % 2 ^ 23 = magOf w % 2 ^ 23 := by
    rw [magOf]
    omega
  have hexp : ((magOf w / 2 ^ 23 : Nat) : Int) - (127 : Nat) - (23 : Nat) = ((magOf w / 2 ^ 23 : Nat) : Int) - 150 := by omega
  simp only [val32, Fmt.value, fp32, Nat.reduceAdd, Nat.reduceSub, hsign, hex, hfraction, hexp, and_true, Bool.false_eq_true, false_and, and_false,
    if_false]
  rfl

/-- The class of a word by its fields (R166). -/
theorem fclass_eq (w : Word) :
    let ex := w.extractLsb' 23 8
    let fraction := w.extractLsb' 0 23
    let side (neg pos : Nat) : Nat := if w.getLsbD 31 then neg else pos
    fclass w = if ex = 255 then (if fraction = 0 then side 0 7 else if fraction.getLsbD 22 then 9 else 8)
      else if ex = 0 then (if fraction = 0 then side 3 4 else side 2 5) else side 1 6 := by
  intro ex fraction side
  have hex (n : Nat) (hn : n < 2 ^ 8) : ex = BitVec.ofNat 8 n ↔ magOf w / 2 ^ 23 = n := by
    rw [← BitVec.toNat_inj, toNat_exponent, BitVec.toNat_ofNat, Nat.mod_eq_of_lt hn]
  have htop : ex = 255 ↔ magOf w / 2 ^ 23 = 255 := hex 255 (by decide)
  have hlow : ex = 0 ↔ magOf w / 2 ^ 23 = 0 := hex 0 (by decide)
  have hnone : fraction = 0 ↔ magOf w % 2 ^ 23 = 0 := by
    rw [← BitVec.toNat_inj, toNat_fraction]
    rfl
  have hquiet : fraction.getLsbD 22 = (magOf w % 2 ^ 23).testBit 22 := congrArg (Nat.testBit · 22) (toNat_fraction w)
  have hzero : bitsN w.toNat 30 0 = 0 ↔ magOf w / 2 ^ 23 = 0 ∧ magOf w % 2 ^ 23 = 0 := by
    rw [bitsN, magOf]
    omega
  have hsub : bitsN w.toNat 30 23 = 0 ↔ magOf w / 2 ^ 23 = 0 := by
    rw [bitsN, magOf]
    omega
  simp only [fclass, val32_eq, htop, hlow, hnone, hquiet, hzero, hsub, side]
  generalize w.getLsbD 31 = neg, magOf w / 2 ^ 23 = e, magOf w % 2 ^ 23 = f
  by_cases h0 : e = 0
  · by_cases hf : f = 0 <;> simp [h0, hf]
  · by_cases h255 : e = 255
    · by_cases hf : f = 0
      · simp [h255, hf]
      · cases f.testBit 22 <;> simp [h255, hf]
    · simp [h0, h255]

/-! ### Magnitudes and their numbers -/

/-- The number that a magnitude field stands for, in units of 2^-149; the field of the infinities counts as that of one binade more. -/
def unitsOf (m : Nat) : Nat := if m / 2 ^ 23 = 0 then m else (2 ^ 23 + m % 2 ^ 23) * 2 ^ (m / 2 ^ 23 - 1)

theorem unitsOf_of_binade {m e : Nat} (h : m / 2 ^ 23 = e + 1) : unitsOf m = (2 ^ 23 + m % 2 ^ 23) * 2 ^ e := by
  rw [unitsOf, if_neg (by omega), h, Nat.add_sub_cancel]

theorem unitsOf_lt_succ (m : Nat) : unitsOf m < unitsOf (m + 1) := by
  by_cases hsub : m / 2 ^ 23 = 0
  · have hm : unitsOf m = m := if_pos hsub
    rw [hm]
    by_cases hin : (m + 1) / 2 ^ 23 = 0
    · have hsucc : unitsOf (m + 1) = m + 1 := if_pos hin
      omega
    · rw [unitsOf_of_binade (m := m + 1) (e := 0) (by omega), Nat.pow_zero, Nat.mul_one]
      omega
  · obtain ⟨e, he⟩ : ∃ e, m / 2 ^ 23 = e + 1 := ⟨m / 2 ^ 23 - 1, by omega⟩
    rw [unitsOf_of_binade he]
    by_cases hin : m % 2 ^ 23 + 1 < 2 ^ 23
    · rw [unitsOf_of_binade (e := e) (by omega)]
      exact Nat.mul_lt_mul_of_pos_right (by omega) (Nat.two_pow_pos e)
    · have hdouble : 2 ^ (e + 1) = 2 * 2 ^ e := Nat.pow_succ'
      rw [unitsOf_of_binade (e := e + 1) (by omega), hdouble, ← Nat.mul_assoc]
      exact Nat.mul_lt_mul_of_pos_right (by omega) (Nat.two_pow_pos e)

theorem unitsOf_lt {m n : Nat} (h : m < n) : unitsOf m < unitsOf n := by
  induction h with
  | refl => exact unitsOf_lt_succ m
  | step _ ih => exact Nat.lt_trans ih (unitsOf_lt_succ _)

theorem unitsOf_lt_iff (m n : Nat) : unitsOf m < unitsOf n ↔ m < n := by
  refine ⟨fun h => Nat.lt_of_not_le fun hle => ?_, unitsOf_lt⟩
  rcases Nat.eq_or_lt_of_le hle with rfl | hlt
  · exact Nat.lt_irrefl _ h
  · exact Nat.lt_asymm h (unitsOf_lt hlt)

/-- A magnitude with a sign. -/
def ofSign (neg : Bool) (n : Nat) : Int := if neg then -(n : Int) else n

theorem ofSign_unitsOf_lt_iff (a b : Bool) (m n : Nat) : ofSign a (unitsOf m) < ofSign b (unitsOf n) ↔ ofSign a m < ofSign b n := by
  have h0 : unitsOf 0 = 0 := if_pos (Nat.zero_div _)
  have hm := unitsOf_lt_iff 0 m
  have hn := unitsOf_lt_iff 0 n
  have hmn := unitsOf_lt_iff m n
  have hnm := unitsOf_lt_iff n m
  cases a <;> cases b <;> simp only [ofSign, if_true, Bool.false_eq_true, if_false] <;> omega

theorem ofSign_mul (neg : Bool) (n k : Nat) : ofSign neg (n * k) = ofSign neg n * k := by
  cases neg
  · exact Int.natCast_mul n k
  · exact (congrArg Neg.neg (Int.natCast_mul n k)).trans (Int.neg_mul ..).symm

/-- Below and above a magnitude greater than another the signs alone decide. -/
theorem ofSign_top {n top : Nat} (h : n < top) (a b : Bool) :
    (ofSign a top < ofSign b n ↔ a = true) ∧ (ofSign a n < ofSign b top ↔ b = false)
      ∧ (ofSign a top < ofSign b top ↔ a = true ∧ b = false) := by
  cases a <;> cases b <;> simp only [ofSign, if_true, Bool.false_eq_true, if_false, iff_true, iff_false, and_true, and_false, reduceCtorEq] <;>
    omega

theorem rat_fin (neg : Bool) (n : Nat) (e : Int) : (Fv.fin neg n e).rat = ofSign neg n * 2 ^ e := by
  cases neg
  · rfl
  · exact (Rat.neg_mul _ _).symm

/-- A word that is no NaN is an infinity, of the greatest magnitude, or the number of its units. -/
theorem val32_number {w : Word} (h : (val32 w).isNan = false) :
    (magOf w = 255 * 2 ^ 23 ∧ val32 w = .inf (w.getLsbD 31))
      ∨ magOf w < 255 * 2 ^ 23
        ∧ ∃ n e, val32 w = .fin (w.getLsbD 31) n e ∧ (val32 w).rat = ofSign (w.getLsbD 31) (unitsOf (magOf w)) * 2 ^ (-149 : Int) := by
  have hlt : magOf w < 2 ^ 31 := Nat.mod_lt _ (by decide)
  rcases Nat.eq_zero_or_pos (magOf w / 2 ^ 23) with h0 | hpos
  · have hval : val32 w = .fin (w.getLsbD 31) (magOf w % 2 ^ 23) (-149) := by rw [val32_eq, if_pos h0]
    refine .inr ⟨by omega, _, _, hval, ?_⟩
    rw [hval, rat_fin, unitsOf, if_pos h0, Nat.mod_eq_of_lt (by omega)]
  · rw [val32_eq, if_neg (by omega)] at h ⊢
    by_cases h255 : magOf w / 2 ^ 23 = 255
    · rw [if_pos h255] at h ⊢
      by_cases hf : magOf w % 2 ^ 23 = 0
      · exact .inl ⟨by omega, if_pos hf⟩
      · rw [if_neg hf] at h
        cases h
    · obtain ⟨e, he⟩ : ∃ e, magOf w / 2 ^ 23 = e + 1 := ⟨magOf w / 2 ^ 23 - 1, by omega⟩
      rw [if_neg h255]
      refine .inr ⟨by omega, _, _, rfl, ?_⟩
      have hexp : ((e + 1 : Nat) : Int) - 150 = (e : Int) + -149 := by omega
      have hpow : (((2 ^ e : Nat) : Int) : Rat) = 2 ^ (e : Int) := (Rat.natCast_pow 2 e).trans (Rat.zpow_natCast 2 e).symm
      rw [rat_fin, unitsOf_of_binade he, he, hexp, Rat.zpow_add (by decide), ofSign_mul, Rat.intCast_mul, hpow, Rat.mul_assoc]

/-- Of two numbers one lies below the other where its units, with their sign, do. -/
theorem below_iff_units {p q : Word} (hp : (val32 p).isNan = false) (hq : (val32 q).isNan = false) :
    (val32 p).below (val32 q) ↔ ofSign (p.getLsbD 31) (unitsOf (magOf p)) < ofSign (q.getLsbD 31) (unitsOf (magOf q)) := by
  have hrange {m : Nat} (hm : m < 255 * 2 ^ 23) : unitsOf m < unitsOf (255 * 2 ^ 23) := unitsOf_lt hm
  have hunit : (0 : Rat) < 2 ^ (-149 : Int) := Rat.zpow_pos (by decide)
  rcases val32_number hp with ⟨hmp, hvp⟩ | ⟨hmp, n, e, hvp, hrp⟩ <;> rcases val32_number hq with ⟨hmq, hvq⟩ | ⟨hmq, k, d, hvq, hrq⟩
  · obtain ⟨-, -, htop⟩ := ofSign_top (hrange (by decide : 0 < 255 * 2 ^ 23)) (p.getLsbD 31) (q.getLsbD 31)
    rw [hvp, hvq, hmp, hmq, Fv.below, htop]
  · obtain ⟨htop, -, -⟩ := ofSign_top (hrange hmq) (p.getLsbD 31) (q.getLsbD 31)
    rw [hvp, hvq, hmp, Fv.below, htop]
  · obtain ⟨-, htop, -⟩ := ofSign_top (hrange hmp) (p.getLsbD 31) (q.getLsbD 31)
    rw [hvp, hvq, hmq, Fv.below, htop]
  · rw [hvp] at hrp
    rw [hvq] at hrq
    rw [hvp, hvq, Fv.below, hrp, hrq, Rat.mul_lt_mul_right hunit, Rat.intCast_lt_intCast]

/-! ### The keys (R163, R164) -/

theorem sign_eq_decide (w : Word) : w.getLsbD 31 = decide (2 ^ 31 ≤ w.toNat) :=
  (BitVec.msb_eq_getLsbD_last w).symm.trans (BitVec.msb_eq_decide w)

theorem eq_negZero_iff (w : Word) : w = 0x80000000#32 ↔ w.toNat = 2 ^ 31 := (BitVec.toNat_inj (y := 0x80000000#32)).symm

theorem eq_zero_iff_toNat (w : Word) : w = 0 ↔ w.toNat = 0 := (BitVec.toNat_inj (y := 0#32)).symm

theorem eqKey_eq (w : Word) : eqKey w = ofSign (w.getLsbD 31) (magOf w) := by
  have hlt := w.isLt
  simp only [eqKey, ofSign, magOf, eq_negZero_iff, sign_eq_decide, decide_eq_true_eq]
  split <;> split <;> omega

theorem eqKey_lt_iff {p q : Word} (hp : (val32 p).isNan = false) (hq : (val32 q).isNan = false) :
    eqKey p < eqKey q ↔ (val32 p).below (val32 q) := by
  rw [below_iff_units hp hq, ofSign_unitsOf_lt_iff, eqKey_eq, eqKey_eq]

theorem eqKey_eq_iff (p q : Word) : eqKey p = eqKey q ↔ p = q ∨ (p = 0 ∨ p = 0x80000000#32) ∧ (q = 0 ∨ q = 0x80000000#32) := by
  have hp := p.isLt
  have hq := q.isLt
  rw [← BitVec.toNat_inj]
  simp only [eqKey_eq, ofSign, magOf, sign_eq_decide, decide_eq_true_eq, eq_negZero_iff, eq_zero_iff_toNat]
  split <;> split <;> omega

/-- Of the words with the sign set the order key lies one lower, which parts -0 from +0. -/
theorem orderKey_eq (w : Word) : orderKey w = if 2 ^ 31 ≤ w.toNat then -(magOf w : Int) - 1 else magOf w := by
  have hlt := w.isLt
  rw [orderKey, magOf]
  split <;> split <;> omega

theorem orderKey_lt_iff (p q : Word) : orderKey p < orderKey q ↔ eqKey p < eqKey q ∨ p = 0x80000000#32 ∧ q = 0 := by
  have hp := p.isLt
  have hq := q.isLt
  simp only [orderKey_eq, eqKey_eq, ofSign, magOf, sign_eq_decide, decide_eq_true_eq, eq_negZero_iff, eq_zero_iff_toNat]
  split <;> split <;> omega

theorem orderKey_inj (p q : Word) : orderKey p = orderKey q ↔ p = q := by
  have hp := p.isLt
  have hq := q.isLt
  rw [← BitVec.toNat_inj, orderKey, orderKey]
  split <;> split <;> omega

/-! ### Lane-wise firings -/

theorem State.givesFloat_of_lanes {s : State} {i : Instr} {lat : Nat} {d : Dst} {l : List Src} {g f : Nat → Fr}
    (h : exec i s = s.fLanes lat d l g) (hp : s.poisoned l = none) (hg : ∀ k, g k = f k) : s.GivesFloat s i lat d f :=
  funext hg ▸ State.givesFloat_of h hp rfl fun _ _ => rfl

theorem State.givesFloat_of_f1 {s : State} {i : Instr} {lat : Nat} {d : Dst} {a : Src} {g : Word → Fr} {f : Nat → Fr}
    (h : exec i s = s.f1 lat d a g) (hp : s.poisoned [a] = none) (hg : ∀ k, g ((s.srcVec a).get k) = f k) : s.GivesFloat s i lat d f :=
  State.givesFloat_of_lanes h hp hg

theorem State.givesFloat_of_f2 {s : State} {i : Instr} {lat : Nat} {d : Dst} {a b : Src} {g : Word → Word → Fr} {f : Nat → Fr}
    (h : exec i s = s.f2 lat d a b g) (hp : s.poisoned [a, b] = none) (hg : ∀ k, g ((s.srcVec a).get k) ((s.srcVec b).get k) = f k) :
    s.GivesFloat s i lat d f :=
  State.givesFloat_of_lanes h hp hg

/-! ### Minima, compares and signs of one lane (R163 to R165) -/

/-- A NaN operand of FMIN or FMAX gives the canonical NaN. -/
theorem fminmax_quiet (max : Bool) (a b : Word) :
    fminmax max false a b = (if (val32 a).isNan || (val32 b).isNan then 0x7FC00000#32 else pick max a b,
      { inv := (val32 a).snan || (val32 b).snan }) := by
  cases ha : (val32 a).isNan <;> cases hb : (val32 b).isNan <;> simp [fminmax, ha, hb]

/-- FMINN and FMAXN prefer a number to a NaN. -/
theorem fminmax_number (max : Bool) (a b : Word) :
    fminmax max true a b = (if (val32 a).isNan && (val32 b).isNan then 0x7FC00000#32
      else if (val32 a).isNan then b else if (val32 b).isNan then a else pick max a b, { inv := (val32 a).snan || (val32 b).snan }) := by
  cases ha : (val32 a).isNan <;> cases hb : (val32 b).isNan <;> simp [fminmax, ha, hb]

/-- The condition that FCMP tests of two numbers by their keys (R164). -/
def cmpHolds (m : Nat) (p q : Int) : Bool :=
  if m = 0 then decide (p = q) else if m = 1 then decide (p ≠ q) else if m = 2 then decide (p < q) else if m = 3 then decide (p ≤ q) else false

/-- FCMP by its condition, by what it answers of a NaN, and by whether a quiet NaN is invalid too. -/
theorem fcmp_eq {m : Nat} {unord loud : Bool} {f : Int → Int → Bool} (hf : cmpHolds m = f) (hunord : decide (m = 1 ∨ m = 4) = unord)
    (hloud : decide (m = 2 ∨ m = 3) = loud) (a b : Word) :
    let any := (val32 a).isNan || (val32 b).isNan
    fcmp m a b = (if (if any then unord else f (eqKey a) (eqKey b)) then 0xFFFFFFFF#32 else 0,
      if loud then { inv := any } else { inv := (val32 a).snan || (val32 b).snan }) := by
  subst hf hunord hloud
  intro any
  refine Prod.ext rfl ?_
  by_cases hm : m = 2 ∨ m = 3 <;> simp [fcmp, hm, any]

theorem fsgn_eq (m : Nat) (a b : Word) :
    fsgn m a b = if (val32 a).isNan then (0x7FC00000#32, { inv := (val32 a).snan })
      else (putBit a 31 (if m = 0 then b.getLsbD 31 else if m = 1 then !b.getLsbD 31 else if m = 2 then a.getLsbD 31 != b.getLsbD 31
        else if m = 3 then false else !a.getLsbD 31), {}) := by
  cases hval : val32 a <;> simp [fsgn, hval, Fv.isNan, Fv.snan, frNan]

/-! ### O14 -/

/-- Settles O14: each firing by the lemma of its lane, the classes by the fields of the word, and the keys by the magnitudes. -/
theorem floatOrderSignClass : Obligations.FloatOrderSignClass := by
  unfold Obligations.FloatOrderSignClass
  intro s d a b hab ha x y sig any lesser greater quiet number test cmp sign
  have hcmp (m : BitVec 3) (unord : Bool) (f : Int → Int → Bool) (loud : Bool) (hf : cmpHolds m.toNat = f)
      (hunord : decide (m.toNat = 1 ∨ m.toNat = 4) = unord) (hloud : decide (m.toNat = 2 ∨ m.toNat = 3) = loud) : cmp m unord f loud :=
    State.givesFloat_of_f2 rfl hab fun k => fcmp_eq hf hunord hloud (x k) (y k)
  have hsign2 (m : BitVec 3) (f : Word → Word → Bool) (hm : m.toNat < 3)
      (h : ∀ p q : Word, fsgn m.toNat p q = if (val32 p).isNan then (0x7FC00000#32, { inv := (val32 p).snan })
        else (putBit p 31 (f p q), {})) : sign m f :=
    State.givesFloat_of_f2 (if_pos hm) hab fun k => h (x k) (y k)
  have hsign1 (m : BitVec 3) (f : Word → Bool) (hm : ¬ m.toNat < 3)
      (h : ∀ p : Word, fsgn m.toNat p 0 = if (val32 p).isNan then (0x7FC00000#32, { inv := (val32 p).snan })
        else (putBit p 31 (f p), {})) : sign m fun p _ => f p :=
    State.givesFloat_of_f1 (if_neg hm) ha fun k => h (x k)
  refine ⟨State.givesFloat_of_f2 rfl hab fun k => fminmax_quiet false (x k) (y k),
    State.givesFloat_of_f2 rfl hab fun k => fminmax_quiet true (x k) (y k),
    State.givesFloat_of_f2 rfl hab fun k => fminmax_number false (x k) (y k),
    State.givesFloat_of_f2 rfl hab fun k => fminmax_number true (x k) (y k),
    hcmp 0 _ _ _ rfl rfl rfl, hcmp 1 _ _ _ rfl rfl rfl, hcmp 2 _ _ _ rfl rfl rfl, hcmp 3 _ _ _ rfl rfl rfl, hcmp 4 _ _ _ rfl rfl rfl,
    hsign2 0 _ (by decide) (fsgn_eq 0), hsign2 1 _ (by decide) (fsgn_eq 1), hsign2 2 _ (by decide) (fsgn_eq 2),
    hsign1 3 _ (by decide) fun p => fsgn_eq 3 p 0, hsign1 4 _ (by decide) fun p => fsgn_eq 4 p 0,
    State.givesFloat_of_f1 (g := fun w => (BitVec.ofNat 32 (2 ^ fclass w), {})) rfl ha fun k => rfl, fclass_eq, fun p q hp hq => ?keys⟩
  case keys =>
    exact ⟨eqKey_lt_iff hp hq, eqKey_eq_iff p q, (orderKey_lt_iff p q).trans (or_congr_left (eqKey_lt_iff hp hq)), orderKey_inj p q⟩

end Sys2Proof.Machine

/-! SUPPORT. The reductions over the lanes (R167, R168): FRED's six halvings as a tree of additions with the flags of each, and the lane that a scan
in rising order leaves as the best one. -/

namespace Sys2Proof.Machine

/-! ### The halvings of FRED (R167) -/

/-- Two sums added, with the flags of this addition and of those before it. -/
def addNode (a b : Fr) : Fr := ((fadd 0 a.1 b.1).1, ((fadd 0 a.1 b.1).2.or a.2).or b.2)

/-- Element j of a list after l halvings. -/
def sumTree (f : Nat → Fr) : Nat → Nat → Fr
  | 0, j => f j
  | l + 1, j => addNode (sumTree f l (2 * j)) (sumTree f l (2 * j + 1))

theorem halve_map_range (f : Nat → Fr) (n : Nat) :
    halve ((List.range (2 * n)).map f) = (List.range n).map fun j => addNode (f (2 * j)) (f (2 * j + 1)) := by
  induction n generalizing f with
  | zero => rfl
  | succ n ih =>
    have hrest := ih fun i => f (i + 2)
    rw [Nat.mul_succ, List.range_succ_eq_map, List.range_succ_eq_map, List.range_succ_eq_map]
    simp only [List.map_cons, List.map_map, halve]
    exact congrArg (List.cons _) hrest

theorem tree64_map_range (f : Nat → Fr) : tree64 ((List.range 64).map f) = sumTree f 6 0 := by
  have hlevel (l n : Nat) : halve ((List.range (2 * n)).map (sumTree f l)) = (List.range n).map (sumTree f (l + 1)) :=
    halve_map_range (sumTree f l) n
  have h0 : (List.range 64).map f = (List.range (2 * 32)).map (sumTree f 0) := rfl
  rw [tree64, h0, hlevel 0 32, hlevel 1 16, hlevel 2 8, hlevel 3 4, hlevel 4 2, hlevel 5 1]
  rfl

section
variable (x : Nat → Word)

theorem sumTree_fst (l j : Nat) : (sumTree (fun i => (x i, {})) l j).1 = pairTree x l j := by
  induction l generalizing j with
  | zero => rfl
  | succ l ih => rw [sumTree, addNode, ih, ih, pairTree]

/-- The flags at element j after l halvings are those of the additions at and below it: at level k of the elements that j comes from. -/
theorem sumTree_flags (l j n : Nat) : (sumTree (fun i => (x i, {})) l j).2.bits.getLsbD n = true
    ↔ ∃ k i, k < l ∧ i / 2 ^ (l - 1 - k) = j ∧ (fadd 0 (pairTree x k (2 * i)) (pairTree x k (2 * i + 1))).2.bits.getLsbD n = true := by
  induction l generalizing j with
  | zero =>
    have hnone : Fl.bits {} = 0 := by decide
    simp [sumTree, hnone]
  | succ l ih =>
    have hhalf {k i : Nat} (hk : k < l) : i / 2 ^ (l + 1 - 1 - k) = i / 2 ^ (l - 1 - k) / 2 := by
      rw [Nat.div_div_eq_div_mul, ← Nat.pow_succ]
      congr 2
      omega
    rw [sumTree, addNode, Fl.bits_or, Fl.bits_or, Bool.or_eq_true, Bool.or_eq_true, ih, ih, sumTree_fst, sumTree_fst]
    constructor
    · rintro ((hj | ⟨k, i, hk, hi, hf⟩) | ⟨k, i, hk, hi, hf⟩)
      · exact ⟨l, j, l.lt_succ_self, by simp, hj⟩
      · exact ⟨k, i, by omega, by rw [hhalf hk]; omega, hf⟩
      · exact ⟨k, i, by omega, by rw [hhalf hk]; omega, hf⟩
    · rintro ⟨k, i, hk, hi, hf⟩
      rcases Nat.eq_or_lt_of_le (Nat.le_of_lt_succ hk) with rfl | hlt
      · rw [Nat.add_sub_cancel, Nat.sub_self, Nat.pow_zero, Nat.div_one] at hi
        subst hi
        exact .inl (.inl hf)
      · rw [hhalf hlt] at hi
        rcases Nat.mod_two_eq_zero_or_one (i / 2 ^ (l - 1 - k)) with heven | hodd
        · exact .inl (.inr ⟨k, i, hlt, by omega, hf⟩)
        · exact .inr ⟨k, i, hlt, by omega, hf⟩

end

/-- Lane j of the third t of the lanes, +0 where the mask is clear. -/
def fredLane (mask : Mask) (v : Vec) (t j : Nat) : Word := if mask.getLsbD (64 * t + j) then v.get (64 * t + j) else 0

theorem fredSum_eq (mask : Mask) (v : Vec) :
    let third (t : Nat) : Fr := sumTree (fun j => (fredLane mask v t j, {})) 6 0
    let first := fadd 0 (third 0).1 (third 1).1
    let whole := fadd 0 first.1 (third 2).1
    fredSum mask v = (whole.1, (((third 0).2.or (third 1).2).or (third 2).2).or (first.2.or whole.2)) := by
  have hthird (t : Nat) : tree64 ((rangeFrom (64 * t) 64).map fun i => (if mask.getLsbD i then v.get i else 0, {}))
      = sumTree (fun j => (fredLane mask v t j, {})) 6 0 := by
    rw [rangeFrom, List.map_map, ← tree64_map_range]
    rfl
  simp only [fredSum, hthird]

/-- An addition of two elements of level l in one of the three trees raises flag n. -/
def TreeRaises (u : Nat → Nat → Word) (n t : Nat) : Prop :=
  ∃ l j, l < 6 ∧ j < 2 ^ (5 - l) ∧ (fadd 0 (pairTree (u t) l (2 * j)) (pairTree (u t) l (2 * j + 1))).2.bits.getLsbD n = true

theorem sumTree_raises (u : Nat → Nat → Word) (n t : Nat) :
    (sumTree (fun j => (u t j, {})) 6 0).2.bits.getLsbD n = true ↔ TreeRaises u n t := by
  simp only [sumTree_flags, Nat.div_eq_zero_iff_lt (Nat.two_pow_pos _)]
  rfl

theorem exists_lt_three (p : Nat → Prop) : (∃ t, t < 3 ∧ p t) ↔ (p 0 ∨ p 1) ∨ p 2 := by
  simp only [Nat.exists_lt_succ_right (n := 2), Nat.exists_lt_succ_right (n := 1), Nat.exists_lt_succ_right (n := 0), Nat.not_lt_zero, false_and,
    exists_false, false_or]

theorem fredSum_fst (mask : Mask) (v : Vec) :
    let u := fredLane mask v
    (fredSum mask v).1 = (fadd 0 (fadd 0 (pairTree (u 0) 6 0) (pairTree (u 1) 6 0)).1 (pairTree (u 2) 6 0)).1 := by
  simp only [fredSum_eq, sumTree_fst]

/-- FRED's flags are those of its two last additions and of every addition of the three trees. -/
theorem fredSum_flags (mask : Mask) (v : Vec) (n : Nat) :
    let u := fredLane mask v
    let first := fadd 0 (pairTree (u 0) 6 0) (pairTree (u 1) 6 0)
    let whole := fadd 0 first.1 (pairTree (u 2) 6 0)
    (fredSum mask v).2.bits.getLsbD n = true
      ↔ first.2.bits.getLsbD n = true ∨ whole.2.bits.getLsbD n = true ∨ ∃ t, t < 3 ∧ TreeRaises u n t := by
  intro u first whole
  simp only [fredSum_eq, sumTree_fst, Fl.bits_or, Bool.or_eq_true, sumTree_raises, exists_lt_three, u, first, whole]
  exact or_comm.trans or_assoc

theorem State.gives_fred {s : State} {a : Src} (hp : s.poisoned [a] = none) (d : Dst) :
    s.Gives (.fred d a) 8 (s.write d (.sca ((fredSum s.my.regs.mask (s.srcVec a)).1.setWidth 64)) s.my.regs.mask
      ++ flagPart (fredSum s.my.regs.mask (s.srcVec a)).2.bits) := by
  refine State.gives_of_finish ?_
  show execFred d a s = _
  rw [execFred, hp]
  rfl

/-! ### The extreme of the lanes (R168) -/

/-- The key by which FRMAX or FRMIN ranks a lane: the lesser is the better. -/
def rankOf (max : Bool) (w : Word) : Int := if max then -orderKey w else orderKey w

theorem rankOf_lt_iff (max : Bool) (p q : Word) :
    rankOf max p < rankOf max q ↔ if max then orderKey q < orderKey p else orderKey p < orderKey q := by
  cases max
  · exact Iff.rfl
  · exact Int.neg_lt_neg_iff

/-- Lane j is better than lane k, or its equal and lower. -/
def Outranks (max : Bool) (v : Vec) (j k : Nat) : Prop :=
  rankOf max (v.get j) < rankOf max (v.get k) ∨ rankOf max (v.get k) = rankOf max (v.get j) ∧ j < k

theorem outranks_iff (max : Bool) (v : Vec) (j k : Nat) : Outranks max v j k
    ↔ (if max then orderKey (v.get k) < orderKey (v.get j) else orderKey (v.get j) < orderKey (v.get k))
      ∨ orderKey (v.get k) = orderKey (v.get j) ∧ j < k := by
  have heq (p q : Word) : rankOf max p = rankOf max q ↔ orderKey p = orderKey q := by
    cases max
    · exact Iff.rfl
    · exact Int.neg_inj
  rw [Outranks, rankOf_lt_iff, heq]

theorem Outranks.trans {max : Bool} {v : Vec} {i j k : Nat} (h : Outranks max v i j) (g : Outranks max v j k) : Outranks max v i k := by
  unfold Outranks at *
  omega

theorem bestLane_cons (max : Bool) (v : Vec) (i j : Nat) (t : List Nat) : bestLane max v (i :: t) (some (v.get j, j))
    = if rankOf max (v.get i) < rankOf max (v.get j) then bestLane max v t (some (v.get i, i)) else bestLane max v t (some (v.get j, j)) := by
  simp only [bestLane, rankOf_lt_iff]

/-- Over rising lanes the scan ends at one of them that outranks every other. -/
theorem bestLane_spec (max : Bool) (v : Vec) {j : Nat} {l : List Nat} (hl : (j :: l).Pairwise (· < ·)) :
    ∃ b, bestLane max v l (some (v.get j, j)) = some (v.get b, b) ∧ b ∈ j :: l ∧ ∀ k ∈ j :: l, k ≠ b → Outranks max v b k := by
  induction l generalizing j with
  | nil => exact ⟨j, rfl, List.mem_cons_self, fun k hk hne => absurd (List.mem_singleton.1 hk) hne⟩
  | cons i t ih =>
    obtain ⟨hj, hrest⟩ := List.pairwise_cons.1 hl
    have hji : j < i := hj i List.mem_cons_self
    rw [bestLane_cons]
    by_cases hlt : rankOf max (v.get i) < rankOf max (v.get j)
    · obtain ⟨b, hb, hmem, hall⟩ := ih hrest
      rw [if_pos hlt]
      refine ⟨b, hb, List.mem_cons_of_mem _ hmem, fun k hk hne => ?_⟩
      rcases List.mem_cons.1 hk with rfl | hk
      · by_cases hbi : i = b
        · exact hbi ▸ .inl hlt
        · exact (hall i List.mem_cons_self hbi).trans (.inl hlt)
      · exact hall k hk hne
    · have hkeep : (j :: t).Pairwise (· < ·) :=
        List.pairwise_cons.2 ⟨fun k hk => hj k (List.mem_cons_of_mem _ hk), (List.pairwise_cons.1 hrest).2⟩
      obtain ⟨b, hb, hmem, hall⟩ := ih hkeep
      have hover : Outranks max v j i := by
        unfold Outranks
        omega
      rw [if_neg hlt]
      refine ⟨b, hb, (List.cons_subset_cons j (List.subset_cons_self i t)) hmem, fun k hk hne => ?_⟩
      rcases List.mem_cons.1 hk with rfl | hk
      · exact hall k List.mem_cons_self hne
      · rcases List.mem_cons.1 hk with rfl | hk
        · by_cases hbj : j = b
          · exact hbj ▸ hover
          · exact (hall j List.mem_cons_self hbj).trans hover
        · exact hall k (List.mem_cons_of_mem _ hk) hne

/-! ### The lanes under a mask -/

theorem mem_maskList {mask : Mask} {k : Nat} : k ∈ mask.list ↔ k < 192 ∧ mask.getLsbD k = true := by
  rw [Mask.list, List.mem_filter, List.mem_range]

theorem maskList_pairwise (mask : Mask) : mask.list.Pairwise (· < ·) := List.Pairwise.filter _ List.pairwise_lt_range

section
variable (max : Bool) {mask : Mask} {v : Vec}

theorem frExtreme_of_empty (h : ∀ k, k ∉ mask.list) :
    frExtreme max mask v = (if max then 0xFF800000#32 else 0x7F800000#32, 2 ^ 32 - 1, {}) := by
  have hnil : mask.list = [] := List.eq_nil_iff_forall_not_mem.2 h
  rw [frExtreme, hnil]
  rfl

theorem frExtreme_of_nan (h : ∃ k ∈ mask.list, (val32 (v.get k)).isNan = true) :
    ∃ j, frExtreme max mask v = (0x7FC00000#32, j, { inv := mask.list.any fun k => (val32 (v.get k)).snan })
      ∧ j ∈ mask.list ∧ (val32 (v.get j)).isNan = true ∧ ∀ k ∈ mask.list, (val32 (v.get k)).isNan = true → j ≤ k := by
  obtain ⟨k, hk, hnan⟩ := h
  obtain ⟨j, hfind⟩ : ∃ j, mask.list.find? (fun i => (val32 (v.get i)).isNan) = some j :=
    Option.isSome_iff_exists.1 (List.find?_isSome.2 ⟨k, hk, hnan⟩)
  have hlow := hfind
  rw [Mask.list, List.find?_filter, List.find?_range_eq_some] at hlow
  obtain ⟨-, -, hbelow⟩ := hlow
  have hj : (val32 (v.get j)).isNan = true := List.find?_some (p := fun i => (val32 (v.get i)).isNan) hfind
  refine ⟨j, by simp only [frExtreme, hfind], List.mem_of_find?_eq_some hfind, hj, fun k hk hnan => Nat.not_lt.1 fun hlt => ?_⟩
  simpa [(mem_maskList.1 hk).2, hnan] using hbelow k hlt

theorem frExtreme_of_numbers (hne : ∃ k, k ∈ mask.list) (h : ∀ k ∈ mask.list, (val32 (v.get k)).isNan = false) :
    ∃ j, frExtreme max mask v = (v.get j, j, {}) ∧ j ∈ mask.list ∧ ∀ k ∈ mask.list, k ≠ j → Outranks max v j k := by
  have hfind : mask.list.find? (fun i => (val32 (v.get i)).isNan) = none := List.find?_eq_none.2 fun k hk => by simp [h k hk]
  have hrise := maskList_pairwise mask
  simp only [frExtreme, hfind]
  cases hl : mask.list with
  | nil =>
    obtain ⟨k, hk⟩ := hne
    rw [hl] at hk
    cases hk
  | cons i t =>
    rw [hl] at hrise
    obtain ⟨j, hj, hmem, hall⟩ := bestLane_spec max v hrise
    exact ⟨j, by rw [bestLane, hj], hmem, hall⟩

end

theorem append_index (w : Word) (j : Nat) :
    BitVec.ofNat 64 (w.toNat + j % 65536 * 2 ^ 32) = 0#16 ++ BitVec.ofNat 16 j ++ w := by
  have hindex : (0#16 ++ BitVec.ofNat 16 j).toNat = j % 65536 := by
    rw [BitVec.toNat_append, BitVec.toNat_zero, Nat.zero_shiftLeft, Nat.zero_or, BitVec.toNat_ofNat]
  rw [Nat.add_comm, ← hindex]
  exact ofNat_mul_add_eq_append (0#16 ++ BitVec.ofNat 16 j) w

/-- FRMAX or FRMIN in its three forms: the value, its lane, and both in one word. -/
theorem State.gives_frExt {s : State} {a : Src} (hp : s.poisoned [a] = none) (max : Bool) (d : Dst) {w : Word} {j : Nat} {fl : Fl}
    (hr : frExtreme max s.my.regs.mask (s.srcVec a) = (w, j, fl)) :
    let i (m : BitVec 3) : Instr := if max then .frmax d a m else .frmin d a m
    let put (w : Dword) : List Eff := s.write d (.sca w) s.my.regs.mask ++ flagPart fl.bits
    s.Gives (i 0) 6 (put (w.setWidth 64)) ∧ s.Gives (i 1) 6 (put (BitVec.ofNat 64 j))
      ∧ s.Gives (i 2) 6 (put (0#16 ++ BitVec.ofNat 16 j ++ w)) := by
  intro i put
  have hexec (m : BitVec 3) : exec (i m) s = s.frExt max d a m := by cases max <;> rfl
  have hgives (m : BitVec 3) (r : Dword)
      (h : (if m = 0 then w.setWidth 64 else if m = 1 then BitVec.ofNat 64 j else BitVec.ofNat 64 (w.toNat + j % 65536 * 2 ^ 32)) = r) :
      s.Gives (i m) 6 (put r) := by
    refine State.gives_of_finish ((hexec m).trans ?_)
    simp only [State.frExt, hp, hr, h]
    rfl
  exact ⟨hgives 0 _ rfl, hgives 1 _ rfl, hgives 2 _ (append_index w j)⟩

/-! ### O15 -/

/-- Settles O15: FRED by its tree, FRMAX and FRMIN by what stands under the mask: nothing, a NaN, or numbers alone. -/
theorem floatReductions : Obligations.FloatReductions := by
  unfold Obligations.FloatReductions
  intro s d a hp mask x put valid
  refine ⟨?sum, fun g => ?extreme⟩
  case sum =>
    have hgives := State.gives_fred hp d
    rw [fredSum_fst] at hgives
    refine ⟨_, hgives, fun n => (fredSum_flags mask (s.srcVec a) n).trans ?_⟩
    simp only [TreeRaises, exists_and_left]
    rfl
  case extreme =>
    intro i before
    have hvalid (k : Nat) : k ∈ mask.list ↔ valid k := mem_maskList
    simp only [← hvalid]
    by_cases hnan : ∃ k, k ∈ mask.list ∧ (val32 (x k)).isNan = true
    · obtain ⟨j, hr, hj, hjnan, hlow⟩ := frExtreme_of_nan g hnan
      obtain ⟨hval, hidx, hboth⟩ := State.gives_frExt hp g d hr
      refine ⟨_, j, _, hval, hidx, hboth, fun hnone => absurd hj (hnone j), fun _ => ⟨rfl, hj, hjnan, hlow, ?_, rfl⟩, fun _ hnum => ?_⟩
      · simp only [List.any_eq_true]
        rfl
      · rw [hnum j hj] at hjnan
        cases hjnan
    have hnumbers : ∀ k ∈ mask.list, (val32 (x k)).isNan = false := fun k hk =>
      Bool.eq_false_iff.2 fun h => hnan ⟨k, hk, h⟩
    by_cases hsome : ∃ k, k ∈ mask.list
    · obtain ⟨j, hr, hj, hbest⟩ := frExtreme_of_numbers g hsome hnumbers
      obtain ⟨hval, hidx, hboth⟩ := State.gives_frExt hp g d hr
      exact ⟨_, j, _, hval, hidx, hboth, fun hnone => absurd hj (hnone j), fun h => absurd h hnan,
        fun _ _ => ⟨hj, rfl, rfl, fun k hk hne => (outranks_iff g (s.srcVec a) j k).1 (hbest k hk hne)⟩⟩
    · have hnone : ∀ k, k ∉ mask.list := not_exists.1 hsome
      obtain ⟨hval, hidx, hboth⟩ := State.gives_frExt hp g d (frExtreme_of_empty g hnone)
      exact ⟨_, _, _, hval, hidx, hboth, fun _ => ⟨rfl, rfl, rfl⟩, fun h => absurd h hnan, fun h => absurd h hsome⟩

end Sys2Proof.Machine

/-! SUPPORT. Conversions (R169 to R175): the elements of a packed slice after some of them are written, and the four bytes that CVT4
puts in a lane. -/

namespace Sys2Proof

/-! ### Parts of a word -/

theorem toNat_append_eq {m n : Nat} (hi : BitVec m) (lo : BitVec n) : (hi ++ lo).toNat = hi.toNat * 2 ^ n + lo.toNat := by
  rw [BitVec.toNat_append, ← Nat.shiftLeft_add_eq_or_of_lt lo.isLt, Nat.shiftLeft_eq]

theorem toNat_putField {n : Nat} (a : BitVec n) {hi lo len : Nat} (hlen : hi + 1 - lo = len) (v : Nat) :
    (putField a hi lo v).toNat = (2 ^ lo * (2 ^ len * (a.toNat / 2 ^ lo / 2 ^ len) + v % 2 ^ len) + a.toNat % 2 ^ lo) % 2 ^ n := by
  have hout := Nat.div_add_mod a.toNat (2 ^ lo)
  have hin := Nat.div_add_mod (a.toNat / 2 ^ lo) (2 ^ len)
  rw [putField, BitVec.toNat_ofNat, bitsN, hlen]
  congr 1
  calc a.toNat - a.toNat / 2 ^ lo % 2 ^ len * 2 ^ lo + v % 2 ^ len * 2 ^ lo
      = 2 ^ lo * (2 ^ len * (a.toNat / 2 ^ lo / 2 ^ len) + a.toNat / 2 ^ lo % 2 ^ len) + a.toNat % 2 ^ lo
          - a.toNat / 2 ^ lo % 2 ^ len * 2 ^ lo + v % 2 ^ len * 2 ^ lo := by rw [hin, hout]
    _ = 2 ^ lo * (2 ^ len * (a.toNat / 2 ^ lo / 2 ^ len) + v % 2 ^ len) + a.toNat % 2 ^ lo := by
      rw [Nat.mul_add, Nat.mul_add, Nat.mul_comm (2 ^ lo) (a.toNat / 2 ^ lo % 2 ^ len), Nat.mul_comm (2 ^ lo) (v % 2 ^ len)]
      omega

theorem testBit_putField {n : Nat} (a : BitVec n) {hi lo len i : Nat} (hlen : hi + 1 - lo = len) (v : Nat) (hin : i < n) :
    (putField a hi lo v).toNat.testBit i = if lo ≤ i ∧ i < lo + len then v.testBit (i - lo) else a.toNat.testBit i := by
  rw [toNat_putField a hlen, Nat.testBit_mod_two_pow, decide_eq_true hin, Bool.true_and,
    Nat.testBit_two_pow_mul_add _ (Nat.mod_lt _ (Nat.two_pow_pos lo)), Nat.testBit_two_pow_mul_add _ (Nat.mod_lt _ (Nat.two_pow_pos len)),
    Nat.testBit_mod_two_pow, Nat.testBit_mod_two_pow, Nat.testBit_div_two_pow, Nat.testBit_div_two_pow]
  by_cases hlow : i < lo
  · rw [if_pos hlow, if_neg (by omega), decide_eq_true hlow, Bool.true_and]
  · by_cases hmid : i - lo < len
    · rw [if_neg hlow, if_pos hmid, if_pos (by omega), decide_eq_true hmid, Bool.true_and]
    · rw [if_neg hlow, if_neg hmid, if_neg (by omega)]
      congr 1
      omega

end Sys2Proof

namespace Sys2Proof.Machine

/-! ### Packed elements (R169) -/

/-- The w-bit element k of a word. -/
def laneElem (w : Nat) (a : Word) (k : Nat) : Nat := a.toNat / 2 ^ (w * k) % 2 ^ w

theorem laneElem_putElem {w : Nat} (hw : 0 < w) (a : Word) {j : Nat} (hj : w * (j + 1) ≤ 32) (k x : Nat) :
    laneElem w (putElem w a k x) j = if j = k then x % 2 ^ w else laneElem w a j := by
  refine Nat.eq_of_testBit_eq fun i => ?_
  have hlen : w * k + w - 1 + 1 - w * k = w := by omega
  have hbit (b : Word) : (laneElem w b j).testBit i = (decide (i < w) && b.toNat.testBit (w * j + i)) := testBit_field b.toNat _ _ _
  rw [Nat.mul_succ] at hj
  by_cases hi : i < w
  · rw [hbit, putElem, testBit_putField a hlen x (by omega : w * j + i < 32), decide_eq_true hi, Bool.true_and]
    by_cases hjk : j = k
    · subst hjk
      rw [if_pos (by omega), if_pos rfl, Nat.add_sub_cancel_left, Nat.testBit_mod_two_pow, decide_eq_true hi, Bool.true_and]
    · have hapart : w * j + w ≤ w * k ∨ w * k + w ≤ w * j :=
        (Nat.lt_or_gt_of_ne hjk).imp (fun h => Nat.mul_succ w j ▸ Nat.mul_le_mul_left w h) fun h => Nat.mul_succ w k ▸ Nat.mul_le_mul_left w h
      rw [if_neg (by omega), if_neg hjk, hbit, decide_eq_true hi, Bool.true_and]
  · rw [hbit, decide_eq_false hi, Bool.false_and]
    split
    · rw [Nat.testBit_mod_two_pow, decide_eq_false hi, Bool.false_and]
    · rw [hbit, decide_eq_false hi, Bool.false_and]

/-- A word with those of its first n elements written that `on` selects. -/
theorem laneElem_foldl_putElem {w : Nat} (hw : 0 < w) (a : Word) (on : Nat → Bool) (f : Nat → Nat) {j : Nat} (hj : w * (j + 1) ≤ 32) (n : Nat) :
    laneElem w ((List.range n).foldl (fun a k => if on k then putElem w a k (f k) else a) a) j
      = if j < n ∧ on j = true then f j % 2 ^ w else laneElem w a j := by
  have hstep (b : Word) (k : Nat) : laneElem w (if on k then putElem w b k (f k) else b) j
      = if j = k ∧ on k = true then f k % 2 ^ w else laneElem w b j := by
    by_cases hk : on k = true <;> simp [hk, laneElem_putElem hw b hj]
  induction n with
  | zero => rfl
  | succ n ih =>
    rw [List.range_succ, List.foldl_append, List.foldl_cons, List.foldl_nil, hstep, ih]
    by_cases hjn : j = n
    · subst hjn
      simp
    · simp only [hjn, false_and, if_false, Nat.lt_succ_iff_lt_or_eq, or_false]

section
variable {w m p : Nat} (hm : w * m = 32) (d : Vec) (on : Nat → Bool) (f : Nat → Nat)
include hm

/-- Element i of a part lies at element i % m of lane i / m of the part. -/
theorem elemAt_eq (v : Vec) (i : Nat) : elemAt w p v i = laneElem w (v.get (p * (6 * w) + i / m)) (i % m) := by
  have hw : 0 < w := Nat.pos_of_mul_pos_right (hm.symm ▸ (by decide : 0 < 32))
  have hdiv : 32 / w = m := hm ▸ Nat.mul_div_cancel_left m hw
  have hlane : i * w / 32 = i / m := by rw [← hm, Nat.mul_comm i w, Nat.mul_div_mul_left _ _ hw]
  rw [elemAt, hdiv, hlane, laneElem]

theorem elemAt_packPart (hp : (p + 1) * (6 * w) ≤ 192) {i : Nat} (hi : i < 192) :
    elemAt w p (packPart w p d on f) i = if on i then f i % 2 ^ w else elemAt w p d i := by
  have hw : 0 < w := Nat.pos_of_mul_pos_right (hm.symm ▸ (by decide : 0 < 32))
  have hmpos : 0 < m := Nat.pos_of_mul_pos_left (hm.symm ▸ (by decide : 0 < 32))
  have hdiv : 32 / w = m := hm ▸ Nat.mul_div_cancel_left m hw
  have hlane : i / m < 6 * w := by
    rw [Nat.div_lt_iff_lt_mul hmpos, Nat.mul_assoc, hm]
    exact hi
  have hbit : i % m < m := Nat.mod_lt i hmpos
  have hroom : w * (i % m + 1) ≤ 32 := hm ▸ Nat.mul_le_mul_left w hbit
  have hend : p * (6 * w) + i / m < (p + 1) * (6 * w) := by
    rw [Nat.succ_mul p (6 * w)]
    exact Nat.add_lt_add_left hlane _
  rw [elemAt_eq hm, elemAt_eq hm, packPart, Vec.get_gen _ (Nat.lt_of_lt_of_le hend hp), if_pos ⟨Nat.le_add_right .., hend⟩, hdiv,
    Nat.add_sub_cancel_left, laneElem_foldl_putElem hw _ (fun k => on (i / m * m + k)) (fun k => f (i / m * m + k)) hroom, Nat.div_add_mod' i m]
  simp only [hbit, true_and]

end

theorem packPart_get_outside {w p j : Nat} (d : Vec) (on : Nat → Bool) (f : Nat → Nat) (hj : j < 192)
    (h : j < p * (6 * w) ∨ (p + 1) * (6 * w) ≤ j) : (packPart w p d on f).get j = d.get j := by
  rw [packPart, Vec.get_gen _ hj, if_neg (by omega)]

/-! ### Narrowing firings -/

/-- A narrowing instruction with a clean source gives the elements of its part (R169). -/
theorem State.givesNarrow_of {s : State} {i : Instr} {k : BitVec 4} {a : Src} {w m p : Nat} {f : Nat → Word → Nat × Fl}
    (h : exec i s = s.narrowOp (.v k) a w p f) (hp : s.poisoned [a] = none) (hm : w * m = 32) (hpart : (p + 1) * (6 * w) ≤ 192) :
    s.GivesNarrow i 3 k w p fun j => f j ((s.srcVec a).get j) := by
  let res (j : Nat) : Nat × Fl := f j ((s.srcVec a).get j)
  let on (j : Nat) : Bool := s.my.regs.mask.getLsbD j
  let rs : List (Nat × Fl) := (List.range 192).map fun j => if on j then res j else (0, {})
  have hflags : rs.map Prod.snd = (List.range 192).map fun j => if on j then (res j).2 else {} := by
    simp only [rs, List.map_map, Function.comp_def, apply_ite Prod.snd]
  refine ⟨packPart w p (s.my.v k.toNat) on fun j => (rs.getD j (0, {})).1, (Fl.all (rs.map Prod.snd)).bits, fun n hn => ?_,
    fun j hj hout => packPart_get_outside _ _ _ hj hout, hflags ▸ flagsOf_lanes s.my.regs.mask fun j => (res j).2,
    State.gives_of_finish (h.trans ?_)⟩
  · rw [elemAt_packPart hm _ _ _ hpart hn, getD_map_range _ _ hn]
    exact ite_congr rfl (fun hon => by rw [if_pos hon]) fun _ => rfl
  · rw [State.narrowOp, hp]
    rfl

/-! ### Encodings fit their width -/

section
variable {f : Fmt}

theorem Fmt.signed_lt {w : Nat} (neg : Bool) (h : w < 2 ^ (f.ew + f.m)) : f.signed neg w < 2 ^ f.width := by
  have hwidth : 2 ^ f.width = 2 * 2 ^ (f.ew + f.m) := by
    rw [Fmt.width, Nat.add_assoc, Nat.add_comm, Nat.pow_succ']
  cases neg <;> simp only [Fmt.signed, if_true, if_false, Bool.false_eq_true] <;> omega

variable (hmax : f.maxF + 1 < 2 ^ (f.ew + f.m)) (hnan : f.nan < 2 ^ f.width) (mode : Nat) (neg : Bool)
include hmax hnan

theorem Fmt.overflowed_lt (big : Bool) : f.overflowed mode neg big < 2 ^ f.width := by
  unfold Fmt.overflowed
  dsimp only
  split
  · exact Fmt.signed_lt neg (Nat.lt_of_succ_lt hmax)
  · split
    · exact Fmt.signed_lt neg hmax
    · exact hnan

theorem Fmt.ofInf_lt : (f.ofInf mode neg).1 < 2 ^ f.width := by
  unfold Fmt.ofInf
  split
  · exact Fmt.signed_lt neg hmax
  · split
    · exact Fmt.signed_lt neg (Nat.lt_of_succ_lt hmax)
    · exact hnan

theorem Fmt.round_lt (q n : Nat) (e : Int) (sticky : Bool) : (f.round mode q neg n e sticky).1 < 2 ^ f.width := by
  unfold Fmt.round
  split
  · exact Fmt.signed_lt neg (Nat.two_pow_pos _)
  · dsimp only
    split
    · exact Fmt.overflowed_lt hmax hnan mode neg _
    · refine Fmt.signed_lt neg ?_
      omega

theorem Fmt.conv_lt (q : Nat) (v : Fv) : (f.conv mode q v).1 < 2 ^ f.width := by
  cases v with
  | nan sg => exact hnan
  | inf neg => exact Fmt.ofInf_lt hmax hnan mode neg
  | fin neg n e => exact Fmt.round_lt hmax hnan mode neg q n e false

end

/-! ### CVT4 (R175) -/

theorem bitsN_nibble (v n : Nat) : bitsN v (4 * n + 3) (4 * n) = v / 16 ^ n % 16 := by
  have hlen : 4 * n + 3 + 1 - 4 * n = 4 := by omega
  simp only [bitsN, hlen, Nat.pow_mul, Nat.reducePow]

theorem sum_four_bytes (c : Nat → Nat) :
    ((List.range 4).map fun i => c i * 256 ^ i).sum = ((c 3 * 2 ^ 8 + c 2) * 2 ^ 8 + c 1) * 2 ^ 8 + c 0 := by
  simp only [List.range_succ, List.range_zero, List.map_append, List.map_cons, List.map_nil, List.sum_append, List.sum_cons, List.sum_nil,
    List.nil_append]
  grind

theorem ofNat_four_bytes {c : Nat → Nat} (hc : ∀ i, c i < 2 ^ 8) : BitVec.ofNat 32 ((List.range 4).map fun i => c i * 256 ^ i).sum
    = BitVec.ofNat 8 (c 3) ++ BitVec.ofNat 8 (c 2) ++ BitVec.ofNat 8 (c 1) ++ BitVec.ofNat 8 (c 0) := by
  have hbyte (i : Nat) : (BitVec.ofNat 8 (c i)).toNat = c i := by rw [BitVec.toNat_ofNat, Nat.mod_eq_of_lt (hc i)]
  have hsum : ((List.range 4).map fun i => c i * 256 ^ i).sum
      = (BitVec.ofNat 8 (c 3) ++ BitVec.ofNat 8 (c 2) ++ BitVec.ofNat 8 (c 1) ++ BitVec.ofNat 8 (c 0)).toNat := by
    rw [sum_four_bytes, toNat_append_eq, toNat_append_eq, toNat_append_eq, hbyte, hbyte, hbyte, hbyte]
  exact (congrArg (BitVec.ofNat 32) hsum).trans (ofNat_toNat_self (BitVec.ofNat 8 (c 3) ++ _ ++ _ ++ _))

/-- A byte that CVT4 makes of a nibble (R175). -/
def nibbleByte (f : Fmt) (kind x : Nat) : BitVec 8 := BitVec.ofNat 8 (f.conv 0 0 (nibbleValue kind x)).1

/-- CVT4 makes the four bytes of lane j of D of four nibbles of one source lane. -/
theorem State.givesFloat_cvt4 {s : State} {a : Src} (hp : s.poisoned [a] = none) (d : Dst) (c : BitVec 2) (g h : BitVec 1) :
    s.GivesFloat s (.cvt4 d a c g h) 3 d fun j =>
      let byte (i : Nat) : BitVec 8 :=
        nibbleByte (if g = 0 then e4m3 else e5m2) c.toNat (((s.srcVec a).get (96 * h.toNat + j / 2)).toNat / 16 ^ ((4 * j + i) % 8) % 16)
      (byte 3 ++ byte 2 ++ byte 1 ++ byte 0, {}) := by
  have hfits (v : Fv) : ((if g = 0 then e4m3 else e5m2).conv 0 0 v).1 < 2 ^ 8 := by
    split
    · exact Fmt.conv_lt (f := e4m3) (by decide) (by decide) 0 0 v
    · exact Fmt.conv_lt (f := e5m2) (by decide) (by decide) 0 0 v
  refine State.givesFloat_of_lanes rfl hp fun j => Prod.ext ?_ rfl
  simp only [bitsN_nibble]
  exact ofNat_four_bytes fun i => hfits _

/-! ### CVTF (R170) -/

/-- A part of the format's elements lies within the 192 lanes. -/
theorem cvtFmt_part (f p : BitVec 2) (hp : f.toNat < 2 → p.toNat < 2) :
    (cvtFmt f).width * (32 / (cvtFmt f).width) = 32 ∧ (p.toNat + 1) * (6 * (cvtFmt f).width) ≤ 192 := by
  revert f p
  decide

/-! ### O16 -/

/-- Settles O16: the narrowing forms by `State.givesNarrow_of`, the others lane by lane. -/
theorem floatConversions : Obligations.FloatConversions := by
  unfold Obligations.FloatConversions
  intro s d k a b p n hab ha x q
  refine ⟨fun f => ⟨fun hp => ?narrow, State.givesFloat_of_lanes rfl ha fun j => rfl⟩, State.givesFloat_of_lanes rfl ha fun j => rfl, ?int8,
    State.givesFloat_of_lanes rfl ha fun j => rfl, State.givesFloat_of_lanes rfl ha fun j => rfl,
    State.givesFloat_of_lanes rfl ha fun j => ?ofInt8, fun hn => ?round, State.givesFloat_of_lanes rfl hab fun j => rfl,
    State.givesFloat_of_lanes rfl hab fun j => rfl, fun c g h => State.givesFloat_cvt4 ha d c g h⟩
  case narrow =>
    obtain ⟨hwidth, hpart⟩ := cvtFmt_part f p hp
    exact State.givesNarrow_of (f := fun j v => (cvtFmt f).conv n.toNat (q j) (val32 v)) rfl ha hwidth hpart
  case int8 => exact State.givesNarrow_of (m := 4) (f := fun j v => toInt 8 n.toNat (q j) (val32 v)) rfl ha rfl (by omega)
  case ofInt8 =>
    have hsigned : signedN 8 (elemAt 8 p.toNat (s.srcVec a) j) = (BitVec.ofNat 8 (elemAt 8 p.toNat (s.srcVec a) j)).toInt := by
      rw [← signedN_toNat, BitVec.toNat_ofNat, signedN, signedN, Nat.mod_mod]
    exact congrArg (fun v => fr (ofInt32 n.toNat (q j) v)) hsigned
  case round => exact State.givesFloat_of_lanes (if_neg hn) ha fun j => rfl

end Sys2Proof.Machine
